-- ==== Sys2Proof/Word.lean ====
section
/-! DEFINITION. The words of the Dzitin and the finite maps of the model's state (spec/00_scope.md R4, R5). -/

namespace Sys2Proof

/-- A 64-bit word: scalar registers, virtual addresses, instruction words (R109). -/
abbrev Word := BitVec 64

/-- A byte of memory (R5). -/
abbrev Byte := BitVec 8

/-- A 32-bit lane register value (R52, R62). -/
abbrev Lane32 := BitVec 32

/-- A set of lanes of one team: bit L is lane L (R55). -/
abbrev Mask := BitVec 1024

/-- Sparse data by key: pairs with strictly rising keys. -/
abbrev FMap (α : Type) := List (Nat × α)

end Sys2Proof
end

