-- ==== Sys2Proof/Syntax.lean ====
section
/-! DEFINITION. The instructions and events of spec/opcode_table.json: one constructor a row.
The formats are those of spec/06_kernel_image.md R118 and R122 to R129. -/

namespace Sys2Proof

/-- The fields every instruction word has (R118): guard, negate, index apply on D and on A, flag select. -/
structure Hd where
  guard : BitVec 4
  neg   : Bool
  ixD   : Bool
  ixA   : Bool
  fb    : Bool
  deriving DecidableEq, Repr

/-- Format RRR (R122, R123): four register fields, type, rounding mode, saturate bit, entry bits [13:8]. -/
structure Rrr where
  d   : BitVec 8
  a   : BitVec 8
  b   : BitVec 8
  c   : BitVec 8
  ty  : BitVec 4
  rm  : BitVec 3
  sat : Bool
  e   : BitVec 6
  deriving DecidableEq, Repr

/-- Format RI (R122): D, A, imm22 in [37:16], entry bits [15:8]. -/
structure Ri where
  d   : BitVec 8
  a   : BitVec 8
  imm : BitVec 22
  e   : BitVec 8
  deriving DecidableEq, Repr

/-- Formats LI and BR (R122): D, a 32-bit immediate or offset in [45:14], entry bits [13:8]. -/
structure Li where
  d   : BitVec 8
  imm : BitVec 32
  e   : BitVec 6
  deriving DecidableEq, Repr

/-- Format MEM, plain layout (R124). -/
structure Mem where
  d     : BitVec 8
  a     : BitVec 8
  b     : BitVec 8
  imm   : BitVec 6
  prom  : Bool
  noOff : Bool
  ty    : BitVec 4
  ord   : BitVec 3
  scope : BitVec 3
  ret   : BitVec 3
  nol1  : Bool
  deriving DecidableEq, Repr

/-- Format MEM, atomic layout (R126). -/
structure Atm where
  d     : BitVec 8
  a     : BitVec 8
  b     : BitVec 8
  c     : BitVec 8
  ty    : BitVec 2
  ord   : BitVec 3
  scope : BitVec 3
  op    : BitVec 4
  prom  : Bool
  noOff : Bool
  deriving DecidableEq, Repr

/-- Format MX (R128): four register fields and [21:8]. -/
structure Mx where
  d : BitVec 8
  a : BitVec 8
  b : BitVec 8
  c : BitVec 8
  m : BitVec 14
  deriving DecidableEq, Repr

/-- Format EC (R129): four register fields, acquire, release, scope, entry bits [16:8]. -/
structure Ec where
  d     : BitVec 8
  a     : BitVec 8
  b     : BitVec 8
  c     : BitVec 8
  acq   : Bool
  rel   : Bool
  scope : BitVec 3
  e     : BitVec 9
  deriving DecidableEq, Repr

/-- Format SYS (R122): D, A, imm16 in [37:22], entry bits [21:8]. -/
structure Sys where
  d   : BitVec 8
  a   : BitVec 8
  imm : BitVec 16
  e   : BitVec 14
  deriving DecidableEq, Repr

/-- A token frame on a time port (R387): the 32 header bytes and the rows, in one payload. -/
structure Frame where
  port    : Nat
  udp     : Nat
  payload : List Byte
  deriving DecidableEq, Repr

/-- One member's contribution to a collective as it arrives over the fabric (R402, R403). -/
structure Flit where
  /-- The package that sends it. -/
  pkg     : Nat
  die     : Nat
  group   : BitVec 32
  seq     : Nat
  ordinal : Nat
  digest  : List Byte
  op      : Nat
  ty      : Nat
  red     : Nat
  count   : Nat
  data    : List Byte
  deriving DecidableEq, Repr

/-- What a request of another package brings from its page: key slot, placement, home die and retention hint (R78 to R80). -/
structure PodPage where
  slot  : Nat
  place : Bool
  hdie  : Nat
  hint  : Nat
  deriving DecidableEq, Repr

/-- A request of another package (R219) on a local address: load, store, atomic, the atomic OR of a byte of a page entry
(R200), the notice of a narrow release and the probes of a promoted acquire by a cluster of that package (R98), and a flush
(R214). -/
inductive PodReq where
  | load    (pkg : Nat) (page : PodPage) (pa : Nat) (n : Nat)
  | store   (pkg : Nat) (page : PodPage) (pa : Nat) (bytes : List Byte)
  | atomic  (pkg : Nat) (page : PodPage) (pa : Nat) (op ty : Nat) (ftz : Bool) (v w : Word)
  | orByte  (pkg : Nat) (page : PodPage) (pa : Nat) (b : Byte)
  | notice  (pkg : Nat) (page : PodPage) (pa : Nat) (cluster : Nat)
  | promote (pkg : Nat) (page : PodPage) (pa : Nat) (scope cluster : Nat)
  | flush   (pkg : Nat) (page : PodPage) (pa : Nat) (scope : Nat)
  deriving DecidableEq, Repr

/-- The agents of R453 that retry a queue block they could not use. -/
inductive RetryAgent where
  | launchQueue (part : Nat)
  | stage       (launch : Nat)
  | chain       (ctx : Nat) (block : Word)
  | tileRecord  (launch : Nat)
  deriving DecidableEq, Repr

/-- One constructor for each row of spec/opcode_table.json. The rows of the opcode map (R130) carry their
word's fields; the events and host commands carry what names their occurrence. -/
inductive Instr where
  -- class 0, lane
  | iadd (h : Hd) (o : Rrr) | isub (h : Hd) (o : Rrr) | imul (h : Hd) (o : Rrr) | imulh (h : Hd) (o : Rrr)
  | imad (h : Hd) (o : Rrr) | imadw (h : Hd) (o : Rrr) | idiv (h : Hd) (o : Rrr) | irem (h : Hd) (o : Rrr)
  | imin (h : Hd) (o : Rrr) | imax (h : Hd) (o : Rrr) | iabs (h : Hd) (o : Rrr) | isat (h : Hd) (o : Rrr)
  | andl (h : Hd) (o : Rrr) | orl (h : Hd) (o : Rrr) | xorl (h : Hd) (o : Rrr) | andn (h : Hd) (o : Rrr)
  | shl (h : Hd) (o : Rrr) | shr (h : Hd) (o : Rrr) | sar (h : Hd) (o : Rrr) | rot (h : Hd) (o : Rrr)
  | bfx (h : Hd) (o : Rrr) | bfi (h : Hd) (o : Rrr) | popc (h : Hd) (o : Rrr) | clz (h : Hd) (o : Rrr)
  | brev (h : Hd) (o : Rrr) | lea (h : Hd) (o : Ri) | mov (h : Hd) (o : Rrr) | movi (h : Hd) (o : Li)
  | movs (h : Hd) (o : Rrr) | sel (h : Hd) (o : Rrr) | icmp (h : Hd) (o : Rrr) | fcmp (h : Hd) (o : Rrr)
  | pand (h : Hd) (o : Rrr) | por (h : Hd) (o : Rrr) | pxor (h : Hd) (o : Rrr) | pnot (h : Hd) (o : Rrr)
  | kmov (h : Hd) (o : Rrr) | kand (h : Hd) (o : Rrr) | kor (h : Hd) (o : Rrr) | kbit (h : Hd) (o : Rrr)
  | kset (h : Hd) (o : Rrr) | fadd (h : Hd) (o : Rrr) | fsub (h : Hd) (o : Rrr) | fmul (h : Hd) (o : Rrr)
  | ffma (h : Hd) (o : Rrr) | fmin (h : Hd) (o : Rrr) | fmax (h : Hd) (o : Rrr) | fsfu (h : Hd) (o : Rrr)
  | hadd2 (h : Hd) (o : Rrr) | hmul2 (h : Hd) (o : Rrr) | hfma2 (h : Hd) (o : Rrr) | badd2 (h : Hd) (o : Rrr)
  | bmul2 (h : Hd) (o : Rrr) | bfma2 (h : Hd) (o : Rrr) | frot (h : Hd) (o : Rrr) | cvt (h : Hd) (o : Rrr)
  | reint (h : Hd) (o : Rrr) | pack4 (h : Hd) (o : Rrr) | unpk4 (h : Hd) (o : Rrr) | pack8 (h : Hd) (o : Rrr)
  | unpk8 (h : Hd) (o : Rrr) | idp4 (h : Hd) (o : Rrr) | edp4 (h : Hd) (o : Rrr) | rng (h : Hd) (o : Rrr)
  | sadd (h : Hd) (o : Rrr) | smul (h : Hd) (o : Rrr) | sand (h : Hd) (o : Rrr) | sor (h : Hd) (o : Rrr)
  | sshl (h : Hd) (o : Rrr) | scmp (h : Hd) (o : Rrr) | smov (h : Hd) (o : Rrr) | smovi (h : Hd) (o : Li)
  | red (h : Hd) (o : Rrr) | scan (h : Hd) (o : Rrr) | vcnt (h : Hd) (o : Rrr) | fkey (h : Hd) (o : Rrr)
  | shfl (h : Hd) (o : Rrr)
  -- class 1, memory
  | xcl (h : Hd) (o : Rrr) | ld (h : Hd) (o : Mem) | st (h : Hd) (o : Mem) | lds (h : Hd) (o : Mem)
  | sts (h : Hd) (o : Mem) | ldc (h : Hd) (o : Mem) | fence (h : Hd) (o : Mem) | pref (h : Hd) (o : Mem)
  | cflush (h : Hd) (o : Mem) | probe (h : Hd) (o : Mem)
  -- class 2, matrix
  | mma (h : Hd) (o : Mx) | czero (h : Hd) (o : Mx) | crd (h : Hd) (o : Mx) | cwr (h : Hd) (o : Mx)
  | cmov (h : Hd) (o : Mx) | mmask (h : Hd) (o : Mx) | mbud (h : Hd) (o : Mx) | crank (h : Hd) (o : Mx)
  | rkins (h : Hd) (o : Mx) | rkfold (h : Hd) (o : Mx) | rkmerge (h : Hd) (o : Mx) | rkout (h : Hd) (o : Mx)
  | rkfloor (h : Hd) (o : Mx)
  -- class 3, engine
  | qapp (h : Hd) (o : Ec) | qclaim (h : Hd) (o : Ec) | qdone (h : Hd) (o : Ec) | qflush (h : Hd) (o : Ec)
  | qstat (h : Hd) (o : Ec) | xcopy (h : Hd) (o : Ec) | xgather (h : Hd) (o : Ec) | xmcast (h : Hd) (o : Ec)
  | xchain (h : Hd) (o : Ec) | launch (h : Hd) (o : Ec) | tickarm (h : Hd) (o : Ec) | tickdis (h : Hd) (o : Ec)
  | wclaimOpen (h : Hd) (o : Ec) | wclaim (h : Hd) (o : Ec) | wclaimTick (h : Hd) (o : Ec) | wrel (h : Hd) (o : Ec)
  | wrelClose (h : Hd) (o : Ec) | xcoll (h : Hd) (o : Ec)
  -- class 4, control
  | bra (h : Hd) (o : Li) | brau (h : Hd) (o : Li) | call (h : Hd) (o : Li) | ret (h : Hd) (o : Rrr)
  | ifc (h : Hd) (o : Li) | elsec (h : Hd) (o : Li) | endif (h : Hd) (o : Sys) | loop (h : Hd) (o : Li)
  | brk (h : Hd) (o : Li) | cont (h : Hd) (o : Li) | endl (h : Hd) (o : Li) | exit (h : Hd) (o : Sys)
  | nop (h : Hd) (o : Sys) | yield (h : Hd) (o : Sys) | sleep (h : Hd) (o : Ri) | region (h : Hd) (o : Rrr)
  | setx (h : Hd) (o : Ri) | rgrow (h : Hd) (o : Ri) | rshrink (h : Hd) (o : Ri) | sread (h : Hd) (o : Sys)
  | trap (h : Hd) (o : Sys) | ctxq (h : Hd) (o : Sys) | tnow (h : Hd) (o : Sys)
  -- class 5, sync
  | atom (h : Hd) (o : Atm) | redM (h : Hd) (o : Atm) | waita (h : Hd) (o : Atm) | wake (h : Hd) (o : Atm)
  | binit (h : Hd) (o : Rrr) | breg (h : Hd) (o : Rrr) | barr (h : Hd) (o : Rrr) | barrd (h : Hd) (o : Rrr)
  | bexp (h : Hd) (o : Rrr) | bwait (h : Hd) (o : Rrr) | btest (h : Hd) (o : Rrr) | rsecEnter (h : Hd) (o : Sys)
  | rsecLeave (h : Hd) (o : Sys) | publ (h : Hd) (o : Mem) | retire (h : Hd) (o : Ec) | gpseq (h : Hd) (o : Sys)
  | gpwait (h : Hd) (o : Sys)
  -- events of the pipes and teams: p a pipe (core * 4 + pipe), t a team
  | clauseIssue (p : Nat) | clauseTimeslice (p : Nat) | boost (t : Nat) | longLatencyComplete (t k : Nat)
  | sleepEnd (t : Nat) | waitaTimeout (t : Nat) | waitWake (t : Nat) | gpwaitTimeout (t : Nat)
  | gpwaitMet (t : Nat) | bwaitWake (t : Nat)
  -- events of the matrix units: core c, word-op w
  | wordOpStart (c : Nat) | wordOpComplete (c w : Nat) | operandTimeout (c w : Nat)
  -- events of queues and engines: row r, item x, engine e
  | recordWrite (r : Nat) | rowRetry (r : Nat) | chainEntry (ctx : Nat) (block : Word) | directItem (x : Nat)
  | pieceLand (x : Nat) | engineItemComplete (x : Nat) | engineTimeout (x : Nat) | blockRetry (a : RetryAgent)
  | collectiveFlit (f : Flit) | collectiveComplete (x : Nat) | collectiveTimeout (x : Nat)
  -- events of the scheduler: partition p, launch l, core c, gang g
  | launchAccept (p : Nat) | rowStageClaim (l : Nat) | flushTimerExpiry (l : Nat) | tileStageClaim (l : Nat)
  | gangPlace (l : Nat) | teamEnd (t : Nat) | launchComplete (l : Nat) | handlerEvent (c : Nat)
  | trapRetry (t : Nat) | watchdogExpiry (g : Nat) | preemptStop (g : Nat) | saveComplete (g : Nat)
  | gangRestore (g : Nat) | killComplete (g : Nat) | rgrowGrant (c : Nat) | growthDeadlock (c : Nat)
  | carveCommit (p : Nat) | carveTimeout (p : Nat)
  -- events of the Selvedge detector: domain d, context c and slot i
  | graceCheck (d : Nat) | advanceComplete (d : Nat) | retireAction (c i : Nat) | retireRetry (c i : Nat)
  | graceWarning (d : Nat)
  -- memory, host posted writes, windows, time
  | promoteProbe (cluster : Nat) | postedWriteEffect (f k : Nat) | tokenFrame (x : Frame) | windowFrame (w : Nat)
  | tick (c i : Nat) | holdExpiry (c i : Nat) | ptpSync (ns : Nat) (frac : Nat) | lockLoss
  -- links and pod
  | linkTrainingRequest (l : Nat) | linkTrained (l lanes : Nat) | linkTrainingTimeout (l : Nat)
  | flitCrcFail (l : Nat) | linkFence (l : Nat) | multicastFlit (die : Nat) (k : Nat)
  | podAccessTimeout (t : Nat) | governorEval (watts : Nat)
  -- host accesses: function f, context c
  | doorbell (f c : Nat) (bytes : List Byte) | bar2Write (f c off : Nat) (bytes : List Byte) (relaxed : Bool)
  | bar2Read (f c off n : Nat) | podid (f : Nat) (v : Word) | svcPlimit (f : Nat) (v : Word)
  | registerWrite (f off : Nat) (v : Word) | functionLevelReset (f : Nat) | reset
  -- host commands: function f executes the entry at CMDCONS of its ring (R408)
  | state (f : Nat) | resumet (f : Nat) | resumeg (f : Nat) | kill (f : Nat) | inval (f : Nat)
  | invalComplete (k : Nat) | errstat (f : Nat) | create (f : Nat) | start (f : Nat) | switchout (f : Nat)
  | switchin (f : Nat) | destroy (f : Nat) | preempt (f : Nat) | carve (f : Nat) | hrestart (f : Nat)
  | partition (f : Nat) | keyload (f : Nat) | recal (f : Nat) | recalComplete (island : Nat) | fwload (f : Nat)
  | selftest (f : Nat) | fenceCore (f : Nat) | unfence (f : Nat) | attest (f : Nat) | unassignedCommand (f : Nat)
  | dieFenced | podRequest (q : PodReq)
  deriving DecidableEq, Repr

end Sys2Proof
end

