-- ==== Sys2Proof/WellFormed.lean ====
section
/-! DEFINITION. Which instructions the part decodes (spec/06_kernel_image.md R119 to R131 and the field tables of
R142, R168, R206, R222, R227, R230, R242, R266, R280, R304, R325, R352, R359, R384, R386, R393, R406).
Every instruction has a list of conditions, each with the reason it is rejected under when it fails. -/

namespace Sys2Proof

/-- Why a word of code is not an instruction the part issues; every one of them raises ILLEGAL (R131). -/
inductive Reject where
  /-- Header marker other than 1100b at a clause start. -/
  | marker
  /-- Header class 6 or 7. -/
  | headerClass
  /-- Header flag A or B of 12 to 14. -/
  | headerFlag
  /-- Nonzero header bits [31:0]. -/
  | headerReserved
  /-- The count runs past the end of the code (R105). -/
  | pastCode
  /-- Opcode class differing from the header class. -/
  | classDiffers
  /-- Opcode the map of R130 does not assign. -/
  | unassigned
  /-- Nonzero reserved bit or unused field. -/
  | reserved
  /-- Flag select 1 on an instruction that is not long-latency (R114). -/
  | flagSelect
  /-- Register number outside its file (R119). -/
  | register
  /-- Pair operand named with an odd number (R47). -/
  | oddPair
  /-- Run of registers that passes the end of its file (R131). -/
  | runPast
  /-- Index apply on a field that is no lane register (R121). -/
  | indexApply
  /-- Guard other than p15 with Negate 0 on an instruction that acts on the team. -/
  | guard
  /-- Modifier value the tables mark ILLEGAL. -/
  | modifier
  /-- Terminator that is not the last of its clause (R112). -/
  | terminator
  /-- Branch offset misaligned or outside the code (R127). -/
  | branch
  /-- Event of the part: it has no instruction word. -/
  | event
  deriving DecidableEq, Repr

/-- A condition on an instruction's fields and what its failure is called. -/
abbrev Cond := Bool × Reject

namespace Wf

/-- A reserved field holds zero (R122). -/
def zero {n : Nat} (b : BitVec n) : Cond := (b == 0, .reserved)
/-- Saturate and other single reserved bits. -/
def off (b : Bool) : Cond := (!b, .reserved)
/-- A scalar register field (R119). -/
def s (r : BitVec 8) : Cond := (r.toNat < 64, .register)
/-- The first of n scalar registers of a block that stays within s63. -/
def sRun (r : BitVec 8) (n : Nat) : Cond := (r.toNat + n ≤ 64, .runPast)
/-- A predicate register field. -/
def p (r : BitVec 8) : Cond := (r.toNat < 16, .register)
/-- A mask register field. -/
def k (r : BitVec 8) : Cond := (r.toNat < 8, .register)
/-- An accumulator register field. -/
def c (r : BitVec 8) : Cond := (r.toNat < 16, .register)
/-- A lane pair; the check does not apply to a field under index apply (R121). -/
def pair (ix : Bool) (r : BitVec 8) : Cond := (ix || r.toNat % 2 == 0, .oddPair)
/-- A pair when `w`, else one register. -/
def pairIf (w ix : Bool) (r : BitVec 8) : Cond := (!w || ix || r.toNat % 2 == 0, .oddPair)
/-- A run of n lane registers (R131). -/
def run (ix : Bool) (r : BitVec 8) (n : Nat) : Cond := (ix || r.toNat + n ≤ 256, .runPast)
/-- A modifier within the values its table lists. -/
def mods (b : Bool) : Cond := (b, .modifier)

/-- No index apply. -/
def noIx (h : Hd) : Cond := (!h.ixD && !h.ixA, .indexApply)
/-- Index apply on D alone. -/
def ixDOnly (h : Hd) : Cond := (!h.ixA, .indexApply)
/-- Index apply on A alone. -/
def ixAOnly (h : Hd) : Cond := (!h.ixD, .indexApply)
/-- Not long-latency: the flag select is reserved (R114). -/
def noFlag (h : Hd) : Cond := (!h.fb, .flagSelect)
/-- The guard of an instruction that acts on the team. -/
def teamGuard (h : Hd) : Cond := (h.guard == 15 && !h.neg, .guard)

/-- Type codes of the pairs: I64 and F64. -/
def wide (t : BitVec 4) : Bool := t == 10 || t == 11
/-- A type code of a list. -/
def tyIn (t : BitVec 4) (l : List Nat) : Cond := mods (l.contains t.toNat)

/-- The three modifier fields of RRR that an entry leaves unused. -/
def plain (o : Rrr) : List Cond := [zero o.ty, zero o.rm, off o.sat]

/-- Two-source lane arithmetic (R142 row 1): pairs under a 64-bit type. -/
def arith (h : Hd) (o : Rrr) (tys : List Nat) (sat : Bool) : List Cond :=
  [tyIn o.ty tys, pairIf (wide o.ty) h.ixD o.d, pairIf (wide o.ty) h.ixA o.a, pairIf (wide o.ty) false o.b,
   zero o.c, zero o.rm, (sat || !o.sat, .modifier), zero o.e]

/-- Logic, shift and move forms with `.w64` in [8]; B is a pair only where `wb`. -/
def w64 (h : Hd) (o : Rrr) (wb : Bool) : List Cond :=
  let w := o.e.getLsbD 0
  plain o ++ [pairIf w h.ixD o.d, pairIf w h.ixA o.a, pairIf (w && wb) false o.b, zero (o.e >>> 1), noFlag h]

/-- FADD, FSUB, FMUL, FFMA, FMIN and FMAX. -/
def float (h : Hd) (o : Rrr) (useC rounds : Bool) : List Cond :=
  [tyIn o.ty [3, 11], pairIf (wide o.ty) h.ixD o.d, pairIf (wide o.ty) h.ixA o.a, pairIf (wide o.ty) false o.b,
   (useC || o.c == 0, .reserved), pairIf (useC && wide o.ty) false o.c,
   mods (if rounds then o.rm.toNat < 4 else o.rm == 0), off o.sat, zero o.e, noFlag h]

/-- Packed 16-bit arithmetic (R155) and EDP4. -/
def packed (h : Hd) (o : Rrr) (useC : Bool) : List Cond :=
  [zero o.ty, mods (o.rm.toNat < 4), off o.sat, zero o.e, (useC || o.c == 0, .reserved), noFlag h]

/-- The cases of CVT (R157): destination and source formats. -/
inductive CvtCase where
  | single | join | split | elementwise
  deriving DecidableEq, Repr

/-- The case a destination and a source select; none for the combinations that do not exist. -/
def cvtCase (d src : Nat) : Option CvtCase :=
  let fmts := [1, 2, 3, 10, 11]
  if fmts.contains d && fmts.contains src && d != src then some .single
  else if (d == 4 || d == 5) && src == 3 then some .join
  else if d == 3 && (src == 4 || src == 5) then some .split
  else if (d, src) == (4, 5) || (d, src) == (5, 4) || (d, src) == (6, 7) || (d, src) == (7, 6) then some .elementwise
  else none

/-- CVT's source format, `.nanovf` and `.hi` in [13:8]. -/
def cvt (h : Hd) (o : Rrr) : List Cond :=
  let src := (o.e >>> 2).toNat
  let nanovf := o.e.getLsbD 1
  let hi := o.e.getLsbD 0
  let cs := cvtCase o.ty.toNat src
  [mods cs.isSome,
   pairIf (wide o.ty) h.ixD o.d, pairIf (src == 10 || src == 11) h.ixA o.a,
   (cs == some .join || o.b == 0, .reserved),
   mods (if cs == some .split then o.rm == 0 else o.rm.toNat ≤ 4),
   (o.rm == 4 || o.c == 0, .reserved),
   mods (!hi || cs == some .split), mods (!nanovf || o.ty == 6), mods (!(nanovf && o.sat)), noFlag h]

/-- PACK4 and PACK8 (R159). -/
def pack (h : Hd) (o : Rrr) (ok : Bool) (n : Nat) : List Cond :=
  [mods ok, run h.ixA o.a n, zero o.b, mods (o.rm.toNat ≤ 4), (o.rm == 4 || o.c == 0, .reserved), off o.sat,
   zero (o.e &&& 3), noFlag h]

/-- UNPK4 and UNPK8 (R160). -/
def unpack (h : Hd) (o : Rrr) (ok : Bool) (n : Nat) : List Cond :=
  [mods ok, run h.ixD o.d n, zero o.b, zero o.c, zero o.rm, off o.sat, zero (o.e &&& 3), noFlag h]

/-- Scalar-file instructions (R163): no lane field, so no index apply. -/
def scalar (h : Hd) (o : Rrr) (useB : Bool) (tys : List Nat) : List Cond :=
  [s o.d, s o.a, if useB then s o.b else zero o.b, zero o.c, tyIn o.ty tys, zero o.rm, off o.sat, zero o.e,
   noIx h, noFlag h]

/-- An acquire, release and scope triple of EC: scope 0 when both flags are clear (R325). -/
def flags (o : Ec) (acq rel : Bool) : List Cond :=
  [(acq || !o.acq, .modifier), (rel || !o.rel, .modifier), mods (o.acq || o.rel || o.scope == 0)]

/-- Guard and index apply of the team-acting instructions. -/
def team (h : Hd) : List Cond := [teamGuard h, noIx h]

/-- Structured branch with an encoded offset (R127): its low bits are zero. -/
def br (h : Hd) (o : Li) : List Cond :=
  [(o.imm &&& 7 == 0, .branch), noIx h, noFlag h]

/-- A plain memory operand with an optional lane offset (R124). -/
def mem (o : Mem) : List Cond :=
  [s o.a, (!o.noOff || o.b == 0, .reserved), mods (1 ≤ o.ty.toNat && o.ty.toNat ≤ 14), mods (o.ret.toNat ≤ 4)]

/-- A memory operand of the scalar form: no-offset 1. -/
def memTeam (h : Hd) (o : Mem) : List Cond :=
  mem o ++ team h ++ [mods o.noOff, off o.prom, s o.d]

/-- Four-run description of REGION (R123): starts and lengths of the used runs. -/
def regionRuns (o : Rrr) : List (Nat × Nat) :=
  let n := (o.ty >>> 2).toNat + 1
  let lens : BitVec 12 := (o.ty.truncate 2 ++ o.rm ++ BitVec.ofBool o.sat ++ o.e : BitVec 12)
  let runOf := fun (i : Nat) (st : BitVec 8) => (st.toNat, ((lens >>> (3 * i)).truncate 3 : BitVec 3).toNat + 1)
  [runOf 0 o.d, runOf 1 o.a, runOf 2 o.b, runOf 3 o.c].take n

/-- Every register the runs name, in run order. -/
def regionRegs (o : Rrr) : List Nat :=
  (regionRuns o).flatMap fun r => (List.range r.2).map (r.1 + ·)

/-- The start and length fields of unused runs are reserved. -/
def regionUnused (o : Rrr) : Bool :=
  let n := (o.ty >>> 2).toNat + 1
  let lens : BitVec 12 := (o.ty.truncate 2 ++ o.rm ++ BitVec.ofBool o.sat ++ o.e : BitVec 12)
  (n > 1 || o.a == 0) && (n > 2 || o.b == 0) && (n > 3 || o.c == 0) && lens >>> (3 * n) == 0

/-- A type of the atomic layout and an operation (R222). -/
def atomOp (op : BitVec 4) (ty : BitVec 2) : Bool :=
  op.toNat ≤ 8 && !(ty == 3 && (op == 3 || op == 4 || op == 5 || op == 8))

/-- The data operand of an atomic: its register, its pair, and the one after it for cas and addt. -/
def atomData (h : Hd) (o : Atm) (useD : Bool) : List Cond :=
  let w := o.ty == 2
  let n := (if w then 2 else 1) * (if o.op == 7 || o.op == 8 then 2 else 1)
  [pairIf w false o.c, run false o.c n, if useD then pairIf w h.ixD o.d else zero o.d]

end Wf

open Wf in
/-- The conditions of one instruction, in the order of its fields. Events have no instruction word. -/
def Instr.conds : Instr → List Cond
  | .iadd h o | .isub h o | .imul h o => arith h o [1, 2, 10] true ++ [noFlag h]
  | .imulh h o => arith h o [1, 2] false ++ [noFlag h]
  | .imad h o => [tyIn o.ty [1, 2], zero o.rm, zero o.e, noFlag h]
  | .imadw h o => [tyIn o.ty [1, 2], pair h.ixD o.d, pair false o.c, zero o.rm, zero o.e, noFlag h]
  | .idiv h o => arith h o [1, 2] true
  | .irem h o => arith h o [1, 2] false
  | .imin h o | .imax h o => arith h o [1, 2, 9, 10] false ++ [noFlag h]
  | .iabs h o => arith h o [1, 10] true ++ [zero o.b, noFlag h]
  | .isat h o => [tyIn o.ty [1, 2], zero o.rm, off o.sat, zero o.e, noFlag h]
  | .andl h o | .orl h o | .xorl h o | .andn h o => w64 h o true ++ [zero o.c]
  | .shl h o | .shr h o | .sar h o | .rot h o => w64 h o false ++ [zero o.c]
  | .bfx h o => [tyIn o.ty [1, 2], zero o.c, zero o.rm, off o.sat, zero o.e, noFlag h]
  | .bfi h o => plain o ++ [zero o.e, noFlag h]
  | .popc h o | .clz h o | .brev h o => plain o ++ [zero o.b, zero o.c, zero o.e, noFlag h]
  | .lea h o => [pair h.ixD o.d, s o.a, ixDOnly h, noFlag h]
  | .mov h o =>
      let w := o.e.getLsbD 0
      plain o ++ [pairIf w h.ixD o.d, pairIf w h.ixA o.a, zero o.b, zero o.c, zero (o.e >>> 2), noFlag h]
  | .movi h o =>
      let t := (o.e >>> 2).toNat
      [mods ((1 ≤ t && t ≤ 9) || t == 12), zero (o.e &&& 3), ixDOnly h, noFlag h]
  | .movs h o =>
      plain o ++ [pairIf (o.e.getLsbD 0) h.ixD o.d, s o.a, zero o.b, zero o.c, zero (o.e >>> 1), ixDOnly h, noFlag h]
  | .sel h o => w64 h o true ++ [p o.c]
  | .icmp h o =>
      [p o.d, tyIn o.ty [1, 2, 9, 10], pairIf (wide o.ty) h.ixA o.a, pairIf (wide o.ty) false o.b, zero o.c, zero o.rm,
       off o.sat, mods ((o.e >>> 2).toNat ≤ 5), zero (o.e &&& 3), ixAOnly h, noFlag h]
  | .fcmp h o =>
      [p o.d, tyIn o.ty [3, 11], pairIf (wide o.ty) h.ixA o.a, pairIf (wide o.ty) false o.b, zero o.c, zero o.rm,
       off o.sat, mods ((o.e >>> 2).toNat ≤ 7), zero (o.e &&& 3), ixAOnly h, noFlag h]
  | .pand h o | .por h o | .pxor h o => plain o ++ [p o.d, p o.a, p o.b, zero o.c, zero o.e, noIx h, noFlag h]
  | .pnot h o => plain o ++ [p o.d, p o.a, zero o.b, zero o.c, zero o.e, noIx h, noFlag h]
  | .kmov h o =>
      let dir := o.e.toNat
      plain o ++ [mods (dir ≤ 2), if dir == 2 then mods true else k o.d, if dir == 1 then mods true else k o.a,
        (dir == 2 || !h.ixD, .indexApply), (dir == 1 || !h.ixA, .indexApply), zero o.b, zero o.c, noFlag h]
  | .kand h o | .kor h o => plain o ++ [k o.d, k o.a, k o.b, zero o.c, zero o.e, noIx h, noFlag h]
  | .kbit h o => plain o ++ [p o.d, k o.a, zero o.c, zero o.e, noIx h, noFlag h]
  | .kset h o => plain o ++ [k o.d, k o.a, zero o.c, zero (o.e >>> 1), noIx h, noFlag h]
  | .fadd h o | .fsub h o | .fmul h o => float h o false true
  | .ffma h o => float h o true true
  | .fmin h o | .fmax h o => float h o false false
  | .fsfu _ o =>
      [tyIn o.ty [3], zero o.b, zero o.c, mods (o.rm.toNat < 4), off o.sat, mods ((o.e >>> 2).toNat ≤ 8), zero (o.e &&& 3)]
  | .hadd2 h o | .hmul2 h o | .badd2 h o | .bmul2 h o => packed h o false
  | .hfma2 h o | .bfma2 h o => packed h o true
  | .frot h o => [pair h.ixD o.d, pair h.ixA o.a, zero o.ty, mods (o.rm.toNat < 4), off o.sat, zero o.e, noFlag h]
  | .cvt h o => Wf.cvt h o
  | .reint h o =>
      [mods (1 ≤ o.ty.toNat && o.ty.toNat ≤ 12), pairIf (wide o.ty) h.ixD o.d, pairIf (wide o.ty) h.ixA o.a, zero o.b,
       zero o.c, zero o.rm, off o.sat, zero o.e, noFlag h]
  | .pack4 h o => Wf.pack h o ([(6, 3), (7, 3), (7, 1)].contains (o.ty.toNat, (o.e >>> 2).toNat)) 4
  | .unpk4 h o => Wf.unpack h o ([(3, 6), (1, 7), (3, 7)].contains (o.ty.toNat, (o.e >>> 2).toNat)) 4
  | .pack8 h o => Wf.pack h o ([(8, 3), (8, 1)].contains (o.ty.toNat, (o.e >>> 2).toNat)) 8
  | .unpk8 h o => Wf.unpack h o ([(1, 8), (3, 8)].contains (o.ty.toNat, (o.e >>> 2).toNat)) 8
  | .idp4 h o => [zero o.ty, zero o.rm, zero o.e, noFlag h]
  | .edp4 h o => packed h o true
  | .rng h o => plain o ++ [run h.ixD o.d 4, s o.a, run false o.b 4, zero o.c, zero o.e, ixDOnly h]
  | .sadd h o | .smul h o => scalar h o true [1, 2, 10]
  | .sand h o | .sor h o | .sshl h o => scalar h o true [0]
  | .scmp h o =>
      [p o.d, s o.a, s o.b, zero o.c, tyIn o.ty [1, 2, 10], zero o.rm, off o.sat, mods ((o.e >>> 2).toNat ≤ 5),
       zero (o.e &&& 3), noIx h, noFlag h]
  | .smov h o => scalar h o false [0]
  | .smovi h o =>
      let hi := o.e.getLsbD 1
      [s o.d, if hi then zero (o.e >>> 2) else mods ([1, 2, 3, 10, 12].contains (o.e >>> 2).toNat), off (o.e.getLsbD 0),
       noIx h, noFlag h]
  | .red h o =>
      let op := (o.e &&& 3).toNat
      [s o.d, tyIn o.ty [1, 2, 3, 9, 10, 11], mods (op != 3 && !(op == 0 && o.ty == 9)),
       pairIf (wide o.ty) h.ixA o.a, zero o.b, zero o.c, zero o.rm, zero (o.e >>> 2), ixAOnly h]
  | .scan h o =>
      let op := (o.e &&& 3).toNat
      [tyIn o.ty [1, 2, 3, 9, 10, 11], mods (op != 3 && !(op == 0 && o.ty == 9)), pairIf (wide o.ty) h.ixD o.d,
       pairIf (wide o.ty) h.ixA o.a, zero o.b, zero o.c, zero o.rm, zero (o.e >>> 3)]
  | .vcnt h o => plain o ++ [p o.a, zero o.b, zero o.c, zero (o.e >>> 2), ixDOnly h, noFlag h]
  | .fkey h o => plain o ++ [zero o.b, zero o.c, zero (o.e >>> 1), noFlag h]
  | .shfl h o =>
      let w := o.e.getLsbD 0
      plain o ++ [pairIf w h.ixD o.d, pairIf w h.ixA o.a, zero o.c, zero (o.e >>> 4), noFlag h]
  | .xcl h o =>
      let n := (o.e &&& 15).toNat + 1
      plain o ++ [run h.ixD o.d n, run h.ixA o.a n, s o.b, s o.c, zero (o.e >>> 4)]
  | .ld h o =>
      mem o ++ [pairIf (wide o.ty) h.ixD o.d, mods (o.ord.toNat ≤ 1), mods (o.ord == 1 || o.scope == 0),
        mods (!o.prom || (o.ord == 1 && 4 ≤ o.scope.toNat)), ixDOnly h]
  | .st h o =>
      mem o ++ [pairIf (wide o.ty) h.ixD o.d, mods (o.ord == 0 || o.ord == 2), mods (o.ord == 2 || o.scope == 0),
        off o.prom, ixDOnly h]
  | .lds h o | .sts h o => memTeam h o ++ [zero o.ord, zero o.scope]
  | .ldc h o => mem o ++ [pairIf (wide o.ty) h.ixD o.d, zero o.ord, off o.prom, ixDOnly h]
  | .fence h o =>
      [zero o.d, zero o.a, zero o.b, zero o.imm, off o.prom, mods o.noOff, zero o.ty,
       mods (1 ≤ o.ord.toNat && o.ord.toNat ≤ 4), zero o.ret, off o.nol1] ++ team h
  | .pref h o => mem o ++ [zero o.d, off o.prom, zero o.ord, zero o.scope, noIx h]
  | .cflush h o => mem o ++ [zero o.d, off o.prom, zero o.ord, zero o.ret, off o.nol1, noIx h]
  | .probe h o => memTeam h o ++ [zero o.ord, zero o.scope, zero o.ret, off o.nol1]
  | .mma h o =>
      let pricked := o.m.getLsbD 9
      let skip := o.m.getLsbD 8
      [c o.d, s o.a, sRun o.a 3, s o.b, sRun o.b 2, s o.c, (!pricked || o.c.toNat ≤ 62, .runPast),
       (!skip || o.c.toNat ≤ 60, .runPast), mods ((o.m >>> 11).toNat ≤ 4), mods (!skip || o.m.getLsbD 10),
       zero (o.m &&& 63), noIx h]
  | .czero h o => [c o.d, zero o.a, zero o.b, zero o.c, zero o.m, noIx h]
  | .crd h o | .cwr h o => [c o.d, s o.a, zero o.b, zero o.c, zero (o.m &&& 63), noIx h]
  | .cmov h o => [c o.d, zero o.a, zero o.b, zero o.c, zero (o.m &&& 63), zero (o.m >>> 10), noIx h]
  | .mmask h o => [zero o.d, s o.a, s o.b, zero o.c, zero (o.m &&& 63), zero (o.m >>> 9), noIx h]
  | .mbud h o => [zero o.d, s o.a, zero o.b, zero o.c, zero o.m] ++ team h
  | .crank h o => [c o.d, zero o.a, zero o.b, zero o.c, zero (o.m &&& 63), zero (o.m >>> 11), noIx h]
  | .rkins h o =>
      [c o.d, zero o.a, zero o.b, zero o.c, zero (o.m &&& 63), ((o.m >>> 6).toNat < 255, .runPast), noIx h]
  | .rkfold h o =>
      [c o.d, s o.a, zero o.b, zero o.c, zero (o.m &&& 63), zero (o.m >>> 10), mods (o.d.toNat != (o.m >>> 6).toNat), noIx h]
  | .rkmerge h o | .rkout h o => [c o.d, s o.a, sRun o.a 2, zero o.b, zero o.c, zero o.m, noIx h]
  | .rkfloor h o => [c o.d, zero o.a, zero o.b, zero o.c, zero (o.m &&& 63), noIx h]
  | .qapp h o | .xchain h o | .launch h o =>
      [s o.d, s o.a, s o.b, s o.c, zero o.e] ++ flags o true true ++ team h
  | .qclaim h o => [s o.d, sRun o.d 2, s o.a, s o.b, zero o.c, zero o.e] ++ flags o true false ++ team h
  | .qdone h o => [s o.d, s o.a, s o.b, s o.c, zero o.e] ++ flags o false true ++ team h
  | .qflush h o | .qstat h o => [s o.d, s o.a, zero o.b, zero o.c, zero o.e] ++ flags o false false ++ team h
  | .xcopy h o | .xgather h o | .xmcast h o =>
      [s o.d, s o.a, s o.b, s o.c, sRun o.c 5, zero o.e] ++ flags o true true ++ team h
  | .tickarm h o =>
      [s o.d, s o.a, s o.b, sRun o.b 4, s o.c, mods ((o.e &&& 3).toNat ≤ 2), zero (o.e >>> 2)] ++ flags o false false ++ team h
  | .tickdis h o => [s o.d, s o.a, zero o.b, zero o.c, zero o.e] ++ flags o false false ++ team h
  | .wclaim h o =>
      [s o.d, s o.a, s o.b, zero o.c, mods ((o.e &&& 3) == 0), zero (o.e >>> 2)] ++ flags o true false ++ team h
  | .wclaimTick h o =>
      [s o.d, s o.a, zero o.b, zero o.c, mods ((o.e &&& 3) == 1), zero (o.e >>> 2)] ++ flags o true false ++ team h
  | .wclaimOpen h o =>
      [s o.d, s o.a, zero o.b, zero o.c, mods ((o.e &&& 3) == 2), zero (o.e >>> 2)] ++ flags o true false ++ team h
  | .wrel h o =>
      [s o.d, s o.a, s o.b, zero o.c, mods ((o.e &&& 3) == 0), zero (o.e >>> 2)] ++ flags o false true ++ team h
  | .wrelClose h o =>
      [s o.d, s o.a, zero o.b, zero o.c, mods ((o.e &&& 3) == 1), zero (o.e >>> 2)] ++ flags o false true ++ team h
  | .xcoll h o =>
      [s o.d, s o.a, s o.b, s o.c, sRun o.c 5, mods ((o.e &&& 7).toNat ≤ 4), mods (((o.e >>> 3) &&& 7).toNat ≤ 4),
       mods (((o.e >>> 6) &&& 3).toNat ≤ 2), zero (o.e >>> 8)] ++ flags o true true ++ team h
  | .bra h o | .call h o => [zero o.d, zero o.e, teamGuard h] ++ br h o
  | .brau h o => [p o.d, zero (o.e >>> 2), teamGuard h] ++ br h o
  | .ret h o => plain o ++ [zero o.d, zero o.a, zero o.b, zero o.c, zero o.e, noFlag h] ++ team h
  | .ifc h o | .brk h o | .cont h o => [zero o.d, zero o.e] ++ br h o
  | .elsec h o | .endl h o => [zero o.d, zero o.e, teamGuard h] ++ br h o
  | .loop h o => [zero o.d, zero o.e, zero o.imm, teamGuard h] ++ br h o
  | .endif h o | .nop h o | .yield h o => [zero o.d, zero o.a, zero o.imm, zero o.e, noFlag h] ++ team h
  | .exit h o => [zero o.d, zero o.a, zero o.imm, zero o.e, noIx h, noFlag h]
  | .sleep h o =>
      [zero o.d, s o.a, (o.e.getLsbD 0 || o.a == 0, .reserved), zero (o.e >>> 1), noFlag h] ++ team h
  | .region h o =>
      let rs := regionRegs o
      [(regionUnused o, .reserved), ((regionRuns o).all (fun r => r.1 + r.2 ≤ 256), .runPast),
       mods (rs.length ≤ 16 && rs.eraseDups.length == rs.length), noFlag h] ++ team h
  | .setx h o =>
      [zero o.d, s o.a, (o.e.getLsbD 0 || o.a == 0, .reserved), zero (o.e >>> 2), noFlag h] ++ team h
  | .rgrow h o | .rshrink h o =>
      [zero o.d, zero o.a, zero o.e, mods (1 ≤ o.imm.toInt && o.imm.toInt ≤ 32), noFlag h] ++ team h
  | .sread h o =>
      [s o.d, zero o.a, mods (o.imm.toNat ≤ 16), zero (o.e >>> 1), mods (!o.e.getLsbD 0 || o.imm == 10), noFlag h] ++ team h
  | .trap h o =>
      let n := (o.e &&& 7).toNat
      [s o.d, s o.a, zero (o.e >>> 3), mods (n ≤ 4), (n != 0 || o.a == 0, .reserved), sRun o.a n, noFlag h] ++ team h
  | .ctxq h o =>
      let n := ([0, 3, 2, 1, 2, 0][o.imm.toNat]?).getD 0
      [s o.d, s o.a, mods (o.imm.toNat ≤ 5), (n != 0 || o.a == 0, .reserved), sRun o.a n, zero o.e] ++ team h
  | .tnow h o => [s o.d, zero o.a, zero o.imm, zero (o.e >>> 1), noFlag h] ++ team h
  | .atom h o =>
      atomData h o true ++ [s o.a, (!o.noOff || o.b == 0, .reserved), mods (atomOp o.op o.ty), mods (o.ord.toNat ≤ 4),
        mods (!o.prom || ((o.ord == 1 || o.ord == 3) && 4 ≤ o.scope.toNat)), ixDOnly h]
  | .redM h o =>
      atomData h o false ++ [s o.a, (!o.noOff || o.b == 0, .reserved), mods (atomOp o.op o.ty && o.op != 7),
        mods (o.ord == 0 || o.ord == 2), off o.prom, noIx h]
  | .waita h o =>
      [s o.d, s o.a, zero o.b, s o.c, sRun o.c 2, mods (o.op.toNat ≤ 1), mods (o.ord.toNat ≤ 1),
       mods (if o.ord == 0 then o.scope == 0 else 4 ≤ o.scope.toNat), off o.prom, mods o.noOff] ++ team h
  | .wake h o =>
      [s o.d, s o.a, zero o.b, s o.c, zero o.op, zero o.ty, mods (o.ord == 0 || o.ord == 2),
       mods (o.ord == 2 || o.scope == 0), off o.prom, mods o.noOff] ++ team h
  | .binit h o | .bexp h o => plain o ++ [zero o.d, s o.a, s o.b, zero o.c, zero o.e] ++ team h
  | .breg h o =>
      let role := (o.e &&& 3).toNat
      let ini := o.e.getLsbD 2
      plain o ++ [zero o.d, s o.a, zero o.b, zero o.c, zero (o.e >>> 3), mods (!ini || role == 1 || role == 3)] ++ team h
  | .barr h o | .barrd h o => plain o ++ [s o.d, s o.a, zero o.b, zero o.c, zero o.e] ++ team h
  | .bwait h o | .btest h o => plain o ++ [s o.d, s o.a, s o.b, zero o.c, zero o.e] ++ team h
  | .rsecEnter h o | .rsecLeave h o => [zero o.d, zero o.a, mods (o.imm.toNat ≤ 3), zero o.e] ++ team h
  | .publ h o => memTeam h o ++ [tyIn o.ty [1, 2, 10, 12], mods (o.ord == 2)]
  | .retire h o =>
      [s o.d, s o.a, sRun o.a 2, s o.b, s o.c, mods (!o.acq && o.rel && o.scope == 5), zero (o.e >>> 4),
       mods (((o.e >>> 2) &&& 3).toNat ≤ 2)] ++ team h
  | .gpseq h o => [s o.d, zero o.a, mods (o.imm.toNat ≤ 3), zero o.e] ++ team h
  | .gpwait h o => [s o.d, s o.a, sRun o.a 2, mods (o.imm.toNat ≤ 3), zero (o.e >>> 1)] ++ team h
  | .clauseIssue .. | .clauseTimeslice .. | .boost .. | .longLatencyComplete .. | .sleepEnd .. | .waitaTimeout ..
  | .waitWake .. | .gpwaitTimeout .. | .gpwaitMet .. | .bwaitWake .. | .wordOpStart .. | .wordOpComplete ..
  | .operandTimeout .. | .recordWrite .. | .rowRetry .. | .chainEntry .. | .directItem .. | .pieceLand ..
  | .engineItemComplete .. | .engineTimeout .. | .blockRetry .. | .collectiveFlit .. | .collectiveComplete ..
  | .collectiveTimeout .. | .launchAccept .. | .rowStageClaim .. | .flushTimerExpiry .. | .tileStageClaim ..
  | .gangPlace .. | .teamEnd .. | .launchComplete .. | .handlerEvent .. | .trapRetry .. | .watchdogExpiry ..
  | .preemptStop .. | .saveComplete .. | .gangRestore .. | .killComplete .. | .rgrowGrant .. | .growthDeadlock ..
  | .carveCommit .. | .carveTimeout .. | .graceCheck .. | .advanceComplete .. | .retireAction .. | .retireRetry ..
  | .graceWarning .. | .promoteProbe .. | .postedWriteEffect .. | .tokenFrame .. | .windowFrame .. | .tick ..
  | .holdExpiry .. | .ptpSync .. | .lockLoss | .linkTrainingRequest .. | .linkTrained .. | .linkTrainingTimeout ..
  | .flitCrcFail .. | .linkFence .. | .multicastFlit .. | .podAccessTimeout .. | .governorEval .. | .doorbell ..
  | .bar2Write .. | .bar2Read .. | .podid .. | .svcPlimit .. | .registerWrite .. | .functionLevelReset .. | .reset
  | .state .. | .resumet .. | .resumeg .. | .kill .. | .inval .. | .invalComplete .. | .errstat .. | .create ..
  | .start .. | .switchout .. | .switchin .. | .destroy .. | .preempt .. | .carve .. | .hrestart .. | .partition ..
  | .keyload .. | .recal .. | .recalComplete .. | .fwload .. | .selftest .. | .fenceCore .. | .unfence ..
  | .attest .. | .unassignedCommand .. | .dieFenced | .podRequest .. => [(false, .event)]

/-- The first condition that fails, by name. -/
def Instr.reject (i : Instr) : Option Reject := (i.conds.find? (fun x => !x.1)).map (·.2)

/-- The part decodes this instruction: every condition of its fields holds. -/
def Instr.wf (i : Instr) : Bool := i.conds.all (·.1)

end Sys2Proof
end

