-- ==== Sys2Proof/Decode.lean ====
section
/-! DEFINITION. The decoder (spec/06_kernel_image.md R109 to R131) and, after it, the encoder. -/

namespace Sys2Proof

/-! ## Formats (R122): the 46 bits [53:8] of a word -/

/-- RRR: D, A, B, C, type, rounding mode, saturate, entry bits (R123). -/
def Rrr.ofBits (b : BitVec 46) : Rrr where
  d := b.extractLsb' 38 8
  a := b.extractLsb' 30 8
  b := b.extractLsb' 22 8
  c := b.extractLsb' 14 8
  ty := b.extractLsb' 10 4
  rm := b.extractLsb' 7 3
  sat := b.getLsbD 6
  e := b.extractLsb' 0 6

/-- RI: D, A, imm22, entry bits. -/
def Ri.ofBits (b : BitVec 46) : Ri where
  d := b.extractLsb' 38 8
  a := b.extractLsb' 30 8
  imm := b.extractLsb' 8 22
  e := b.extractLsb' 0 8

/-- LI and BR: D, 32-bit immediate or offset, entry bits. -/
def Li.ofBits (b : BitVec 46) : Li where
  d := b.extractLsb' 38 8
  imm := b.extractLsb' 6 32
  e := b.extractLsb' 0 6

/-- MEM, plain layout (R124). -/
def Mem.ofBits (b : BitVec 46) : Mem where
  d := b.extractLsb' 38 8
  a := b.extractLsb' 30 8
  b := b.extractLsb' 22 8
  imm := b.extractLsb' 16 6
  prom := b.getLsbD 15
  noOff := b.getLsbD 14
  ty := b.extractLsb' 10 4
  ord := b.extractLsb' 7 3
  scope := b.extractLsb' 4 3
  ret := b.extractLsb' 1 3
  nol1 := b.getLsbD 0

/-- MEM, atomic layout (R126). -/
def Atm.ofBits (b : BitVec 46) : Atm where
  d := b.extractLsb' 38 8
  a := b.extractLsb' 30 8
  b := b.extractLsb' 22 8
  c := b.extractLsb' 14 8
  ty := b.extractLsb' 12 2
  ord := b.extractLsb' 9 3
  scope := b.extractLsb' 6 3
  op := b.extractLsb' 2 4
  prom := b.getLsbD 1
  noOff := b.getLsbD 0

/-- MX: four fields and [21:8] (R128). -/
def Mx.ofBits (b : BitVec 46) : Mx where
  d := b.extractLsb' 38 8
  a := b.extractLsb' 30 8
  b := b.extractLsb' 22 8
  c := b.extractLsb' 14 8
  m := b.extractLsb' 0 14

/-- EC: four fields, acquire, release, scope, entry bits (R129). -/
def Ec.ofBits (b : BitVec 46) : Ec where
  d := b.extractLsb' 38 8
  a := b.extractLsb' 30 8
  b := b.extractLsb' 22 8
  c := b.extractLsb' 14 8
  acq := b.getLsbD 13
  rel := b.getLsbD 12
  scope := b.extractLsb' 9 3
  e := b.extractLsb' 0 9

/-- SYS: D, A, imm16, entry bits. -/
def Sys.ofBits (b : BitVec 46) : Sys where
  d := b.extractLsb' 38 8
  a := b.extractLsb' 30 8
  imm := b.extractLsb' 14 16
  e := b.extractLsb' 0 14

/-- The fields every word has (R118): guard [7:4], negate [3], index apply [2:1] (01 D, 10 A), flag select [0]. -/
def Hd.ofWord (w : Word) : Hd where
  guard := w.extractLsb' 4 4
  neg := w.getLsbD 3
  ixD := w.getLsbD 1
  ixA := w.getLsbD 2
  fb := w.getLsbD 0

/-! ## The opcode map (R130): one function for each class, by the low seven bits -/

/-- Class 0: the instruction of a low value. -/
def ofLane (low : Nat) (h : Hd) (b : BitVec 46) : Option Instr :=
  match low with
  | 0 => some (.iadd h (.ofBits b))
  | 1 => some (.isub h (.ofBits b))
  | 2 => some (.imul h (.ofBits b))
  | 3 => some (.imulh h (.ofBits b))
  | 4 => some (.imad h (.ofBits b))
  | 5 => some (.imadw h (.ofBits b))
  | 6 => some (.idiv h (.ofBits b))
  | 7 => some (.irem h (.ofBits b))
  | 8 => some (.imin h (.ofBits b))
  | 9 => some (.imax h (.ofBits b))
  | 10 => some (.iabs h (.ofBits b))
  | 11 => some (.isat h (.ofBits b))
  | 12 => some (.andl h (.ofBits b))
  | 13 => some (.orl h (.ofBits b))
  | 14 => some (.xorl h (.ofBits b))
  | 15 => some (.andn h (.ofBits b))
  | 16 => some (.shl h (.ofBits b))
  | 17 => some (.shr h (.ofBits b))
  | 18 => some (.sar h (.ofBits b))
  | 19 => some (.rot h (.ofBits b))
  | 20 => some (.bfx h (.ofBits b))
  | 21 => some (.bfi h (.ofBits b))
  | 22 => some (.popc h (.ofBits b))
  | 23 => some (.clz h (.ofBits b))
  | 24 => some (.brev h (.ofBits b))
  | 25 => some (.lea h (.ofBits b))
  | 26 => some (.mov h (.ofBits b))
  | 27 => some (.movi h (.ofBits b))
  | 28 => some (.movs h (.ofBits b))
  | 29 => some (.sel h (.ofBits b))
  | 30 => some (.icmp h (.ofBits b))
  | 31 => some (.fcmp h (.ofBits b))
  | 32 => some (.pand h (.ofBits b))
  | 33 => some (.por h (.ofBits b))
  | 34 => some (.pxor h (.ofBits b))
  | 35 => some (.pnot h (.ofBits b))
  | 36 => some (.kmov h (.ofBits b))
  | 37 => some (.kand h (.ofBits b))
  | 38 => some (.kor h (.ofBits b))
  | 39 => some (.kbit h (.ofBits b))
  | 40 => some (.kset h (.ofBits b))
  | 41 => some (.fadd h (.ofBits b))
  | 42 => some (.fsub h (.ofBits b))
  | 43 => some (.fmul h (.ofBits b))
  | 44 => some (.ffma h (.ofBits b))
  | 45 => some (.fmin h (.ofBits b))
  | 46 => some (.fmax h (.ofBits b))
  | 47 => some (.fsfu h (.ofBits b))
  | 48 => some (.hadd2 h (.ofBits b))
  | 49 => some (.hmul2 h (.ofBits b))
  | 50 => some (.hfma2 h (.ofBits b))
  | 51 => some (.badd2 h (.ofBits b))
  | 52 => some (.bmul2 h (.ofBits b))
  | 53 => some (.bfma2 h (.ofBits b))
  | 54 => some (.frot h (.ofBits b))
  | 55 => some (.cvt h (.ofBits b))
  | 56 => some (.reint h (.ofBits b))
  | 57 => some (.pack4 h (.ofBits b))
  | 58 => some (.unpk4 h (.ofBits b))
  | 59 => some (.pack8 h (.ofBits b))
  | 60 => some (.unpk8 h (.ofBits b))
  | 61 => some (.idp4 h (.ofBits b))
  | 62 => some (.edp4 h (.ofBits b))
  | 63 => some (.rng h (.ofBits b))
  | 64 => some (.sadd h (.ofBits b))
  | 65 => some (.smul h (.ofBits b))
  | 66 => some (.sand h (.ofBits b))
  | 67 => some (.sor h (.ofBits b))
  | 68 => some (.sshl h (.ofBits b))
  | 69 => some (.scmp h (.ofBits b))
  | 70 => some (.smov h (.ofBits b))
  | 71 => some (.smovi h (.ofBits b))
  | 72 => some (.red h (.ofBits b))
  | 73 => some (.scan h (.ofBits b))
  | 74 => some (.vcnt h (.ofBits b))
  | 75 => some (.fkey h (.ofBits b))
  | 76 => some (.shfl h (.ofBits b))
  | _ => none

/-- Class 1: the instruction of a low value. -/
def ofMemory (low : Nat) (h : Hd) (b : BitVec 46) : Option Instr :=
  match low with
  | 0 => some (.ld h (.ofBits b))
  | 1 => some (.st h (.ofBits b))
  | 2 => some (.lds h (.ofBits b))
  | 3 => some (.sts h (.ofBits b))
  | 4 => some (.ldc h (.ofBits b))
  | 5 => some (.fence h (.ofBits b))
  | 6 => some (.pref h (.ofBits b))
  | 7 => some (.cflush h (.ofBits b))
  | 8 => some (.probe h (.ofBits b))
  | 9 => some (.xcl h (.ofBits b))
  | _ => none

/-- Class 2: the instruction of a low value. -/
def ofMatrix (low : Nat) (h : Hd) (b : BitVec 46) : Option Instr :=
  match low with
  | 0 => some (.mma h (.ofBits b))
  | 1 => some (.czero h (.ofBits b))
  | 2 => some (.crd h (.ofBits b))
  | 3 => some (.cwr h (.ofBits b))
  | 4 => some (.cmov h (.ofBits b))
  | 5 => some (.mmask h (.ofBits b))
  | 6 => some (.mbud h (.ofBits b))
  | 7 => some (.crank h (.ofBits b))
  | 8 => some (.rkins h (.ofBits b))
  | 9 => some (.rkfold h (.ofBits b))
  | 10 => some (.rkmerge h (.ofBits b))
  | 11 => some (.rkout h (.ofBits b))
  | 12 => some (.rkfloor h (.ofBits b))
  | _ => none

/-- Class 3: the instruction of a low value. -/
def ofEngine (low : Nat) (h : Hd) (b : BitVec 46) : Option Instr :=
  match low with
  | 0 => some (.qapp h (.ofBits b))
  | 1 => some (.qclaim h (.ofBits b))
  | 2 => some (.qdone h (.ofBits b))
  | 3 => some (.qflush h (.ofBits b))
  | 4 => some (.qstat h (.ofBits b))
  | 5 => some (.xcopy h (.ofBits b))
  | 6 => some (.xgather h (.ofBits b))
  | 7 => some (.xmcast h (.ofBits b))
  | 8 => some (.xchain h (.ofBits b))
  | 9 => some (.launch h (.ofBits b))
  | 10 => some (.tickarm h (.ofBits b))
  | 11 => some (.tickdis h (.ofBits b))
  | 12 =>
    let o := Ec.ofBits b
    some (if o.e &&& 3 = 1 then .wclaimTick h o else if o.e &&& 3 = 2 then .wclaimOpen h o else .wclaim h o)
  | 13 =>
    let o := Ec.ofBits b
    some (if o.e &&& 3 = 1 then .wrelClose h o else .wrel h o)
  | 14 => some (.xcoll h (.ofBits b))
  | _ => none

/-- Class 4: the instruction of a low value. -/
def ofControl (low : Nat) (h : Hd) (b : BitVec 46) : Option Instr :=
  match low with
  | 0 => some (.bra h (.ofBits b))
  | 1 => some (.brau h (.ofBits b))
  | 2 => some (.call h (.ofBits b))
  | 3 => some (.ret h (.ofBits b))
  | 4 => some (.ifc h (.ofBits b))
  | 5 => some (.elsec h (.ofBits b))
  | 6 => some (.endif h (.ofBits b))
  | 7 => some (.loop h (.ofBits b))
  | 8 => some (.brk h (.ofBits b))
  | 9 => some (.cont h (.ofBits b))
  | 10 => some (.endl h (.ofBits b))
  | 11 => some (.exit h (.ofBits b))
  | 12 => some (.nop h (.ofBits b))
  | 13 => some (.yield h (.ofBits b))
  | 14 => some (.sleep h (.ofBits b))
  | 15 => some (.region h (.ofBits b))
  | 16 => some (.setx h (.ofBits b))
  | 17 => some (.rgrow h (.ofBits b))
  | 18 => some (.rshrink h (.ofBits b))
  | 19 => some (.sread h (.ofBits b))
  | 20 => some (.trap h (.ofBits b))
  | 21 => some (.ctxq h (.ofBits b))
  | 22 => some (.tnow h (.ofBits b))
  | _ => none

/-- Class 5: the instruction of a low value. -/
def ofSync (low : Nat) (h : Hd) (b : BitVec 46) : Option Instr :=
  match low with
  | 0 => some (.atom h (.ofBits b))
  | 1 => some (.redM h (.ofBits b))
  | 2 => some (.waita h (.ofBits b))
  | 3 => some (.wake h (.ofBits b))
  | 4 => some (.binit h (.ofBits b))
  | 5 => some (.breg h (.ofBits b))
  | 6 => some (.barr h (.ofBits b))
  | 7 => some (.barrd h (.ofBits b))
  | 8 => some (.bexp h (.ofBits b))
  | 9 => some (.bwait h (.ofBits b))
  | 10 => some (.btest h (.ofBits b))
  | 11 => some (.rsecEnter h (.ofBits b))
  | 12 => some (.rsecLeave h (.ofBits b))
  | 13 => some (.publ h (.ofBits b))
  | 14 => some (.retire h (.ofBits b))
  | 15 => some (.gpseq h (.ofBits b))
  | 16 => some (.gpwait h (.ofBits b))
  | _ => none

/-- The instruction the opcode map assigns to a 10-bit opcode (R130); none for every other value. -/
def ofOpcode (op : Nat) (h : Hd) (b : BitVec 46) : Option Instr :=
  match op / 128 with
  | 0 => ofLane (op % 128) h b
  | 1 => ofMemory (op % 128) h b
  | 2 => ofMatrix (op % 128) h b
  | 3 => ofEngine (op % 128) h b
  | 4 => ofControl (op % 128) h b
  | 5 => ofSync (op % 128) h b
  | _ => none

/-- The opcode of a word, bits [63:54]. -/
def opcodeOf (w : Word) : Nat := (w.extractLsb' 54 10).toNat

/-- One instruction word (R118, R131): the instruction, or the reason it raises ILLEGAL. -/
def decodeWord (w : Word) : Except Reject Instr :=
  match ofOpcode (opcodeOf w) (Hd.ofWord w) (w.extractLsb' 8 46) with
  | none => .error .unassigned
  | some i =>
    match i.reject with
    | none => .ok i
    | some r => .error r

/-! ## Clauses -/

/-- A clause header (R110). -/
structure Header where
  cls   : BitVec 3
  count : BitVec 4
  wait  : BitVec 12
  flagA : BitVec 4
  flagB : BitVec 4
  yield : Bool
  deriving DecidableEq, Repr

/-- Bits [63:60] are 1100b exactly in a header (R109). -/
def isHeader (w : Word) : Bool := w.extractLsb' 60 4 == 12

/-- A flag field of a header: 12 to 14 are ILLEGAL (R110). -/
def flagOk (f : BitVec 4) : Bool := f.toNat < 12 || f == 15

/-- A clause header, or why it raises ILLEGAL (R131). -/
def decodeHeader (w : Word) : Except Reject Header :=
  let h : Header := {
    cls := w.extractLsb' 57 3
    count := w.extractLsb' 53 4
    wait := w.extractLsb' 41 12
    flagA := w.extractLsb' 37 4
    flagB := w.extractLsb' 33 4
    yield := w.getLsbD 32 }
  if !isHeader w then .error .marker
  else if 6 ≤ h.cls.toNat then .error .headerClass
  else if !(flagOk h.flagA && flagOk h.flagB) then .error .headerFlag
  else if w.extractLsb' 0 32 != 0 then .error .headerReserved
  else .ok h

/-- Long-latency instructions, as the opcode map marks them (R130): classes 1, 2, 3 and 5, and the marked ones of
classes 0 and 4. -/
def longLatencyOpcode (op : Nat) : Bool :=
  match op / 128 with
  | 0 => [0x06, 0x07, 0x2F, 0x3F, 0x48, 0x49].contains (op % 128)
  | 4 => op % 128 == 0x15
  | _ => true

/-- Terminators (R112), by opcode. -/
def terminatorOpcode (op : Nat) : Bool :=
  [0x200, 0x201, 0x202, 0x203, 0x204, 0x205, 0x208, 0x209, 0x20A, 0x20B, 0x20D, 0x20E, 0x214,
   0x282, 0x289, 0x290, 0x089].contains op

/-- The branches of R127, by opcode: their offset is relative to the clause header. -/
def branchOpcode (op : Nat) : Bool :=
  [0x200, 0x201, 0x202, 0x204, 0x205, 0x208, 0x209, 0x20A].contains op

/-- Offset of a BR word (R122): [45:14], signed. -/
def branchOffset (w : Word) : Int := (w.extractLsb' 14 32).toInt

/-- Why one word of a clause at header offset `base` (from H + 64) raises ILLEGAL, if it does; `last` marks the
clause's last instruction (R127, R131). -/
def wordFault (cls : Nat) (base codeSize : Nat) (last : Bool) (w : Word) : Option Reject :=
  match decodeWord w with
  | .error r => some r
  | .ok _ =>
    let op := opcodeOf w
    if op / 128 != cls then some .classDiffers
    else if terminatorOpcode op && !last then some .terminator
    else if branchOpcode op then
      let t := (base : Int) + branchOffset w
      if t < 0 || (codeSize : Int) ≤ t then some .branch else none
    else none

/-- Index of the first faulting word of a clause's instructions, counted from 0. -/
def firstFault (cls base codeSize : Nat) : List Word → Nat → Option Nat
  | [], _ => none
  | w :: ws, i =>
    if (wordFault cls base codeSize ws.isEmpty w).isSome then some i
    else firstFault cls base codeSize ws (i + 1)

/-! ## The host's probe of the decoder -/

/-- The instruction read from the low `nbits` of one word; the bits above are zero. -/
def decodeTableWord (nbits w : Nat) : Option Instr :=
  match decodeWord (BitVec.ofNat 64 (w % 2 ^ nbits)) with
  | .ok i => some i
  | .error _ => none

/-! ## The encoder -/

/-- RRR bits. -/
def Rrr.bits (o : Rrr) : BitVec 46 := o.d ++ o.a ++ o.b ++ o.c ++ o.ty ++ o.rm ++ BitVec.ofBool o.sat ++ o.e
/-- RI bits. -/
def Ri.bits (o : Ri) : BitVec 46 := o.d ++ o.a ++ o.imm ++ o.e
/-- LI and BR bits. -/
def Li.bits (o : Li) : BitVec 46 := o.d ++ o.imm ++ o.e
/-- MEM plain bits. -/
def Mem.bits (o : Mem) : BitVec 46 :=
  o.d ++ o.a ++ o.b ++ o.imm ++ BitVec.ofBool o.prom ++ BitVec.ofBool o.noOff ++ o.ty ++ o.ord ++ o.scope ++ o.ret ++
    BitVec.ofBool o.nol1
/-- MEM atomic bits. -/
def Atm.bits (o : Atm) : BitVec 46 :=
  o.d ++ o.a ++ o.b ++ o.c ++ o.ty ++ o.ord ++ o.scope ++ o.op ++ BitVec.ofBool o.prom ++ BitVec.ofBool o.noOff
/-- MX bits. -/
def Mx.bits (o : Mx) : BitVec 46 := o.d ++ o.a ++ o.b ++ o.c ++ o.m
/-- EC bits. -/
def Ec.bits (o : Ec) : BitVec 46 :=
  o.d ++ o.a ++ o.b ++ o.c ++ BitVec.ofBool o.acq ++ BitVec.ofBool o.rel ++ o.scope ++ o.e
/-- SYS bits. -/
def Sys.bits (o : Sys) : BitVec 46 := o.d ++ o.a ++ o.imm ++ o.e

/-- A word from its opcode, its common fields and bits [53:8] (R118). -/
def assemble (op : Nat) (h : Hd) (b : BitVec 46) : Word :=
  BitVec.ofNat 10 op ++ b ++ h.guard ++ BitVec.ofBool h.neg ++ BitVec.ofBool h.ixA ++ BitVec.ofBool h.ixD ++ BitVec.ofBool h.fb

/-- The word of an instruction (R130); none for the events, which have no word. -/
def encode : Instr → Option Word
  | .iadd h o => some (assemble 0x000 h o.bits)
  | .isub h o => some (assemble 0x001 h o.bits)
  | .imul h o => some (assemble 0x002 h o.bits)
  | .imulh h o => some (assemble 0x003 h o.bits)
  | .imad h o => some (assemble 0x004 h o.bits)
  | .imadw h o => some (assemble 0x005 h o.bits)
  | .idiv h o => some (assemble 0x006 h o.bits)
  | .irem h o => some (assemble 0x007 h o.bits)
  | .imin h o => some (assemble 0x008 h o.bits)
  | .imax h o => some (assemble 0x009 h o.bits)
  | .iabs h o => some (assemble 0x00A h o.bits)
  | .isat h o => some (assemble 0x00B h o.bits)
  | .andl h o => some (assemble 0x00C h o.bits)
  | .orl h o => some (assemble 0x00D h o.bits)
  | .xorl h o => some (assemble 0x00E h o.bits)
  | .andn h o => some (assemble 0x00F h o.bits)
  | .shl h o => some (assemble 0x010 h o.bits)
  | .shr h o => some (assemble 0x011 h o.bits)
  | .sar h o => some (assemble 0x012 h o.bits)
  | .rot h o => some (assemble 0x013 h o.bits)
  | .bfx h o => some (assemble 0x014 h o.bits)
  | .bfi h o => some (assemble 0x015 h o.bits)
  | .popc h o => some (assemble 0x016 h o.bits)
  | .clz h o => some (assemble 0x017 h o.bits)
  | .brev h o => some (assemble 0x018 h o.bits)
  | .lea h o => some (assemble 0x019 h o.bits)
  | .mov h o => some (assemble 0x01A h o.bits)
  | .movi h o => some (assemble 0x01B h o.bits)
  | .movs h o => some (assemble 0x01C h o.bits)
  | .sel h o => some (assemble 0x01D h o.bits)
  | .icmp h o => some (assemble 0x01E h o.bits)
  | .fcmp h o => some (assemble 0x01F h o.bits)
  | .pand h o => some (assemble 0x020 h o.bits)
  | .por h o => some (assemble 0x021 h o.bits)
  | .pxor h o => some (assemble 0x022 h o.bits)
  | .pnot h o => some (assemble 0x023 h o.bits)
  | .kmov h o => some (assemble 0x024 h o.bits)
  | .kand h o => some (assemble 0x025 h o.bits)
  | .kor h o => some (assemble 0x026 h o.bits)
  | .kbit h o => some (assemble 0x027 h o.bits)
  | .kset h o => some (assemble 0x028 h o.bits)
  | .fadd h o => some (assemble 0x029 h o.bits)
  | .fsub h o => some (assemble 0x02A h o.bits)
  | .fmul h o => some (assemble 0x02B h o.bits)
  | .ffma h o => some (assemble 0x02C h o.bits)
  | .fmin h o => some (assemble 0x02D h o.bits)
  | .fmax h o => some (assemble 0x02E h o.bits)
  | .fsfu h o => some (assemble 0x02F h o.bits)
  | .hadd2 h o => some (assemble 0x030 h o.bits)
  | .hmul2 h o => some (assemble 0x031 h o.bits)
  | .hfma2 h o => some (assemble 0x032 h o.bits)
  | .badd2 h o => some (assemble 0x033 h o.bits)
  | .bmul2 h o => some (assemble 0x034 h o.bits)
  | .bfma2 h o => some (assemble 0x035 h o.bits)
  | .frot h o => some (assemble 0x036 h o.bits)
  | .cvt h o => some (assemble 0x037 h o.bits)
  | .reint h o => some (assemble 0x038 h o.bits)
  | .pack4 h o => some (assemble 0x039 h o.bits)
  | .unpk4 h o => some (assemble 0x03A h o.bits)
  | .pack8 h o => some (assemble 0x03B h o.bits)
  | .unpk8 h o => some (assemble 0x03C h o.bits)
  | .idp4 h o => some (assemble 0x03D h o.bits)
  | .edp4 h o => some (assemble 0x03E h o.bits)
  | .rng h o => some (assemble 0x03F h o.bits)
  | .sadd h o => some (assemble 0x040 h o.bits)
  | .smul h o => some (assemble 0x041 h o.bits)
  | .sand h o => some (assemble 0x042 h o.bits)
  | .sor h o => some (assemble 0x043 h o.bits)
  | .sshl h o => some (assemble 0x044 h o.bits)
  | .scmp h o => some (assemble 0x045 h o.bits)
  | .smov h o => some (assemble 0x046 h o.bits)
  | .smovi h o => some (assemble 0x047 h o.bits)
  | .red h o => some (assemble 0x048 h o.bits)
  | .scan h o => some (assemble 0x049 h o.bits)
  | .vcnt h o => some (assemble 0x04A h o.bits)
  | .fkey h o => some (assemble 0x04B h o.bits)
  | .shfl h o => some (assemble 0x04C h o.bits)
  | .ld h o => some (assemble 0x080 h o.bits)
  | .st h o => some (assemble 0x081 h o.bits)
  | .lds h o => some (assemble 0x082 h o.bits)
  | .sts h o => some (assemble 0x083 h o.bits)
  | .ldc h o => some (assemble 0x084 h o.bits)
  | .fence h o => some (assemble 0x085 h o.bits)
  | .pref h o => some (assemble 0x086 h o.bits)
  | .cflush h o => some (assemble 0x087 h o.bits)
  | .probe h o => some (assemble 0x088 h o.bits)
  | .xcl h o => some (assemble 0x089 h o.bits)
  | .mma h o => some (assemble 0x100 h o.bits)
  | .czero h o => some (assemble 0x101 h o.bits)
  | .crd h o => some (assemble 0x102 h o.bits)
  | .cwr h o => some (assemble 0x103 h o.bits)
  | .cmov h o => some (assemble 0x104 h o.bits)
  | .mmask h o => some (assemble 0x105 h o.bits)
  | .mbud h o => some (assemble 0x106 h o.bits)
  | .crank h o => some (assemble 0x107 h o.bits)
  | .rkins h o => some (assemble 0x108 h o.bits)
  | .rkfold h o => some (assemble 0x109 h o.bits)
  | .rkmerge h o => some (assemble 0x10A h o.bits)
  | .rkout h o => some (assemble 0x10B h o.bits)
  | .rkfloor h o => some (assemble 0x10C h o.bits)
  | .qapp h o => some (assemble 0x180 h o.bits)
  | .qclaim h o => some (assemble 0x181 h o.bits)
  | .qdone h o => some (assemble 0x182 h o.bits)
  | .qflush h o => some (assemble 0x183 h o.bits)
  | .qstat h o => some (assemble 0x184 h o.bits)
  | .xcopy h o => some (assemble 0x185 h o.bits)
  | .xgather h o => some (assemble 0x186 h o.bits)
  | .xmcast h o => some (assemble 0x187 h o.bits)
  | .xchain h o => some (assemble 0x188 h o.bits)
  | .launch h o => some (assemble 0x189 h o.bits)
  | .tickarm h o => some (assemble 0x18A h o.bits)
  | .tickdis h o => some (assemble 0x18B h o.bits)
  | .wclaim h o => some (assemble 0x18C h o.bits)
  | .wclaimTick h o => some (assemble 0x18C h o.bits)
  | .wclaimOpen h o => some (assemble 0x18C h o.bits)
  | .wrel h o => some (assemble 0x18D h o.bits)
  | .wrelClose h o => some (assemble 0x18D h o.bits)
  | .xcoll h o => some (assemble 0x18E h o.bits)
  | .bra h o => some (assemble 0x200 h o.bits)
  | .brau h o => some (assemble 0x201 h o.bits)
  | .call h o => some (assemble 0x202 h o.bits)
  | .ret h o => some (assemble 0x203 h o.bits)
  | .ifc h o => some (assemble 0x204 h o.bits)
  | .elsec h o => some (assemble 0x205 h o.bits)
  | .endif h o => some (assemble 0x206 h o.bits)
  | .loop h o => some (assemble 0x207 h o.bits)
  | .brk h o => some (assemble 0x208 h o.bits)
  | .cont h o => some (assemble 0x209 h o.bits)
  | .endl h o => some (assemble 0x20A h o.bits)
  | .exit h o => some (assemble 0x20B h o.bits)
  | .nop h o => some (assemble 0x20C h o.bits)
  | .yield h o => some (assemble 0x20D h o.bits)
  | .sleep h o => some (assemble 0x20E h o.bits)
  | .region h o => some (assemble 0x20F h o.bits)
  | .setx h o => some (assemble 0x210 h o.bits)
  | .rgrow h o => some (assemble 0x211 h o.bits)
  | .rshrink h o => some (assemble 0x212 h o.bits)
  | .sread h o => some (assemble 0x213 h o.bits)
  | .trap h o => some (assemble 0x214 h o.bits)
  | .ctxq h o => some (assemble 0x215 h o.bits)
  | .tnow h o => some (assemble 0x216 h o.bits)
  | .atom h o => some (assemble 0x280 h o.bits)
  | .redM h o => some (assemble 0x281 h o.bits)
  | .waita h o => some (assemble 0x282 h o.bits)
  | .wake h o => some (assemble 0x283 h o.bits)
  | .binit h o => some (assemble 0x284 h o.bits)
  | .breg h o => some (assemble 0x285 h o.bits)
  | .barr h o => some (assemble 0x286 h o.bits)
  | .barrd h o => some (assemble 0x287 h o.bits)
  | .bexp h o => some (assemble 0x288 h o.bits)
  | .bwait h o => some (assemble 0x289 h o.bits)
  | .btest h o => some (assemble 0x28A h o.bits)
  | .rsecEnter h o => some (assemble 0x28B h o.bits)
  | .rsecLeave h o => some (assemble 0x28C h o.bits)
  | .publ h o => some (assemble 0x28D h o.bits)
  | .retire h o => some (assemble 0x28E h o.bits)
  | .gpseq h o => some (assemble 0x28F h o.bits)
  | .gpwait h o => some (assemble 0x290 h o.bits)
  | .clauseIssue .. | .clauseTimeslice .. | .boost .. | .longLatencyComplete .. | .sleepEnd ..
  | .waitaTimeout .. | .waitWake .. | .gpwaitTimeout .. | .gpwaitMet .. | .bwaitWake .. | .wordOpStart ..
  | .wordOpComplete .. | .operandTimeout .. | .recordWrite .. | .rowRetry .. | .chainEntry .. | .directItem ..
  | .pieceLand .. | .engineItemComplete .. | .engineTimeout .. | .blockRetry .. | .collectiveFlit ..
  | .collectiveComplete .. | .collectiveTimeout .. | .launchAccept .. | .rowStageClaim .. | .flushTimerExpiry ..
  | .tileStageClaim .. | .gangPlace .. | .teamEnd .. | .launchComplete .. | .handlerEvent .. | .trapRetry ..
  | .watchdogExpiry .. | .preemptStop .. | .saveComplete .. | .gangRestore .. | .killComplete ..
  | .rgrowGrant .. | .growthDeadlock .. | .carveCommit .. | .carveTimeout .. | .graceCheck ..
  | .advanceComplete .. | .retireAction .. | .retireRetry .. | .graceWarning .. | .promoteProbe ..
  | .postedWriteEffect .. | .tokenFrame .. | .windowFrame .. | .tick .. | .holdExpiry .. | .ptpSync ..
  | .lockLoss | .linkTrainingRequest .. | .linkTrained .. | .linkTrainingTimeout .. | .flitCrcFail ..
  | .linkFence .. | .multicastFlit .. | .podAccessTimeout .. | .governorEval .. | .doorbell .. | .bar2Write ..
  | .bar2Read .. | .podid .. | .svcPlimit .. | .registerWrite .. | .functionLevelReset .. | .reset | .state ..
  | .resumet .. | .resumeg .. | .kill .. | .inval .. | .invalComplete .. | .errstat .. | .create .. | .start ..
  | .switchout .. | .switchin .. | .destroy .. | .preempt .. | .carve .. | .hrestart .. | .partition ..
  | .keyload .. | .recal .. | .recalComplete .. | .fwload .. | .selftest .. | .fenceCore .. | .unfence ..
  | .attest .. | .unassignedCommand .. | .dieFenced | .podRequest .. => none

end Sys2Proof
end

