-- ==== Sys2Proof/Config.lean ====
section
/-! DEFINITION. What an implementation fixes or the spec leaves open. The opaque constants are free values:
nothing can be proved of them but that they are functions of their arguments. -/

namespace Sys2Proof.Config

/-- Cores in the package (R16, R18): eight dies of 72 clusters of eight cores. -/
def cores : Nat := 4608
/-- Clusters in the package. -/
def clusters : Nat := 576
/-- L2 slices in the package (R25). -/
def slices : Nat := 288

/-- Bytes of second-tier capacity attached (R197, R410): fixed by the module's build, not by the spec. -/
opaque tier2Bytes : Nat

/-- FREE VALUE: a byte read under a key slot that does not hold the line's data (R80 gives only that it is no data of
another slot); arguments: the fresh counter and the address. Log entry 6. -/
opaque garble : Nat → Nat → Byte
/-- FREE VALUE: the set of a line in its home slice (R79 speaks of sets and gives no index of them). Log entry 17. -/
opaque sliceSet : Nat → Nat
/-- FREE VALUE: the level field of a fault met without a walk (R204 gives none for NONCANON and for a fetch from the
window region); argument: the fresh counter. Log entry 21. -/
opaque walkLevel : Nat → BitVec 2
/-- FREE VALUE: which operand of a word-op was not delivered in time (R261 does not say where the request stood):
0 A row, 1 A scale, 2 B sub-tile; argument: the fresh counter. Log entry 22. -/
opaque lateOperand : Nat → Fin 3
/-- FREE VALUE: an element of an accumulator word that no instruction has written since allocation, merged by a word-op
after an earlier one into it faulted; arguments: the fresh counter and the element. Log entry 22. -/
opaque emptyElem : Nat → Nat → Word
/-- FREE VALUE: a byte another package answers a pod access with (R400); arguments: fresh counter, physical address.
Log entry 13. -/
opaque podByte : Nat → Nat → Byte
/-- FREE VALUE: a 64-bit word another package answers a pod atomic with. Log entry 13. -/
opaque podWord : Nat → Nat → Word
/-- FREE VALUE: a byte of BAR0 that the spec gives no meaning (R408); arguments: fresh counter, offset. Log entry 15. -/
opaque barByte : Nat → Nat → Byte
/-- FREE VALUE: the result bits of a special function whose two enclosing bounds round apart; arguments: function,
operand bits. No operand is known to reach it. Log entry 11. -/
opaque special : Nat → Nat → Nat
/-- FREE VALUE: the first 64 bytes of the SHAKE256 digest of a byte string (R402, R416).
Log entry 14. -/
opaque shake256 : List Byte → List Byte
/-- FREE VALUE: a system value of a handler kernel that the spec does not give (SREAD `part`, `gangidx`, `args`, `lflags`);
arguments: the fresh counter and which of the four. Log entry 24. -/
opaque handlerValue : Nat → Nat → Word
/-- FREE VALUE: whether an ML-DSA-65 signature verifies under a key (R416). Log entry 14. -/
opaque mldsaVerify : List Byte → List Byte → List Byte → Bool
/-- FREE VALUE: the ML-DSA-65 signature of the attestation identity over a record (R417). Log entry 14. -/
opaque mldsaSign : List Byte → List Byte
/-- FREE VALUE: the AES-XTS-256 key that the wrapped key at an address holds: the spec gives no layout of it (R377);
arguments: the fresh counter and the address. Log entry 14. -/
opaque unwrapKey : Nat → Nat → List Byte
/-- FREE VALUE: the cores a self-test finds failed (R418); argument: the fresh counter. Log entry 14. -/
opaque failedCores : Nat → List Nat
/-- FREE VALUE: the MBUD.RATE that the power governor sets for a core (R419 gives no rule); arguments: the fresh counter and
the core. Log entry 14. -/
opaque governorRate : Nat → Nat → BitVec 8
/-- FREE VALUE: the controller number and the security version that a firmware header of 64 bytes holds (R416 gives no
places). Log entry 14. -/
opaque fwHeader : List Byte → Nat × BitVec 32
/-- FREE VALUE: the vendor key fused into the part (R416). Log entry 14. -/
opaque vendorKey : List Byte
/-- FREE VALUE: the measurement and the security version of a controller's firmware before any FWLOAD (R416). Log entry 14. -/
opaque bootFirmware : Nat → List Byte × BitVec 32
/-- FREE VALUE: the identity public key of the part (R417). Log entry 14. -/
opaque identityKey : List Byte

end Sys2Proof.Config
end

