-- ==== Sys2Proof/Machine/Flags.lean ====
section
/-! DEFINITION. The sticky flags of a team (spec/02_formats.md R44) and the tag codes (R45, R49). -/

namespace Sys2Proof.Machine

/-- A set of sticky flags, TSTAT.STICKY[7:0]. -/
abbrev Sticky := BitVec 8

namespace Sticky
/-- No flag. -/
def none : Sticky := 0
/-- A result written that differs from the exact result. -/
def inx : Sticky := 1
/-- A tiny result that differs from its exact value. -/
def unf : Sticky := 2
/-- An overflow. -/
def ovf : Sticky := 4
/-- A division by zero, or RCP, RSQ, LOG2 of a zero. -/
def dz : Sticky := 8
/-- A NaN produced from operands that are none, or a NaN converted to an integer. -/
def inv : Sticky := 16
/-- A saturated conversion or integer result. -/
def sat : Sticky := 32
/-- A read of INT4 code 1000b. -/
def rsv4 : Sticky := 64
end Sticky

/-- Format tags of lane and scalar registers (R45); the codes are those of the type fields. -/
abbrev Tag := Nat

namespace Tag
/-- Never written since allocation. -/
def none : Tag := 0
/-- Signed 32-bit integer. -/
def i32 : Tag := 1
/-- Unsigned 32-bit integer. -/
def n32 : Tag := 2
/-- FP32. -/
def f32 : Tag := 3
/-- Two FP16 values. -/
def h16x2 : Tag := 4
/-- Two BF16 values. -/
def b16x2 : Tag := 5
/-- Four E4M3 values. -/
def e4m3x4 : Tag := 6
/-- Four INT8 values. -/
def i8x4 : Tag := 7
/-- Eight INT4 values. -/
def i4x8 : Tag := 8
/-- Order-preserving key. -/
def key32 : Tag := 9
/-- Signed 64-bit integer on a pair. -/
def i64 : Tag := 10
/-- FP64 on a pair. -/
def f64 : Tag := 11
/-- Untyped bits. -/
def raw : Tag := 12
end Tag

/-- The 64-bit tags, which lie on pairs of lane registers (R47). -/
def Tag.wide (t : Tag) : Bool := t == 10 || t == 11

/-- Every tag but NONE (R50). -/
def Tag.any : List Tag := [1, 2, 3, 4, 5, 6, 7, 8, 9, 10, 11, 12]

end Sys2Proof.Machine
end

