-- ==== Sys2Proof/Machine/Numbers.lean ====
section
/-! DEFINITION. The number formats and the one rounding of spec/02_formats.md (R29 to R43, helper table R51). -/

namespace Sys2Proof.Machine

/-- An exact value: NaN, an infinity, or (-1)^neg * m * 2^e. A zero keeps its sign. -/
inductive NumVal where
  | nan
  | inf (neg : Bool)
  | fin (neg : Bool) (m : Nat) (e : Int)
  deriving DecidableEq, Repr

/-- A floating-point format (R29). -/
structure Fmt where
  /-- Exponent bits. -/
  eb : Nat
  /-- Fraction bits. -/
  fb : Nat
  /-- Exponent bias. -/
  bias : Nat
  /-- Infinities exist (not in E4M3, R30). -/
  hasInf : Bool
  /-- Largest significand of the top binade. -/
  maxSig : Nat
  /-- Exponent of the unit of the top binade. -/
  topUnit : Int
  deriving DecidableEq, Repr

namespace Fmt
/-- FP64 and A64. -/
def f64 : Fmt := ⟨11, 52, 1023, true, 2 ^ 53 - 1, 971⟩
/-- FP32. -/
def f32 : Fmt := ⟨8, 23, 127, true, 2 ^ 24 - 1, 104⟩
/-- FP16. -/
def f16 : Fmt := ⟨5, 10, 15, true, 2 ^ 11 - 1, 5⟩
/-- BF16. -/
def bf16 : Fmt := ⟨8, 7, 127, true, 2 ^ 8 - 1, 120⟩
/-- E4M3, whose largest finite value is 448. -/
def e4m3 : Fmt := ⟨4, 3, 7, false, 14, 5⟩
/-- Bits of the format. -/
def width (f : Fmt) : Nat := 1 + f.eb + f.fb
/-- The exponent of the smallest subnormal. -/
def minUnit (f : Fmt) : Int := 1 - (f.bias : Int) - f.fb
/-- The sign bit. -/
def signBit (f : Fmt) (neg : Bool) : Nat := if neg then 2 ^ (f.eb + f.fb) else 0
/-- The canonical NaN (R31). -/
def nanBits (f : Fmt) : Nat := if f.hasInf then (2 ^ f.eb - 1) * 2 ^ f.fb + 2 ^ (f.fb - 1) else 0x7F
/-- The bits of an infinity. -/
def infBits (f : Fmt) (neg : Bool) : Nat := f.signBit neg + (2 ^ f.eb - 1) * 2 ^ f.fb
/-- The bits of the largest finite value. -/
def maxBits (f : Fmt) (neg : Bool) : Nat :=
  f.signBit neg + (f.topUnit - f.minUnit + 1).toNat * 2 ^ f.fb + (f.maxSig - 2 ^ f.fb)
end Fmt

/-- The rounding modes of R36. -/
inductive Mode where
  | rne | rz | ru | rd
  | rs (rho : Nat)
  deriving DecidableEq, Repr

/-- The mode a rounding field names; RS takes the random operand (R37). -/
def Mode.ofField (rm : Nat) (rho : Nat) : Mode :=
  match rm with
  | 0 => .rne
  | 1 => .rz
  | 2 => .ru
  | 3 => .rd
  | _ => .rs rho

namespace NumVal

/-- Zero of a sign. -/
def zero (neg : Bool) : NumVal := .fin neg 0 0
/-- An integer. -/
def ofInt (i : Int) : NumVal := .fin (i < 0) i.natAbs 0
/-- The value is NaN. -/
def isNan : NumVal → Bool
  | .nan => true
  | _ => false
/-- The value is an infinity. -/
def isInf : NumVal → Bool
  | .inf _ => true
  | _ => false
/-- The value is a zero. -/
def isZero : NumVal → Bool
  | .fin _ m _ => m == 0
  | _ => false
/-- The sign. -/
def neg : NumVal → Bool
  | .nan => false
  | .inf s => s
  | .fin s _ _ => s
/-- The value with the other sign. -/
def negate : NumVal → NumVal
  | .nan => .nan
  | .inf s => .inf !s
  | .fin s m e => .fin (!s) m e
/-- The signed significand of a finite value scaled to unit 2^u, for u at or below its exponent. -/
def scaled (s : Bool) (m : Nat) (e u : Int) : Int :=
  let v : Int := (m <<< (e - u).toNat : Nat)
  if s then -v else v

/-- Exact sum. An exact zero is +0, or -0 when rounding down; two zeros of one sign keep it (R152). Opposite
infinities give NaN. -/
def add (down : Bool) : NumVal → NumVal → NumVal
  | .nan, _ => .nan
  | _, .nan => .nan
  | .inf s, .inf t => if s == t then .inf s else .nan
  | .inf s, .fin .. => .inf s
  | .fin .., .inf t => .inf t
  | .fin s m e, .fin t n f =>
    if m == 0 && n == 0 then .fin (if s == t then s else down) 0 0
    else
      let u := min e f
      let v := scaled s m e u + scaled t n f u
      if v == 0 then .fin down 0 0 else .fin (v < 0) v.natAbs u

/-- Exact product; 0 times an infinity gives NaN. -/
def mul : NumVal → NumVal → NumVal
  | .nan, _ => .nan
  | _, .nan => .nan
  | .inf s, .inf t => .inf (s != t)
  | .inf s, .fin t n _ => if n == 0 then .nan else .inf (s != t)
  | .fin s m _, .inf t => if m == 0 then .nan else .inf (s != t)
  | .fin s m e, .fin t n f => .fin (s != t) (m * n) (e + f)

/-- Numeric comparison: none when unordered, -0 equal to +0 (R149). -/
def cmp : NumVal → NumVal → Option Ordering
  | .nan, _ => none
  | _, .nan => none
  | .inf s, .inf t => some (if s == t then .eq else if s then .lt else .gt)
  | .inf s, .fin .. => some (if s then .lt else .gt)
  | .fin .., .inf t => some (if t then .gt else .lt)
  | .fin s m e, .fin t n f =>
    let u := min e f
    some (compare (scaled s m e u) (scaled t n f u))

/-- Order with -0 below +0 (R153), for values that are not NaN. -/
def le153 (a b : NumVal) : Bool :=
  match cmp a b with
  | some .lt => true
  | some .gt => false
  | some .eq => a.neg || !b.neg
  | none => false

end NumVal

/-- The exact value, infinity or NaN that the low bits of `b` denote in a format (R29, R30); under `ftz` a subnormal
is read as zero of its sign (R32). -/
def decodeFloat (f : Fmt) (ftz : Bool) (b : Nat) : NumVal :=
  let s := b.testBit (f.eb + f.fb)
  let ex := (b / 2 ^ f.fb) % 2 ^ f.eb
  let fr := b % 2 ^ f.fb
  if ex == 2 ^ f.eb - 1 && f.hasInf then (if fr == 0 then .inf s else .nan)
  else if !f.hasInf && ex == 2 ^ f.eb - 1 && fr == 2 ^ f.fb - 1 then .nan
  else if ex == 0 then .fin s (if ftz then 0 else fr) f.minUnit
  else .fin s (2 ^ f.fb + fr) (f.minUnit + (ex - 1 : Nat))

/-- Options of one rounding into a floating format: flush-to-zero (R32), `.sat` of CVT (R157) and NaN-on-overflow
(R38). -/
structure RoundOpt where
  ftz    : Bool := false
  sat    : Bool := false
  nanovf : Bool := false
  deriving DecidableEq, Repr

/-- Whether the magnitude lo + rem/2^d rounds away from zero (R36, R37). -/
def roundsUp (mode : Mode) (neg : Bool) (lo rem d : Nat) : Bool :=
  match mode with
  | .rne => 2 ^ d < 2 * rem || (2 * rem == 2 ^ d && lo % 2 == 1)
  | .rz => false
  | .ru => !neg && rem != 0
  | .rd => neg && rem != 0
  | .rs rho => rho < rem * 2 ^ 32 / 2 ^ d

/-- The result of an overflow by mode (R38): true when it is the infinity. -/
def overflowInf (mode : Mode) (neg : Bool) : Bool :=
  match mode with
  | .rne | .rs _ => true
  | .rz => false
  | .ru => !neg
  | .rd => neg

/-- What a finite overflow writes, and its flags (R38, R157). -/
def overflowBits (f : Fmt) (mode : Mode) (opt : RoundOpt) (neg : Bool) : Nat × Sticky :=
  if !f.hasInf then
    if opt.nanovf then (f.nanBits, Sticky.inv) else (f.maxBits neg, Sticky.sat ||| Sticky.inx)
  else if opt.sat then (f.maxBits neg, Sticky.sat ||| Sticky.inx)
  else ((if overflowInf mode neg then f.infBits neg else f.maxBits neg), Sticky.ovf ||| Sticky.inx)

/-- The bits of the significand n at unit 2^q, where n is at most twice the format's hidden bit. -/
def packSig (f : Fmt) (neg : Bool) (n : Nat) (q : Int) : Nat :=
  if n < 2 ^ f.fb then f.signBit neg + n
  else if n == 2 ^ (f.fb + 1) then f.signBit neg + (q - f.minUnit + 2).toNat * 2 ^ f.fb
  else f.signBit neg + (q - f.minUnit + 1).toNat * 2 ^ f.fb + (n - 2 ^ f.fb)

/-- Rounding of a nonzero finite value (R36 to R38, R32). -/
def roundFin (f : Fmt) (mode : Mode) (opt : RoundOpt) (neg : Bool) (m : Nat) (e : Int) : Nat × Sticky :=
  let lg : Int := (Nat.log2 m : Int) + e
  let q : Int := max (lg - f.fb) f.minUnit
  let d := (q - e).toNat
  let lo := if q ≤ e then m <<< (e - q).toNat else m >>> d
  let rem := if q ≤ e then 0 else m % 2 ^ d
  let n := if roundsUp mode neg lo rem d then lo + 1 else lo
  let inexact := rem != 0
  let tiny := lg < f.minUnit + f.fb
  if f.topUnit < q || (q == f.topUnit && f.maxSig < n) then overflowBits f mode opt neg
  else if opt.ftz && n != 0 && n < 2 ^ f.fb then (f.signBit neg, Sticky.unf ||| Sticky.inx)
  else (packSig f neg n q,
    if inexact then Sticky.inx ||| (if tiny then Sticky.unf else Sticky.none) else Sticky.none)

/-- `round(x, fmt, mode, rho)` into a floating format (R51): the bits and the flags the rounding itself sets. A NaN
gives the canonical NaN and no flag here: INV is set by the operation that made it. -/
def roundFloat (f : Fmt) (mode : Mode) (opt : RoundOpt) : NumVal → Nat × Sticky
  | .nan => (f.nanBits, Sticky.none)
  | .inf s =>
    if f.hasInf then (f.infBits s, Sticky.none)
    else if opt.nanovf then (f.nanBits, Sticky.inv) else (f.maxBits s, Sticky.sat)
  | .fin s m e => if m == 0 then (f.signBit s, Sticky.none) else roundFin f mode opt s m e

/-- `rne64(x)` (R51): never flushed. -/
def rne64 (x : NumVal) : Nat × Sticky := roundFloat Fmt.f64 .rne {} x

/-- `round` into an integer range (R39): the integer and its flags. -/
def roundInt (lo hi : Int) (mode : Mode) : NumVal → Int × Sticky
  | .nan => (0, Sticky.inv)
  | .inf s => (if s then lo else hi, Sticky.sat)
  | .fin s m e =>
    let d := (-e).toNat
    let fl := if 0 ≤ e then m <<< e.toNat else m >>> d
    let rem := if 0 ≤ e then 0 else m % 2 ^ d
    let n := if roundsUp mode s fl rem d then fl + 1 else fl
    let v : Int := if s then -(n : Int) else n
    if v < lo then (lo, Sticky.sat ||| Sticky.inx)
    else if hi < v then (hi, Sticky.sat ||| Sticky.inx)
    else (v, if rem != 0 then Sticky.inx else Sticky.none)

/-- `sat(x, lo, hi)` (R51): the clipped value and SAT when it clips. -/
def satInt (lo hi x : Int) : Int × Sticky :=
  if x < lo then (lo, Sticky.sat) else if hi < x then (hi, Sticky.sat) else (x, Sticky.none)

/-- `key32(b)` (R35). -/
def key32 (b : Lane32) : Lane32 :=
  if (decodeFloat Fmt.f32 false b.toNat).isNan then 0xFFFFFFFF
  else if b == 0x80000000 then 0x80000000
  else if b.getLsbD 31 then ~~~b
  else b ||| 0x80000000

/-- `unkey32(k)` (R35). -/
def unkey32 (k : Lane32) : Lane32 :=
  let r := if k.getLsbD 31 then k &&& 0x7FFFFFFF else ~~~k
  if (decodeFloat Fmt.f32 false r.toNat).isNan then 0x7FC00000 else r

/-- The integer an INT4 code decodes to, and whether it is the reserved code 1000b (R33). -/
def decodeI4 (c : Nat) : Int × Bool :=
  if c == 8 then (0, true) else if 8 < c then ((c : Int) - 16, false) else (c, false)

/-- `rot(x, n)` (R51): rotate left. -/
def rot32 (x : Lane32) (n : Nat) : Lane32 := x.rotateLeft (n % 32)

end Sys2Proof.Machine
end

