-- ==== Sys2Proof/Machine/Map.lean ====
section
/-! DEFINITION. The operations of the finite maps that hold sparse state: pairs with strictly rising keys. -/

namespace Sys2Proof

/-- The value at a key. -/
def FMap.look {α : Type} (m : FMap α) (k : Nat) : Option α :=
  match m with
  | [] => none
  | (j, v) :: r => if j = k then some v else FMap.look r k

/-- The value at a key, or what an unlisted key holds. -/
def FMap.lookD {α : Type} (m : FMap α) (k : Nat) (d : α) : α := (FMap.look m k).getD d

/-- The map with a value at a key. -/
def FMap.put {α : Type} (m : FMap α) (k : Nat) (v : α) : FMap α :=
  match m with
  | [] => [(k, v)]
  | (j, w) :: r => if k < j then (k, v) :: (j, w) :: r else if j = k then (k, v) :: r else (j, w) :: FMap.put r k v

/-- The map without a key. -/
def FMap.del {α : Type} (m : FMap α) (k : Nat) : FMap α := m.filter fun c => c.1 != k

/-- The map with a value at a key, in canonical form: the value an unlisted key holds is not listed. -/
def FMap.putD {α : Type} [DecidableEq α] (m : FMap α) (k : Nat) (v d : α) : FMap α :=
  if v = d then FMap.del m k else FMap.put m k v

/-- The map with the value at a key changed, where it is listed. -/
def FMap.modify {α : Type} (m : FMap α) (k : Nat) (f : α → α) : FMap α :=
  match FMap.look m k with
  | none => m
  | some v => FMap.put m k (f v)

/-- Keys strictly above a bound and strictly rising. -/
def FMap.risingFrom {α : Type} : Option Nat → FMap α → Bool
  | _, [] => true
  | lo, (k, _) :: r => lo.all (· < k) && FMap.risingFrom (some k) r

/-- Keys strictly rising. -/
def FMap.rising {α : Type} (m : FMap α) : Bool := FMap.risingFrom none m

namespace Machine

/-- Byte-addressed memory as listed bytes; an unlisted byte reads zero (log entry 3). -/
abbrev Memory := List Host.Cell

/-- The canonical form: addresses strictly rising and no listed byte zero. -/
def Memory.wf (m : Memory) : Bool := FMap.rising m && m.all (fun c => c.2 != 0)

/-- One byte. -/
def Memory.read (m : Memory) (a : Nat) : Byte := FMap.lookD m a 0

/-- One byte stored, in canonical form. -/
def Memory.write (m : Memory) (a : Nat) (b : Byte) : Memory := FMap.putD m a b 0

/-- The n bytes from an address, lowest first. -/
def Memory.readN (m : Memory) (a n : Nat) : List Byte := (List.range n).map fun i => Memory.read m (a + i)

/-- The bytes stored from an address, lowest first (R5). -/
def Memory.writeN (m : Memory) (a : Nat) : List Byte → Memory
  | [] => m
  | b :: bs => Memory.writeN (Memory.write m a b) (a + 1) bs

/-- The little-endian value of bytes (R5). -/
def leNat : List Byte → Nat
  | [] => 0
  | b :: bs => b.toNat + 256 * leNat bs

/-- The n little-endian bytes of a value (R5). -/
def leBytes (n v : Nat) : List Byte := (List.range n).map fun i => BitVec.ofNat 8 (v / 256 ^ i)

/-- n rounded up to a multiple of k. -/
def roundUp (n k : Nat) : Nat := (n + k - 1) / k * k

/-- Bits [hi:lo] of a value (R4). -/
def bitsOf (v hi lo : Nat) : Nat := v / 2 ^ lo % 2 ^ (hi + 1 - lo)

end Machine

end Sys2Proof
end

