-- ==== Sys2Proof/Machine/State.lean ====
section
/-! DEFINITION. The state of the Dzitin as plain data: everything the spec gives the machine (INVENTORY.md, State),
and its value at reset. -/

namespace Sys2Proof.Machine

/-! ## Teams (spec/08_team.md) -/

/-- A scalar register: 64 bits, a tag and a taint bit (R48, R66). -/
structure SReg where
  bits  : Word
  tag   : Tag
  taint : Bool
  deriving DecidableEq, Repr

/-- The record of a translation fault (R204). -/
structure XRec where
  va     : Nat
  kind   : Nat
  access : Nat
  level  : Nat
  lanes  : Nat
  core   : Nat
  slot   : Nat
  group  : Nat
  pc     : Nat
  deriving DecidableEq, Repr

/-- What a mask-stack entry is for (R172). -/
inductive MaskKind where
  | ifc | elsec | brk | cont | call
  deriving DecidableEq, Repr

/-- A mask-stack entry: a kind and a lane mask, or a return address (R172). -/
structure MaskEntry where
  kind : MaskKind
  mask : Mask
  ret  : Nat
  deriving DecidableEq, Repr

/-- The clause a team is issuing, decoded whole before its first instruction (R111): the header's offset, its flag
fields and yield hint, and the words not yet issued. -/
structure Clause where
  base  : Nat
  flagA : Nat
  flagB : Nat
  yield : Bool
  words : List Word
  deriving DecidableEq, Repr

/-- A place memory is kept: device memory, host memory, a chip scratchpad segment byte, or the scratchpad or cluster
memory of a gang's group. -/
inductive Loc where
  /-- Physical address (R197). -/
  | dev (pa : Nat)
  /-- Byte of chip scratchpad: slice, segment and offset flattened (R72). -/
  | seg (a : Nat)
  /-- Byte of group scratchpad: gang, group, offset. -/
  | scratch (gang group off : Nat)
  /-- Byte of cluster memory: gang, offset (R71). -/
  | cluster (gang off : Nat)
  deriving DecidableEq, Repr

/-- What a Waiting team waits for (R166). -/
inductive Wait where
  /-- The flags of its next clause's wait mask (R115). -/
  | flags (mask : Nat)
  /-- A partner at a Shuttle channel (R184): the channel, D, A, the count k, the register sC and the active mask at
  issue. -/
  | xcl (chan : Loc) (d a k c : Nat) (mask : Mask)
  /-- A synchronisation word (R228): the word, condition, comparand, type, acquire scope, deadline, destination and the
  status once an event has ended the wait. -/
  | waita (word : Loc) (cond ty : Nat) (cmp : Word) (acq : Bool) (scope deadline d : Nat) (status : Option Nat)
  /-- A barrier phase (R245): the object, the phase, the destination and the status once the phase completed. -/
  | bwait (obj : Loc) (phase d : Nat) (status : Option Nat)
  /-- A grace epoch (R310): slot, domain, target, wait for done, deadline, destination. -/
  | gpwait (slot dom target : Nat) (done : Bool) (deadline d : Nat)
  deriving DecidableEq, Repr

/-- Why a team is Parked (R358, R359). -/
inductive Park where
  /-- A replayable fault. -/
  | replay
  /-- A system call: the reply register, whether its record has been appended to the queue, and the next try. -/
  | trap (d : Nat) (sent : Bool) (next : Nat)
  deriving DecidableEq, Repr

/-- The states of a team (R166). -/
inductive TeamState where
  | ready
  | waiting (w : Wait)
  | sleeping (wake : Nat)
  | growing (g since : Nat)
  | parked (p : Park)
  | halted
  | saved
  | ended
  deriving DecidableEq, Repr

/-- A reader section's depth and snapshot in one domain slot (R292). -/
structure Reader where
  depth : Nat
  snap  : Nat
  deriving DecidableEq, Repr

/-- An entry of the barrier registration table (R236). -/
structure BarReg where
  addr : Nat
  obj  : Loc
  gen  : Nat
  sig  : Bool
  wait : Bool
  last : Nat
  deriving DecidableEq, Repr

/-- The Pricking block (R259): prefix length, node count and a vector for each lane. -/
structure Prick where
  p    : Nat
  n    : Nat
  vecs : FMap (BitVec 16)
  deriving DecidableEq, Repr

/-- The rank side-band state of a lane of an accumulator (R274). -/
structure RankLane where
  len : Nat
  k   : Nat
  nan : Bool
  deriving DecidableEq, Repr

/-- The tag of an accumulator word (R49); NONE is not listed. -/
inductive AccTag where
  | a64 | rank
  deriving DecidableEq, Repr

/-- The lane registers of a team: bits at v * 1024 + L, word tags at v * 32 + W, taint of register v (R46, R66). -/
structure LaneFile where
  bits  : FMap Lane32
  tags  : FMap Tag
  taint : FMap Mask
  deriving DecidableEq, Repr

/-- The accumulators of a team (R249, R274): element j of lane L of register c at (c * 1024 + L) * 32 + j, word tags
at c * 32 + W, void bits of register c, rank state at c * 1024 + L. -/
structure Accs where
  elems : FMap Word
  tags  : FMap AccTag
  void  : FMap Mask
  rank  : FMap RankLane
  deriving DecidableEq, Repr

/-- An instruction under way to another package (R400): the packages its accesses name, the die whose links they take,
where it stands, the registers it writes as they were before it (lane registers, scalars and accumulators), and the sticky
flags it raised. -/
structure Fly where
  pkgs   : List Nat
  die    : Nat
  pc     : Nat
  clause : Option Clause
  vs     : List Nat
  ss     : List Nat
  cs     : List Nat
  file   : LaneFile
  sregs  : FMap SReg
  acc    : Accs
  raised : Sticky
  deriving DecidableEq, Repr

/-- One pending long-latency completion: the flag it counts on, 15 for none (R114); for an MMA, the instruction whose
word-ops it waits for; an access under way to another package; and whether it is of a halt's skid (R117). -/
structure Pend where
  flag : Nat
  mma  : Option Nat
  fly  : Option Fly
  skid : Bool
  deriving DecidableEq, Repr

/-- A team (R52, R166 to R191). -/
structure Team where
  gang    : Nat
  group   : Nat
  index   : Nat
  slot    : Nat
  /-- The pipe it is bound to: core * 4 + pipe (R56). -/
  pipe    : Nat
  /-- The first byte of its registers, accumulators and private storage in the allocation space of its core (R62). -/
  base    : Nat
  lanes   : Nat
  vregs   : Nat
  accs    : Nat
  priv    : Nat
  ftz     : Bool
  i4trap  : Bool
  unwtrap : Bool
  st      : TeamState
  /-- The state a Saved team is restored into (R166). -/
  back    : TeamState
  /-- Byte offset from H + 64. -/
  pc      : Nat
  clause  : Option Clause
  cur     : Mask
  exited  : Mask
  stack   : List MaskEntry
  x       : BitVec 16
  sregs   : FMap SReg
  preds   : FMap Mask
  kregs   : FMap (BitVec 16)
  file    : LaneFile
  acc     : Accs
  pend    : List Pend
  sticky  : Sticky
  readers : FMap Reader
  bars    : List BarReg
  prick   : Prick
  region  : List Nat
  /-- Lane-private storage, byte o of lane L at L * 65536 + o (R62, R73). -/
  store   : Memory
  /-- Skid instructions this team may still begin in a halt, and those it has begun (R356). -/
  skidLeft : Nat
  skid    : Nat
  /-- The team's own error code (R355) and fault record. -/
  err     : Nat
  xrec    : Option XRec
  boost   : Bool
  /-- The cycle since which it has been passed over at clause boundaries, Ready at each of them (R350). -/
  passed  : Option Nat
  /-- Twice the cycle its last clause began (R350), or twice the cycle in which a clause with a yield hint ended and one
  more (R116). -/
  lastIssue : Nat
  /-- It was resumed from a translation fault: its next instruction walks afresh (R205). -/
  afresh  : Bool
  /-- It has ended and its slot is free (R167). -/
  freed   : Bool
  deriving DecidableEq, Repr

/-! ## Groups and gangs (spec/03_work.md R52, R53; spec/17_group.md) -/

/-- The kernel header's fields (R106). -/
structure KHdr where
  codeSize : Nat
  lanes    : Nat
  teams    : Nat
  groups   : Nat
  vregs    : Nat
  accs     : Nat
  scratch  : Nat
  cluster  : Nat
  priv     : Nat
  ftz      : Bool
  i4trap   : Bool
  unwr     : Bool
  entry    : Nat
  dataSize : Nat
  deriving DecidableEq, Repr

/-- The states of a gang (R354). -/
inductive GangState where
  | unplaced | resident | saving | saved | retired | killed
  deriving DecidableEq, Repr

/-- A halt of a group in progress: its code and its cycle 0 (R356), the slot of the team whose code it is, none for the
watchdog's, and that team's fault record (R357, R363). -/
structure Halt where
  code  : Nat
  since : Nat
  slot  : Option Nat
  xrec  : Option XRec
  deriving DecidableEq, Repr

/-- A group: the core that holds it, the block of the allocation space that holds its mask-stack spill areas, scratchpad and
cluster-memory share (R60), its scratchpad and its share of the cluster memory with their valid bits (word w is bit w),
and a halt whose skid has not ended. -/
structure GroupSt where
  core  : Nat
  base  : Nat
  size  : Nat
  bytes : Memory
  valid : Nat
  share : Memory
  svalid : Nat
  halt  : Option Halt
  deriving DecidableEq, Repr

/-- A range of frame sequence numbers (R391). -/
structure Range where
  first : Nat
  count : Nat
  last  : Nat
  deriving DecidableEq, Repr

/-- A claim of records by a stage (R339, R340): first index and number. -/
structure Claim where
  first : Nat
  count : Nat
  deriving DecidableEq, Repr

/-- Where a gang came from. -/
inductive Origin where
  /-- A launch, by number. -/
  | launch (l : Nat)
  /-- A tick slot of a context. -/
  | tick (ctx slot : Nat)
  /-- The handler slot of a core (R361). -/
  | handler (core : Nat)
  deriving DecidableEq, Repr

/-- A gang not yet placed: what R348 sets its teams up with. -/
structure Cand where
  origin  : Origin
  ctx     : Nat
  part    : Nat
  ordinal : Nat
  hdr     : KHdr
  image   : Nat
  args    : Nat
  record  : Nat
  lrec    : Nat
  lflags  : Nat
  /-- Lanes 0 to this bound minus one start in the execution mask. -/
  lanes   : Nat
  /-- The completion word and value of a tick launch's record as the fire read them (R392). -/
  cword   : Nat
  cvalue  : Nat
  claim   : Option Claim
  range   : Option Range
  /-- Standing of R347, smaller first. -/
  rank    : Nat
  deriving DecidableEq, Repr

/-- A gang (R53, R354). -/
structure Gang where
  handle  : Nat
  src     : Cand
  st      : GangState
  cluster : Nat
  core0   : Nat
  groups  : List GroupSt
  /-- Its teams are off the cores: they are in a save image (R53, R354). -/
  off     : Bool
  /-- The bytes of its save image as they were written, with their place (R370). -/
  image   : Option (Nat × List Byte)
  /-- Cycle of placement or restore. -/
  placed  : Nat
  /-- The count of its watchdog in cycles (R367). -/
  idle    : Nat
  /-- A pre-emption is asked for (R368), and a kill that its save holds back (R354). -/
  preempt : Bool
  kill    : Bool
  /-- Handler events carried by the saved image (R362, R370): group, kind and record. -/
  carried : List (Nat × Nat × List Byte)
  deriving DecidableEq, Repr

/-! ## Memory and caches (spec/04_memory_spaces.md, spec/09_page.md) -/

/-- A line that a home slice holds, with its retention hint (R79); the slice is a package slice number. -/
structure SliceLine where
  line  : Nat
  slice : Nat
  hint  : Nat
  deriving DecidableEq, Repr

/-- A first-level cache line (R75, R76): physical line number, key slot, grain in bytes, its home slice and the retention
hint of the last access to it, sector valid bits, dirty bits of bytes, and its 512 bytes. -/
structure L1Line where
  line  : Nat
  slot  : Nat
  grain : Nat
  home  : Nat
  hint  : Nat
  valid : BitVec 16
  dirty : BitVec 512
  data  : BitVec 4096
  deriving DecidableEq, Repr

/-- A leaf page entry's fields (R194, R195). -/
structure Leaf where
  base  : Nat
  size  : Nat
  rd    : Bool
  wr    : Bool
  ex    : Bool
  pin   : Bool
  dirty : Bool
  key   : Nat
  grain : Nat
  ret   : Nat
  place : Bool
  hdie  : Nat
  deriving DecidableEq, Repr

/-- A translation that a core or a cluster caches (R201): the cache, the context, the page's virtual base, the leaf and
where its entry lies. -/
structure Tlb where
  agent : Nat
  ctx   : Nat
  vbase : Nat
  leaf  : Leaf
  entry : Nat
  deriving DecidableEq, Repr

/-- An upper-level table entry that a die's walker caches (R201): the context, the level of the entry, the address bits
that select it, and the table it names. -/
structure Walk where
  die   : Nat
  ctx   : Nat
  level : Nat
  vpre  : Nat
  table : Nat
  deriving DecidableEq, Repr

/-- A narrow-releaser entry of a slice (R98): a line and up to four clusters; a cluster of another package has the number
`(package + 1) * 1024 + cluster`. -/
structure Narrow where
  slice    : Nat
  line     : Nat
  clusters : List Nat
  deriving DecidableEq, Repr

/-- The states of a Thimble word but Cold, which is unlisted (R220). -/
inductive WordSt where
  | hot | waited | spilled
  deriving DecidableEq, Repr

/-- A Thimble word that is not Cold, at the engine of a die; the most recently used come first. -/
structure ThimbleWord where
  word : Loc
  die  : Nat
  st   : WordSt
  deriving DecidableEq, Repr

/-- A waiter record (R221): the word and the team, which holds the condition and the deadline in its own state. -/
structure Waiter where
  word : Loc
  die  : Nat
  team : Nat
  deriving DecidableEq, Repr

/-- A team waiting in BWAIT, in its meeting point's tables (R234). -/
structure BarWaiter where
  obj  : Loc
  team : Nat
  deriving DecidableEq, Repr

/-- Memory and what stands between it and the agents. -/
structure MemSt where
  dev     : Memory
  host    : Memory
  seg     : Memory
  /-- The key slot under which each line's bytes are held (R80); unlisted: none. -/
  lines   : FMap Nat
  /-- The lines the home slices hold, most recently used first (R79). -/
  slice   : List SliceLine
  /-- The lines of each cluster's L1, most recently used first. -/
  l1      : FMap (List L1Line)
  /-- Cache ways of each cluster, in units of 32 KiB a core (R59); unlisted: 4. -/
  ways    : FMap Nat
  narrow  : List Narrow
  tlb     : List Tlb
  walks   : List Walk
  /-- The narrow releases sent to homes in other packages: line and cluster (R98). -/
  away    : List (Nat × Nat)
  words   : List ThimbleWord
  waiters : List Waiter
  bwaits  : List BarWaiter
  deriving DecidableEq, Repr

/-! ## Cores (spec/12_tile.md, spec/17_group.md) -/

/-- A fetched operand of a word-op (R254): its address, the place it names and its home slice, its bytes, or the cause, kind
and level of its fault (R261), and the lowest invalid word read (R83). -/
structure Oper where
  va    : Nat
  loc   : Option Loc
  home  : Option Nat
  bytes : List Byte
  fault : Option (Nat × Nat × Nat)
  low   : Option Nat
  deriving DecidableEq, Repr

/-- A word-op of an MMA (R252, R258), with its operands as fetched (log entry 8): A rows and scales by lane, B columns in
order. -/
structure WordOp where
  id      : Nat
  mma     : Nat
  team    : Nat
  pipe    : Nat
  word    : Nat
  acc     : Nat
  form    : Nat
  first   : Bool
  /-- The Pricking block and the global column of the sub-tile's column 0, under `.pricked`. -/
  prick   : Option (Prick × Nat)
  /-- Rank-skip applies to it. -/
  skip    : Bool
  rows    : Mask
  a       : FMap Oper
  scales  : FMap Oper
  b       : List Oper
  bscale  : Nat
  bar     : Loc
  barVa   : Nat
  pc      : Nat
  /-- A warning of its MMA has been appended (R83). -/
  warned  : Bool
  /-- Cycle of its entry into the queue. -/
  entered : Nat
  /-- The matrix unit works on it. -/
  started : Bool
  deriving DecidableEq, Repr

/-- A near slot of a pipe (R64, R186): team, register and word held, and whether the core store's copy is older; slots
used last come first. -/
structure Near where
  pipe  : Nat
  team  : Nat
  reg   : Nat
  word  : Nat
  dirty : Bool
  deriving DecidableEq, Repr

/-- A handler event (R362): the context, gang and group it is for, its kind and its 256-byte record. -/
structure HEvent where
  ctx    : Nat
  gang   : Nat
  group  : Nat
  kind   : Nat
  record : List Byte
  deriving DecidableEq, Repr

/-- A core: its budget in sixteenths of a unit (R264), the word-ops queued and the sweep still to enter, the word-ops that the
fused pass in progress has still to start (R255), its near slots,
its handler queue, the handler gang that runs with the event it serves, and the context whose handler stopped the slot
(R361 to R364). -/
structure Core where
  level  : Nat
  rate   : Nat
  stalls : Nat
  queue  : List WordOp
  sweep  : List WordOp
  pass   : List Nat
  near   : List Near
  hq     : List HEvent
  hrun   : Option (Nat × HEvent)
  hstop  : Option Nat
  deriving DecidableEq, Repr

/-! ## Launches, queues and engines (spec/15_queue.md, spec/16_kernel_launch.md) -/

/-- The states of a launch after its claim (R338). -/
inductive LaunchState where
  | checking | placing | draining | complete
  deriving DecidableEq, Repr

/-- A launch record the scheduler has claimed (R336, R338) and its stage (R339 to R343). -/
structure Launch where
  id       : Nat
  ctx      : Nat
  part     : Nat
  queue    : Nat
  index    : Nat
  addr     : Nat
  mode     : Nat
  count    : Nat
  kernel   : Nat
  args     : Nat
  rqueue   : Nat
  cword    : Nat
  cvalue   : Nat
  node     : Nat
  hdr      : Option KHdr
  st       : LaunchState
  status   : Nat
  retired  : Nat
  rejected : Nat
  /-- Gangs launched so far. -/
  launched : Nat
  /-- Gangs claimed and not yet placed. -/
  cands    : List Cand
  /-- When the visible count last became nonzero or the last claim was made: the flush timer's start (R339). -/
  timer    : Option Nat
  /-- The flush timer expired while the stage held 256 gangs (R343). -/
  expired  : Bool
  /-- Claims whose gangs have ended and that the stage could not yet mark done (R339, R453). -/
  undone   : List Claim
  /-- The stage a stop record waits for (R342). -/
  waits    : Option Nat
  /-- The next try of a tile record the stage could not read (R341). -/
  nextTry  : Nat
  held     : Bool
  deriving DecidableEq, Repr

/-- What the Thimble engine keeps of a queue outside its block (R315): when its visible count last became nonzero (R339),
commit and done bits, the stage bound to it, and the team that appended an index (R69). -/
structure QAux where
  block  : Loc
  since  : Option Nat
  commit : List Nat
  done   : List Nat
  bound  : Option Nat
  owners : List (Nat × Nat)
  deriving DecidableEq, Repr

/-- An agent's failure to reach or use a block (R453): whether the XLATE item is out, and the next try. -/
structure Unreached where
  agent   : Nat
  ctx     : Nat
  va      : Nat
  told    : Bool
  nextTry : Nat
  deriving DecidableEq, Repr

/-- A reserved record on its way to its slot (R315, R318): the agent that writes it, the block and its key slot, the index,
the slot's address and the bytes; and the cluster whose L1 its commit writes back first, where the commit is a release
(R99, R315). -/
structure Row where
  id      : Nat
  agent   : Nat
  ctx     : Nat
  block   : Loc
  key     : Option Nat
  index   : Nat
  va      : Nat
  bytes   : List Byte
  back    : Option Nat
  faulted : Bool
  nextTry : Nat
  deriving DecidableEq, Repr

/-- What an item reports to when it ends. -/
inductive ItemSrc where
  /-- A direct item: its sequence number (R331). -/
  | direct (seq : Nat)
  /-- A chain entry: the block with its key slot, the entry's address and its index (R322). -/
  | chain (block : Loc) (key : Option Nat) (entry : Nat) (index : Nat)
  deriving DecidableEq, Repr

/-- An item a Bobbin or bulk engine works on (R320 to R324, R331). -/
structure EngItem where
  id      : Nat
  engine  : Nat
  ctx     : Nat
  /-- The team whose windows its addresses name (R69); none for a chain the host wrote. -/
  team    : Option Nat
  src     : ItemSrc
  op      : Nat
  acq     : Bool
  rel     : Bool
  scope   : Nat
  size    : Nat
  rowBytes : Nat
  rows    : Nat
  dst     : Nat
  source  : Nat
  aux     : Nat
  cword   : Nat
  cvalue  : Nat
  bar     : Nat
  /-- The barrier object, once resolved. -/
  barLoc  : Option Loc
  /-- The destinations of a multicast, the indices of a gather or the target pages of a migration, read once (R324). -/
  dests   : List Nat
  begun   : Bool
  /-- Pieces landed, their bytes, and those of them that have not yet arrived on the barrier: arrivals follow those of the
  items before (R322). -/
  landed  : Nat
  bytes   : Nat
  owed    : Nat
  status  : Option Nat
  unwr    : Bool
  since   : Nat
  deriving DecidableEq, Repr

/-- An item of a collective engine (R402 to R406) with the contributions that have arrived. -/
structure CollItem where
  id      : Nat
  die     : Nat
  ctx     : Nat
  team    : Option Nat
  src     : ItemSrc
  op      : Nat
  ty      : Nat
  red     : Nat
  count   : Nat
  acq     : Bool
  rel     : Bool
  scope   : Nat
  dst     : Nat
  source  : Nat
  descVa  : Nat
  cword   : Nat
  cvalue  : Nat
  bar     : Nat
  /-- The barrier object, once resolved. -/
  barLoc  : Option Loc
  group   : BitVec 32
  /-- Which collective of its group it is (R402). -/
  turn    : Nat
  members : List Nat
  self    : Nat
  digest  : List Byte
  /-- The cycle in which it began, and CGD.TIMEOUT in cycles, none for no limit (R403). -/
  began   : Nat
  limit   : Option Nat
  flits   : List Flit
  status  : Option Nat
  deriving DecidableEq, Repr

/-! ## Contexts (spec/18_context.md) and grace domains (spec/14_version.md) -/

/-- The states of a context (R375). -/
inductive CtxState where
  | free | bound | running | stopped | draining
  deriving DecidableEq, Repr

/-- A domain slot of a context (R289, R376). -/
structure DomSlot where
  dom   : Nat
  kind  : Nat
  queue : Nat
  deriving DecidableEq, Repr

/-- An armed tick slot (R391, R392, R394): its window's block, the next tick in nanoseconds. -/
structure TickSlot where
  win    : Nat
  next   : Nat
  period : Nat
  lag    : Nat
  hold   : Nat
  policy : Nat
  lrec   : Nat
  part   : Nat
  served : Nat
  missed : Nat
  /-- Ticks that a step of the time base has passed over while a fire was held: they follow the held one (R392). -/
  skip   : Nat
  /-- A held fire's deadline (R391). -/
  held   : Option Nat
  /-- The gang a fire made and that is not yet placed. -/
  cand   : Option Cand
  deriving DecidableEq, Repr

/-- A context (R375, R376). -/
structure Ctx where
  st       : CtxState
  /-- A SWITCHOUT has begun and not every image is written (R379). -/
  switching : Bool
  key      : Nat
  func     : Nat
  wdog     : Nat
  root     : Nat
  keyshr   : Nat
  handler  : Nat
  sysq     : Nat
  errec    : Nat
  save     : Nat
  saveSize : Nat
  errcap   : Nat
  /-- Chip scratchpad segments held, slice * 8 + segment, in window order (R72). -/
  segs     : List Nat
  doms     : FMap DomSlot
  ticks    : FMap TickSlot
  deriving DecidableEq, Repr

/-- A partition binding (R378). -/
structure Part where
  num      : Nat
  ctx      : Nat
  lq       : Nat
  prio     : Nat
  clusters : List Nat
  deriving DecidableEq, Repr

/-- A grace domain (R290, R291, R295, R298). -/
structure Domain where
  epoch   : Nat
  /-- An advance not yet complete: the cores that have not acknowledged it, which still hold the epoch before. -/
  behind  : List Nat
  /-- Core counters, core * 2 + parity. -/
  counts  : FMap Nat
  /-- Parked counters, die * 2 + parity. -/
  parked  : FMap Nat
  /-- When a check last failed, the first die with a nonzero count then, since when entries wait, and the warnings each
  context has had of it (R298). -/
  lastCheck : Option Nat
  firstDie  : Nat
  waitSince : Option Nat
  warned    : FMap Nat
  deriving DecidableEq, Repr

/-- The retire queue of a domain slot as its node serves it (R301): the tags of the entries not acted on, the next try,
whether the head waits on a full pool queue, whether its RETQ item is out, and the pool record of the head that its slot's
fault keeps from its commit. -/
structure RetireSt where
  ctx     : Nat
  slot    : Nat
  tags    : List Nat
  nextTry : Nat
  full    : Bool
  told    : Bool
  row     : Option Nat
  deriving DecidableEq, Repr

/-- A frame whose rows stand in a window (R390): sequence number, stamp, first row ordinal, rows. -/
structure Placed where
  seq   : Nat
  stamp : Nat
  first : Nat
  count : Nat
  deriving DecidableEq, Repr

/-- A window registered with a window engine (R395), with what the engine knows of the rows in its ring pages. -/
structure Win where
  port   : Nat
  stream : Nat
  ctx    : Nat
  va     : Nat
  placed : List Placed
  deriving DecidableEq, Repr

/-- A frame that passed its port and waits for the window engine (R389). -/
structure FrameIn where
  ctx   : Nat
  va    : Nat
  frame : Frame
  deriving DecidableEq, Repr

/-! ## Links, host and service (spec/20_link.md, spec/21_service.md) -/

/-- The states of a fabric link (R398). -/
inductive LinkState where
  | down | training | up | degraded | fenced
  deriving DecidableEq, Repr

/-- A fabric link: state, consecutive replays of one flit, and the cycle in which it entered its state. -/
structure Link where
  st     : LinkState
  replay : Nat
  since  : Nat
  deriving DecidableEq, Repr

/-- Counters of a time port (R412). -/
structure TimePort where
  udp   : Nat
  rxok  : Nat
  nowin : Nat
  malf  : Nat
  deriving DecidableEq, Repr

/-- The command registers of a function (R408). -/
structure Func where
  cmdbase : Nat
  cmdsize : Nat
  cmdprod : Nat
  cmdcons : Nat
  deriving DecidableEq, Repr

/-- A posted write in flight (R100): stamped in order unless relaxed; a doorbell is one of 16 bytes or more to a
doorbell page. -/
structure Posted where
  func    : Nat
  ctx     : Nat
  va      : Nat
  bytes   : List Byte
  relaxed : Bool
  bell    : Bool
  deriving DecidableEq, Repr

/-- A completion of a BAR2 read, none for Unsupported Request (R408). -/
structure Reply where
  func  : Nat
  bytes : Option (List Byte)
  deriving DecidableEq, Repr

/-- What the part sends to another package. -/
inductive PodOut where
  | load (pa n : Nat)
  | store (pa : Nat) (bytes : List Byte)
  | atomic (pa op ty : Nat) (ftz : Bool) (v w : Word)
  /-- The atomic OR of a byte of a page entry (R200). -/
  | orByte (pa : Nat) (b : Byte)
  | reply (pkg : Nat) (bytes : List Byte)
  | flit (f : Flit)
  | mismatch (group : BitVec 32) (turn : Nat)
  /-- The notice of a narrow release of a line by a cluster, a probe of a cluster, and its acknowledgement (R98). -/
  | notice (pa cluster : Nat)
  /-- A promoted acquire at a scope by a cluster (R98), and the flush of a line at a scope (R214). -/
  | promote (pa scope cluster : Nat)
  | flush (pa scope : Nat)
  | probe (cluster : Nat)
  | ack (cluster : Nat)
  /-- A copy of a multicast flit for a set of packages (R401). -/
  | copies (dests : List Nat) (pa : Nat) (bytes : List Byte)
  deriving DecidableEq, Repr

/-- The virtual channels of the fabric (R399). -/
inductive Chan where
  | request | response | multicast | collective
  deriving DecidableEq, Repr

/-- A message that waits for its link (R398, R399): the source die, the destination package, its channel, and the team
whose access it carries, if any. -/
structure OutFlit where
  die   : Nat
  pkg   : Nat
  chan  : Chan
  team  : Option Nat
  body  : PodOut
  deriving DecidableEq, Repr

/-- What has left on a link: the link, the channel and the message. -/
structure Departed where
  link  : Nat
  chan  : Chan
  body  : PodOut
  deriving DecidableEq, Repr

/-- A multicast flit in the input buffer of a router die (R401): its input port, the destination packages that no branch
has taken, and what it carries to each: bytes for an address of a page. -/
structure Mcast where
  die   : Nat
  port  : Nat
  dests : List Nat
  page  : PodPage
  pa    : Nat
  bytes : List Byte
  deriving DecidableEq, Repr

/-- A function's invalidation not yet complete (R201). -/
structure Inval where
  func   : Nat
  ctx    : Nat
  va     : Nat
  len    : Nat
  deriving DecidableEq, Repr

/-- A function's carve-out change not yet committed (R374): ways in units of 32 KiB. -/
structure Carve where
  func     : Nat
  part     : Nat
  ways     : Nat
  deadline : Nat
  deriving DecidableEq, Repr

/-- A controller's firmware (R416). -/
structure Firmware where
  measure : List Byte
  version : Nat
  deriving DecidableEq, Repr

/-- A stall of an island by a recalibration (R415): from a cycle to a cycle, none while it lasts. -/
structure Stall where
  island : Nat
  since  : Nat
  lifted : Option Nat
  deriving DecidableEq, Repr

/-- Service state (R413 to R419). -/
structure Svc where
  plimit   : Nat
  power    : Nat
  ratemin  : Nat
  /-- The evaluations of the last millisecond: cycle, watts and the lowest rate set (R419). -/
  evals    : List (Nat × Nat × Nat)
  softlost : Nat
  fenced   : List Nat
  /-- Cores that a command in progress will fence once their gangs are gone (R418). -/
  closing  : List Nat
  /-- Islands whose recalibration is accepted and not over, and the stalls of islands so far (R415). -/
  recal    : List Nat
  stalls   : List Stall
  fw       : FMap Firmware
  die0     : Bool
  deriving DecidableEq, Repr

/-- The time base and the servo (R385): the correction still to be slewed in units of 2^-16 ns. -/
structure Clock where
  ns       : Nat
  frac     : Nat
  slew     : Int
  locked   : Bool
  ever     : Bool
  lastSync : Nat
  deriving DecidableEq, Repr

/-- The links and the pod. -/
structure LinkSt where
  links  : FMap Link
  podid  : Nat
  /-- Primary and backup link of die * 256 + package (R399). -/
  routes : FMap (Nat × Nat)
  /-- Messages that wait for their links, in the order in which they were sent (R398, R399). -/
  out    : List OutFlit
  mcast  : List Mcast
  /-- The die whose agent acts, where that is not the die of the pipe with the turn. -/
  acting : Option Nat
  ports  : FMap TimePort
  deriving DecidableEq, Repr

/-- The host side. -/
structure HostSt where
  funcs   : FMap Func
  /-- CTXA.BASE of function * 128 + context (R408). -/
  bases   : FMap Nat
  posted  : List Posted
  irqs    : List (Nat × Nat)
  replies : List Reply
  podOut  : List Departed
  deriving DecidableEq, Repr

/-- Queues and engines. -/
structure EngSt where
  qaux   : List QAux
  unreached : List Unreached
  rows   : List Row
  items  : List EngItem
  colls  : List CollItem
  /-- Contributions whose item this package has not accepted yet (R402). -/
  early  : List Flit
  /-- Next sequence number of engine * 128 + context (R331); unlisted: 1. -/
  seqs   : FMap Nat
  /-- Collectives begun on a group at a die (R402). -/
  turns  : List (Nat × BitVec 32 × Nat)
  deriving DecidableEq, Repr

/-- The scheduler and the contexts. -/
structure SchedSt where
  ctxs     : FMap Ctx
  parts    : List Part
  /-- Holder function of each key slot, and the keys loaded (R455). -/
  holders  : FMap Nat
  keys     : FMap (List Byte)
  launches : List Launch
  carves   : List Carve
  invals   : List Inval
  domains  : FMap Domain
  retires  : List RetireSt
  wins     : List Win
  frames   : List FrameIn
  deriving DecidableEq, Repr

/-! ## The machine -/

/-- What happens next outside the instruction stream of the pipe whose turn it is (log entry 1). -/
inductive Input where
  /-- An event of spec/opcode_table.json. -/
  | event (i : Instr)
  /-- Another pipe issues next. -/
  | turn (pipe : Nat)
  /-- A pipe issues, or chooses a clause, in the cycle in progress. -/
  | issue (pipe : Nat)
  /-- Cycles pass. -/
  | elapse (cycles : Nat)
  /-- The host writes its own memory. -/
  | hostStore (addr : Nat) (bytes : List Byte)
  /-- A core's or a cluster's translation cache, or a die's walker, drops an entry (R201). -/
  | dropTlb (agent ctx vbase : Nat)
  | dropWalk (die ctx level vpre : Nat)
  /-- A core acknowledges the epoch of a domain (R291). -/
  | epochAck (core dom : Nat)
  /-- A residue mismatch of a word-op persists after its retry (R28, R261). -/
  | residue (core wordOp addr : Nat)
  /-- A double-bit error in a store other than a core's (R383). -/
  | softError (ctx : Option Nat) (store addr gang : Nat)
  /-- A double-bit error at an offset of a core's store, or in a near buffer's copy of it (R383). -/
  | softStore (core off : Nat) (near : Bool)
  /-- An engine item reads poisoned data of the second tier at an address (R410). -/
  | poison (item addr : Nat)
  /-- A corrected single-bit error in a context's data (R382). -/
  | corrected (ctx : Nat)
  /-- A flit of a link passes its CRC (R398). -/
  | flitOk (link : Nat)
  /-- A multicast flit arrives at an input port of a router die: its destination packages and payload (R401). -/
  | mcast (die port : Nat) (dests : List Nat) (page : PodPage) (pa : Nat) (bytes : List Byte)
  /-- The k-th waiting message leaves on its link (R398, R399). -/
  | send (k : Nat)
  /-- A home slice evicts a line (R79). -/
  | evictSlice (line : Nat)
  /-- Another member returns a contribution of a collective of a group at a die as mismatched (R402). -/
  | mismatch (die : Nat) (group : BitVec 32) (turn : Nat)
  /-- The host reads bytes of a function's BAR0 (R408). -/
  | bar0Read (func off n : Nat)
  /-- A routing-table entry of a die is set: primary and backup link (R399). -/
  | route (die pkg primary backup : Nat)
  deriving DecidableEq, Repr

/-- What has happened in the cycle in progress: the place of its last request in the order of R102, R219, R239, R317 and
R375, 0 for none; the pipes that have issued; and the barrier objects and queue blocks with requests, whose tests follow at
its end (R239, R317). -/
structure Cyc where
  rank   : Nat
  pipes  : List Nat
  bars   : List Loc
  blocks : List (Option Nat × Loc)
  deriving DecidableEq, Repr

/-- The whole state. -/
structure State where
  /-- Inputs still to come, and the pipe that issues when none is left (log entry 1). -/
  agenda  : List Input
  turn    : Nat
  /-- Feeds the free values of Config (log entry 2). -/
  fresh   : Nat
  /-- Next number for gangs, launches, MMAs, word-ops, rows and items (log entry 12). -/
  ids     : Nat
  /-- Cycles since reset. -/
  now     : Nat
  cyc     : Cyc
  clk     : Clock
  teams   : FMap Team
  /-- The team whose clause each pipe issues, and the cycle it started (R113). -/
  running : FMap (Nat × Nat)
  gangs   : FMap Gang
  cores   : FMap Core
  mem     : MemSt
  sched   : SchedSt
  eng     : EngSt
  link    : LinkSt
  host    : HostSt
  svc     : Svc
  deriving DecidableEq, Repr

/-- How a step can stop. -/
inductive Fault where
  /-- Raised by a team instruction when the pipe whose turn it is issues no Ready team: no such instruction exists on
  the hardware there, so nothing is lost. Safe. -/
  | noIssuingTeam
  deriving DecidableEq, Repr

/-- An instruction without a meaning. -/
inductive Refusal where
  /-- Raised by the arm of an instruction not modelled. Safe. -/
  | notModelled (mnemonic : String)
  deriving DecidableEq, Repr

/-- The machine right after reset (INVENTORY.md gives the rule of each value). Maps list nothing: an unlisted entry has
its reset value. -/
def State.reset : State where
  agenda := []
  turn := 0
  fresh := 0
  ids := 1
  now := 0
  cyc := { rank := 0, pipes := [], bars := [], blocks := [] }
  clk := { ns := 0, frac := 0, slew := 0, locked := false, ever := false, lastSync := 0 }
  teams := []
  running := []
  gangs := []
  cores := []
  mem := { dev := [], host := [], seg := [], lines := [], slice := [], l1 := [], ways := [], narrow := [], tlb := [], walks := [], away := [],
           words := [],
           waiters := [], bwaits := [] }
  sched := { ctxs := [], parts := [], holders := [], keys := [], launches := [], carves := [], invals := [],
             domains := [], retires := [], wins := [], frames := [] }
  eng := { qaux := [], unreached := [], rows := [], items := [], colls := [], early := [], seqs := [], turns := [] }
  link := { links := [], podid := 0, routes := [], out := [], mcast := [], acting := none, ports := [] }
  host := { funcs := [], bases := [], posted := [], irqs := [], replies := [], podOut := [] }
  svc := { plimit := 4200, power := 0, ratemin := 0, evals := [], softlost := 0, fenced := [], closing := [], recal := [], stalls := [], fw := [], die0 := false }

end Sys2Proof.Machine
end

