-- ==== Sys2Proof/Machine/Phys.lean ====
section
/-! DEFINITION. Physical memory at its meeting points: home slices with key slots, host memory, other packages, and the
first-level caches of the clusters (spec/04_memory_spaces.md R75 to R80, spec/05_ordering.md R88 to R92, R98). -/

namespace Sys2Proof.Machine

/-! ## Changing one part of the state -/

/-- The state with its memory changed. -/
def State.withMem (s : State) (f : MemSt → MemSt) : State := { s with mem := f s.mem }
/-- The state with its scheduler changed. -/
def State.withSched (s : State) (f : SchedSt → SchedSt) : State := { s with sched := f s.sched }
/-- The state with its queues and engines changed. -/
def State.withEng (s : State) (f : EngSt → EngSt) : State := { s with eng := f s.eng }
/-- The state with its host side changed. -/
def State.withHost (s : State) (f : HostSt → HostSt) : State := { s with host := f s.host }
/-- The state with its links changed. -/
def State.withLink (s : State) (f : LinkSt → LinkSt) : State := { s with link := f s.link }
/-- The state with its service registers changed. -/
def State.withSvc (s : State) (f : Svc → Svc) : State := { s with svc := f s.svc }

/-- A number not used before, for a new gang, launch, item or word-op. -/
def State.newId (s : State) : Nat × State := (s.ids, { s with ids := s.ids + 1 })

/-! ## Messages to other packages (R399) -/

/-- The die whose agent acts: the one an engine or a node has set, else that of the pipe with the turn. -/
def State.srcDie (s : State) : Nat := s.link.acting.getD (s.turn / 2304)

/-- The state while an agent of a die acts. -/
def State.onDie (s : State) (d : Nat) : State := s.withLink fun x => { x with acting := some d }

/-- The agent of the pipe with the turn acts again. -/
def State.offDie (s : State) : State := s.withLink fun x => { x with acting := none }

/-- What an agent of a die does. -/
def State.byDie (s : State) (d : Nat) (f : State → State) : State :=
  (f (s.onDie d)).withLink fun x => { x with acting := s.link.acting }

/-- A message for another package joins those that wait for their links (R398, R399). -/
def State.sendOut (s : State) (pkg : Nat) (chan : Chan) (body : PodOut) : State :=
  s.withLink fun x => { x with out := x.out ++ [{ die := s.srcDie, pkg := pkg, chan := chan, team := none, body := body }] }

/-! ## The physical map (R197) -/

/-- The regions of the physical address map. -/
inductive Region where
  | local | pod (pkg : Nat) | system | reserved
  deriving DecidableEq, Repr

/-- This package's identifier, when it holds one (R399). -/
def State.pkg (s : State) : Option Nat := if s.link.podid.testBit 8 then some (s.link.podid % 256) else none

/-- A pod address that names this package is the local address (R197). -/
def State.canonPa (s : State) (pa : Nat) : Nat :=
  if pa / 2 ^ 54 == 1 && s.pkg == some (bitsOf pa 53 46) then pa % 2 ^ 46 else pa

/-- The region of a canonical physical address. -/
def regionOf (pa : Nat) : Region :=
  if pa / 2 ^ 54 == 1 then .pod (bitsOf pa 53 46)
  else if pa / 2 ^ 54 == 2 then .system
  else if pa < 2 ^ 40 then .local
  else if 2 ^ 45 ≤ pa && pa < 2 ^ 46 then .local
  else .reserved

/-- A local address is populated (R197): 128 * 10^9 bytes of each die's window, the attached second tier. -/
def populated (pa : Nat) : Bool :=
  if pa < 2 ^ 40 then pa % 2 ^ 37 < 128 * 10 ^ 9
  else 2 ^ 45 ≤ pa && pa < 2 ^ 45 + min Config.tier2Bytes (32768 * 10 ^ 9)

/-- The home slice of a line (R78). -/
def homeSlice (place : Bool) (hdie pa : Nat) : Nat :=
  if place then hdie * 36 + pa / 512 % 36 else pa / 512 % 288

/-! ## Reads and writes at the home (R80, R89) -/

/-- The key slot a line's bytes are held under, if any. -/
def State.lineSlot (s : State) (pa : Nat) : Option Nat := FMap.look s.mem.lines (pa / 512)

/-- A slot may read a line: it holds the line's slot, or the line is held under none. A reader without a slot is the
part itself. -/
def State.slotOk (s : State) (slot : Option Nat) (pa : Nat) : Bool :=
  match s.lineSlot pa, slot with
  | some k, some j => k == j
  | _, _ => true

/-- One byte read at its home (R80): a free value where the line is held under another slot. Bytes cross PCIe encrypted
(R197): a line of host memory gives what it stores only to the slot that wrote it, and what the host wrote only to a
reader without a slot. -/
def State.homeByte (s : State) (slot : Option Nat) (pa : Nat) : Byte :=
  match regionOf pa with
  | .pod _ => Config.podByte s.fresh pa
  | .system => if s.lineSlot pa == slot then Memory.read s.mem.host (pa % 2 ^ 54) else Config.garble s.fresh pa
  | _ => if s.slotOk slot pa then Memory.read s.mem.dev pa else Config.garble s.fresh pa

/-- The n bytes from a physical address, read at their homes. -/
def State.homeRead (s : State) (slot : Option Nat) (pa n : Nat) : List Byte :=
  (List.range n).map fun i => s.homeByte slot (pa + i)

/-- A raw byte stored in local or host memory. -/
def State.rawWrite (s : State) (pa : Nat) (b : Byte) : State :=
  match regionOf pa with
  | .system => s.withMem fun m => { m with host := Memory.write m.host (pa % 2 ^ 54) b }
  | _ => s.withMem fun m => { m with dev := Memory.write m.dev pa b }

/-- A line held under another slot loses its bytes to the new slot: they become free values (R80, log entry 6). A line of
device memory held under none keeps them. -/
def State.rekey (s : State) (slot : Option Nat) (pa : Nat) : State :=
  let line := pa / 512
  let mark (s : State) := s.withMem fun m => { m with lines := match slot with
    | some k => FMap.put m.lines line k
    | none => FMap.del m.lines line }
  if s.lineSlot pa == slot then s
  else if s.lineSlot pa == none && regionOf pa != .system then mark s
  else mark ((List.range 512).foldl (fun t i => t.rawWrite (line * 512 + i) (Config.garble s.fresh (line * 512 + i))) s)

/-- One byte written at its home. -/
def State.homeStore (s : State) (slot : Option Nat) (pa : Nat) (b : Byte) : State :=
  match regionOf pa with
  | .pod p => s.sendOut p .request (.store pa [b])
  | .system => (s.rekey slot pa).rawWrite pa b
  | _ =>
    match slot with
    | none => s.rawWrite pa b
    | some k => (s.rekey (some k) pa).rawWrite pa b

/-- Bytes written at their homes, lowest address first. -/
def State.homeWrite (s : State) (slot : Option Nat) (pa : Nat) : List Byte → State
  | [] => s
  | b :: bs => (s.homeStore slot pa b).homeWrite slot (pa + 1) bs

/-- An access with a retention hint meets its home slice (R79): a line it allocates or hits gets the hint and is the most
recently used; a bypass access allocates nothing and leaves a line's hint, and a line without a hint is not listed (log entry
17). Only lines of this package's device memory are held. -/
def State.touchLine (s : State) (slice hint pa : Nat) : State :=
  let line := pa / 512
  let rest := s.mem.slice.filter (·.line != line)
  let put (h : Nat) : State := s.withMem fun m => { m with slice := { line := line, slice := slice, hint := h } :: rest }
  if regionOf pa != .local then s
  else
    match s.mem.slice.find? (·.line == line) with
    | some x => put (if hint == 3 then x.hint else hint)
    | none => if hint == 3 then s else put hint

/-- A line leaves its home slice. -/
def State.dropLine (s : State) (line : Nat) : State :=
  s.withMem fun m => { m with slice := m.slice.filter (·.line != line) }

/-- The slice lines that share a set with a line, most recently used first. The spec gives no set of a line: it is a free
value (log entry 17). -/
def State.sliceSet (s : State) (x : SliceLine) : List SliceLine :=
  s.mem.slice.filter fun y => y.slice == x.slice && Config.sliceSet y.line == Config.sliceSet x.line

/-- The line of a set that a slice evicts next (R79): the least recently used of the lowest hint class. -/
def sliceVictim (l : List SliceLine) : Option SliceLine :=
  let lru (h : Nat) : Option SliceLine := (l.filter (·.hint == h)).getLast?
  match lru 0, lru 1 with
  | some x, _ => some x
  | none, some x => some x
  | none, none => lru 2

/-- A home slice evicts a line, where it is the one R79 names. -/
def State.evictSlice (s : State) (line : Nat) : State :=
  match s.mem.slice.find? (·.line == line) with
  | none => s
  | some x => if sliceVictim (s.sliceSet x) == some x then s.dropLine line else s

/-! ## The first-level cache (R75 to R77, R90 to R92) -/

/-- The lines a cluster's L1 holds, most recently used first. -/
def State.l1Lines (s : State) (cl : Nat) : List L1Line := FMap.lookD s.mem.l1 cl []

/-- The cluster's L1 with other lines. -/
def State.setL1 (s : State) (cl : Nat) (ls : List L1Line) : State :=
  s.withMem fun m => { m with l1 := FMap.putD m.l1 cl ls [] }

/-- A line of the cluster's L1. -/
def State.l1Look (s : State) (cl line : Nat) : Option L1Line := (s.l1Lines cl).find? (·.line == line)

/-- Byte i of a cached line. -/
def L1Line.byte (l : L1Line) (i : Nat) : Byte := l.data.extractLsb' (8 * i) 8

/-- The cached line with byte i replaced. -/
def L1Line.setByte (l : L1Line) (i : Nat) (b : Byte) : L1Line :=
  { l with data := (l.data &&& ~~~((255 : BitVec 4096) <<< (8 * i))) ||| ((b.setWidth 4096) <<< (8 * i)) }

/-- The bits of the bytes from i, n of them. -/
def byteMask (i n : Nat) : BitVec 512 := BitVec.ofNat 512 ((2 ^ n - 1) * 2 ^ i)

/-- The dirty bytes of a line written to their home under the line's slot (R76), with the hint of its last access (R79). -/
def State.writeBackBytes (s : State) (l : L1Line) : State :=
  if l.dirty == 0 then s
  else
    ((List.range 512).foldl
      (fun t i => if l.dirty.getLsbD i then t.homeStore (some l.slot) (l.line * 512 + i) (l.byte i) else t) s).touchLine
        l.home l.hint (l.line * 512)

/-- A line leaves the L1; its dirty bytes are written back first. -/
def State.l1Evict (s : State) (cl line : Nat) : State :=
  match s.l1Look cl line with
  | none => s
  | some l => (s.writeBackBytes l).setL1 cl ((s.l1Lines cl).filter (·.line != line))

/-- The dirty bytes of one line are written back; the line stays. -/
def State.l1Clean (s : State) (cl line : Nat) : State :=
  match s.l1Look cl line with
  | none => s
  | some l =>
    (s.writeBackBytes l).setL1 cl ((s.l1Lines cl).map fun k => if k.line == line then { k with dirty := 0 } else k)

/-- A line's clean sectors become invalid; a line without dirty bytes is dropped (R97, R210). -/
def State.l1Invalidate (s : State) (cl line : Nat) : State :=
  s.setL1 cl (((s.l1Lines cl).map fun k => if k.line == line then { k with valid := 0 } else k).filter
    fun k => k.line != line || k.dirty != 0)

/-- Every dirty byte of the cluster's L1 is written back (R91 step 1). -/
def State.writeBackAll (s : State) (cl : Nat) : State :=
  ((s.l1Lines cl).foldl (fun t l => t.writeBackBytes l) s).setL1 cl
    ((s.l1Lines cl).map fun k => { k with dirty := 0 })

/-- Every clean sector of the cluster's L1 becomes invalid (R92). -/
def State.invalidateAll (s : State) (cl : Nat) : State :=
  s.setL1 cl (((s.l1Lines cl).map fun k => { k with valid := 0 }).filter fun k => k.dirty != 0)

/-- The number of ways of a cluster's cores (R59, R75). -/
def State.waysOf (s : State) (cl : Nat) : Nat := FMap.lookD s.mem.ways cl 4

/-- The home core and set of a line (R75): PA[11:9] and PA[17:12]. -/
def l1Set (line : Nat) : Nat := line % 2 ^ 9

/-- The ways of a cluster's cores that take new lines: a pending carve-out change blocks the ones it removes (R374). -/
def State.freeWays (s : State) (cl : Nat) : Nat :=
  s.sched.carves.foldl (fun m x =>
    if (((s.sched.parts.find? (·.num == x.part)).map (·.clusters)).getD []).contains cl then min m x.ways else m) (s.waysOf cl)

/-- The least recently used line of a set whose ways are all taken. -/
def State.l1Victim (s : State) (cl line : Nat) : Option Nat :=
  let same := (s.l1Lines cl).filter fun k => l1Set k.line == l1Set line
  if same.length < s.freeWays cl then none else same.getLast?.map (·.line)

/-- What an access brings from its page (R76, R78 to R80): key slot, grain in bytes, home slice and retention hint. -/
structure Page where
  slot  : Nat
  grain : Nat
  home  : Nat
  hint  : Nat
  deriving DecidableEq, Repr

/-- The line is in the cluster's L1, moved to the front with the access's hint; a line held under another slot leaves first
(R80), a full set gives up its least recently used line. -/
def State.l1Allocate (s : State) (cl line : Nat) (g : Page) : State :=
  let s := match s.l1Look cl line with
    | some l => if l.slot == g.slot then s else s.l1Evict cl line
    | none => s
  match s.l1Look cl line with
  | some l => s.setL1 cl ({ l with hint := g.hint } :: (s.l1Lines cl).filter (·.line != line))
  | none =>
    let s := match s.l1Victim cl line with
      | some v => s.l1Evict cl v
      | none => s
    s.setL1 cl ({ line := line, slot := g.slot, grain := g.grain, home := g.home, hint := g.hint, valid := 0, dirty := 0,
                  data := 0 } :: s.l1Lines cl)

/-- The sectors of the bytes from i, n of them. -/
def sectorMask (i n : Nat) : BitVec 16 :=
  BitVec.ofNat 16 ((2 ^ ((i + n - 1) / 32 + 1 - i / 32) - 1) * 2 ^ (i / 32))

/-- One aligned grain of a line is fetched from its home; no dirty byte is overwritten (R76). -/
def State.fetchGrain (s : State) (l : L1Line) (g : Nat) : L1Line :=
  let l' := (List.range l.grain).foldl
    (fun k j => if k.dirty.getLsbD (g + j) then k
      else k.setByte (g + j) (s.homeByte (some l.slot) (l.line * 512 + g + j))) l
  { l' with valid := l'.valid ||| sectorMask g l.grain }

/-- The aligned grains that hold the n bytes from i: their first bytes. -/
def grainsOf (grain i n : Nat) : List Nat :=
  (List.range ((i + n - 1) / grain + 1 - i / grain)).map fun k => (i / grain + k) * grain

/-- The grains that hold n bytes from i and are not valid are fetched from their home; with `all`, the valid ones too. -/
def State.l1Fill (s : State) (cl line i n : Nat) (all : Bool) : State :=
  match s.l1Look cl line with
  | none => s
  | some l =>
    let need (g : Nat) : Bool := all || l.valid &&& sectorMask g l.grain != sectorMask g l.grain
    let l' := (grainsOf l.grain i n).foldl (fun k g => if need g then s.fetchGrain k g else k) l
    s.setL1 cl ((s.l1Lines cl).map fun k => if k.line == line then l' else k)

/-- How a load is served (R89, R97, R208, R210). -/
inductive Serve where
  /-- By the L1 when it holds the bytes. -/
  | cached
  /-- By the slice, dirty bytes merged; the fill updates the L1 (tainted address). -/
  | refill
  /-- By the slice, dirty bytes merged; nothing is allocated and the line's clean sectors become invalid. -/
  | slice
  deriving DecidableEq, Repr

/-- The bytes of the slice with the cluster's dirty bytes merged in. -/
def State.mergedRead (s : State) (cl slot pa n : Nat) : List Byte :=
  (List.range n).map fun j =>
    match s.l1Look cl ((pa + j) / 512) with
    | some l => if l.slot == slot && l.dirty.getLsbD ((pa + j) % 512) then l.byte ((pa + j) % 512)
                else s.homeByte (some slot) (pa + j)
    | none => s.homeByte (some slot) (pa + j)

/-- A load of n bytes within one line through the cluster's L1. -/
def State.l1Load (s : State) (cl : Nat) (g : Page) (how : Serve) (pa n : Nat) : List Byte × State :=
  let line := pa / 512
  let i := pa % 512
  -- a line under another slot leaves before the access is served (R80)
  let s := match s.l1Look cl line with
    | some l => if l.slot == g.slot then s else s.l1Evict cl line
    | none => s
  match how with
  | .slice => (s.mergedRead cl g.slot pa n, s.l1Invalidate cl line)
  | _ =>
    if s.freeWays cl == 0 && (s.l1Look cl line).isNone then (s.homeRead (some g.slot) pa n, s)
    else
      let s := (s.l1Allocate cl line g).l1Fill cl line i n (how == .refill)
      match s.l1Look cl line with
      | some l => ((List.range n).map fun j => l.byte (i + j), s)
      | none => (s.homeRead (some g.slot) pa n, s)

/-- A store of bytes within one line into the cluster's L1: allocated without a fill (R76). -/
def State.l1Store (s : State) (cl : Nat) (g : Page) (pa : Nat) (bs : List Byte) : State :=
  if s.freeWays cl == 0 && (s.l1Look cl (pa / 512)).isNone then (s.homeWrite (some g.slot) pa bs).touchLine g.home g.hint pa
  else
    let s := s.l1Allocate cl (pa / 512) g
    let put (k : L1Line) : L1Line :=
      let k := { k with dirty := k.dirty ||| byteMask (pa % 512) bs.length }
      (bs.foldl (fun (x : Nat × L1Line) b => (x.1 + 1, x.2.setByte (pa % 512 + x.1) b)) (0, k)).2
    s.setL1 cl ((s.l1Lines cl).map fun k => if k.line == pa / 512 then put k else k)

/-! ## Narrow releases (R98) -/

/-- The number of a cluster of a package in a narrow-releaser entry; none is this package. -/
def releaser (pkg : Option Nat) (cluster : Nat) : Nat :=
  match pkg with
  | none => cluster
  | some p => (p + 1) * 1024 + cluster

/-- The clusters of this package among releasers, in ascending order (R102). -/
def localReleasers (cs : List Nat) : List Nat := (List.range Config.clusters).filter cs.contains

/-- Clusters are probed: those of this package write back, the others get a probe (R98). -/
def State.probeAll (s : State) (cs : List Nat) : State :=
  let s := (localReleasers cs).foldl (fun t c => t.writeBackAll c) s
  (cs.filter (1024 ≤ ·)).foldl (fun t c => t.sendOut (c / 1024 - 1) .request (.probe (c % 1024))) s

/-- A notice of a narrow release of a line by a cluster reaches the line's home slice. A further cluster leaves an entry's
age as it is (log entry 50). -/
def State.narrowNotice (s : State) (slice line cl : Nat) : State :=
  let es := s.mem.narrow
  match es.find? (fun e => e.slice == slice && e.line == line) with
  | some e =>
    if e.clusters.contains cl then s
    else if e.clusters.length < 4 then
      s.withMem fun m => { m with narrow := es.map fun x =>
        if x.slice == slice && x.line == line then { x with clusters := x.clusters ++ [cl] } else x }
    else
      (s.probeAll e.clusters).withMem fun m => { m with narrow := es.filter (fun x => !(x.slice == slice && x.line == line)) ++
        [{ slice := slice, line := line, clusters := [cl] }] }
  | none =>
    let own := es.filter (·.slice == slice)
    let (s, es) :=
      if own.length < 2048 then (s, es)
      else match own.head? with
        | none => (s, es)
        | some old => (s.probeAll old.clusters, es.filter fun x => !(x.slice == slice && x.line == old.line))
    s.withMem fun m => { m with narrow := es ++ [{ slice := slice, line := line, clusters := [cl] }] }

/-- The entries that still name a cluster: an entry that names none has left the table (log entry 50). -/
def dropEmpty (l : List Narrow) : List Narrow := l.filter (·.clusters != [])

/-- A releaser lies within the scope instance of an agent: its die, its package, or the pod. -/
def inScope (scope who c : Nat) : Bool :=
  5 < scope || (who / 1024 == c / 1024 && (scope == 5 || who % 1024 / 72 == c % 1024 / 72))

/-- The probes of a promoted acquire by a cluster: the releasers of the line's entry within its scope instance write back
and leave the entry (R98 steps 1 to 3). -/
def State.promote (s : State) (slice line scope who : Nat) : State :=
  match s.mem.narrow.find? (fun e => e.slice == slice && e.line == line) with
  | none => s
  | some e =>
    (s.probeAll (e.clusters.filter (inScope scope who))).withMem fun m => { m with narrow := dropEmpty (m.narrow.map fun x =>
      if x.slice == slice && x.line == line then { x with clusters := x.clusters.filter fun c => !inScope scope who c } else x) }

/-- A cluster that a home slice probes writes back every dirty byte of its L1 and acknowledges (R98 step 2): the oldest entry
of this package that names it, and the homes in other packages, no longer do. -/
def State.probed (s : State) (cl : Nat) : State :=
  let s := s.writeBackAll cl
  let rec leave : List Narrow → List Narrow
    | [] => []
    | e :: r => if e.clusters.contains cl then { e with clusters := e.clusters.filter (· != cl) } :: r else e :: leave r
  let remote := (s.mem.away.filter (·.2 == cl)).map fun x => bitsOf (x.1 * 512) 53 46
  let s := remote.eraseDups.foldl (fun t p => t.sendOut p .response (.ack cl)) s
  s.withMem fun m => { m with narrow := dropEmpty (leave m.narrow), away := m.away.filter (·.2 != cl) }

end Sys2Proof.Machine
end

