-- ==== Sys2Proof/Machine/Ops.lean ====
section
/-! DEFINITION. The shared operations: teams, gangs and cores; places of memory; the error record; TAKING AN ERROR OR A
FAULT (spec/17_group.md R355 to R358) as one operation, and the return from it; issuing and retiring an instruction. -/

namespace Sys2Proof.Machine

/-! ## Error codes (R355) -/

namespace Code
def illegal : Nat := 1
def format : Nat := 2
def regbound : Nat := 3
def unwritten : Nat := 4
def align : Nat := 5
def access : Nat := 6
def key : Nat := 7
def rsecdepth : Nat := 8
def rsecexit : Nat := 9
def arith : Nat := 10
def barrier : Nat := 11
def queue : Nat := 12
def hang : Nat := 13
end Code

/-- A translation fault as the walk reports it (R202, R204): the address, the kind, the access, the level and the
number of lanes. -/
structure TFault where
  va     : Nat
  kind   : Nat
  access : Nat
  level  : Nat
  lanes  : Nat
  deriving DecidableEq, Repr

/-- Why an instruction does not complete. -/
inductive Trap where
  /-- A synchronous error, with the translation fault that raised it (R356). -/
  | err (code : Nat) (f : Option TFault)
  /-- A replayable fault (R358). -/
  | park (f : TFault)
  /-- The instruction waits at issue: for a flag count, the scoreboard or a full queue (R113 to R115). -/
  | stall
  deriving DecidableEq, Repr

/-- Raise an error code. -/
def raise {α : Type} (code : Nat) : Except Trap α := .error (.err code none)

/-- Raise an error code unless a condition holds. -/
def require (b : Bool) (code : Nat) : Except Trap Unit := if b then .ok () else raise code

/-! ## Teams, gangs, cores -/

/-- The key of a team: gang, group and index. -/
def Team.id (t : Team) : Nat := t.gang * 256 + t.group * 16 + t.index

/-- The team with a key. -/
def State.team (s : State) (t : Nat) : Option Team := FMap.look s.teams t

/-- The state with a team replaced. -/
def State.setTeam (s : State) (t : Team) : State := { s with teams := FMap.put s.teams t.id t }

/-- The state with a team changed, where it exists. -/
def State.modTeam (s : State) (t : Nat) (f : Team → Team) : State := { s with teams := FMap.modify s.teams t f }

/-- The gang with a handle. -/
def State.gang (s : State) (g : Nat) : Option Gang := FMap.look s.gangs g

/-- The state with a gang changed. -/
def State.modGang (s : State) (g : Nat) (f : Gang → Gang) : State := { s with gangs := FMap.modify s.gangs g f }

/-- Package core number of a team (R18). -/
def Team.core (t : Team) : Nat := t.pipe / 4

/-- Package cluster number of a team. -/
def Team.cluster (t : Team) : Nat := t.pipe / 32

/-- Die of a team. -/
def Team.die (t : Team) : Nat := t.pipe / 32 / 72

/-- A core as it is after reset: a full budget (R264). -/
def Core.fresh : Core :=
  { level := 16383 * 16, rate := 255, stalls := 0, queue := [], sweep := [], pass := [], near := [], hq := [], hrun := none, hstop := none }

/-- A core. -/
def State.core (s : State) (c : Nat) : Core := FMap.lookD s.cores c Core.fresh

/-- The state with a core changed. -/
def State.modCore (s : State) (c : Nat) (f : Core → Core) : State := { s with cores := FMap.put s.cores c (f (s.core c)) }

/-- The teams of a gang, in ascending group and index. -/
def State.teamsOf (s : State) (g : Nat) : List Team := (s.teams.map (·.2)).filter (·.gang == g)

/-- The teams of a group. -/
def State.teamsOfGroup (s : State) (g i : Nat) : List Team := (s.teamsOf g).filter (·.group == i)

/-- A context record of a free context. -/
def Ctx.free : Ctx :=
  { st := .free, switching := false, key := 0, func := 0, wdog := 0, root := 0, keyshr := 0, handler := 0, sysq := 0, errec := 0, save := 0,
    saveSize := 0, errcap := 6, segs := [], doms := [], ticks := [] }

/-- A context. -/
def State.ctx (s : State) (c : Nat) : Ctx := FMap.lookD s.sched.ctxs c Ctx.free

/-- The state with a context changed. -/
def State.modCtx (s : State) (c : Nat) (f : Ctx → Ctx) : State :=
  s.withSched fun d => { d with ctxs := FMap.put d.ctxs c (f (FMap.lookD d.ctxs c Ctx.free)) }

/-- The gang of a team. -/
def State.gangOf (s : State) (t : Team) : Option Gang := s.gang t.gang

/-- The context of a team. -/
def State.ctxOf (s : State) (t : Team) : Nat := ((s.gangOf t).map (·.src.ctx)).getD 0

/-- The code of a team state (R166). -/
def TeamState.code : TeamState → Nat
  | .ready => 0
  | .waiting _ => 1
  | .sleeping _ => 2
  | .growing _ _ => 3
  | .parked _ => 4
  | .halted => 5
  | .saved => 6
  | .ended => 7

/-- The team is Ready. -/
def Team.isReady (t : Team) : Bool := t.st == .ready

/-! ## Places of memory -/

/-- The bytes of a group's scratchpad changed. -/
def Gang.modGroup (g : Gang) (i : Nat) (f : GroupSt → GroupSt) : Gang :=
  { g with groups := g.groups.zipIdx.map fun (x, j) => if j == i then f x else x }

/-- The share of the cluster memory that each group of a gang holds (R60, R71). -/
def Gang.share (g : Gang) : Nat := roundUp ((g.src.hdr.cluster + g.src.hdr.groups - 1) / g.src.hdr.groups) 4096

/-- The group that holds a byte of a gang's cluster memory, and the byte of its share (R71). -/
def Gang.shareAt (g : Gang) (o : Nat) : Nat × Nat := (o / g.share, o % g.share)

/-- The core that holds a byte of a window and serves every access and atomic to it (R71, R85); chip scratchpad is a
slice's. -/
def State.holder (s : State) : Loc → Option Nat
  | .scratch g i _ => ((s.gang g).bind (·.groups[i]?)).map (·.core)
  | .cluster g o => (s.gang g).bind fun x => (x.groups[(x.shareAt o).1]?).map (·.core)
  | _ => none

/-- One byte of a place, as its meeting point holds it. -/
def State.locByte (s : State) (slot : Option Nat) : Loc → Byte
  | .dev pa => s.homeByte slot pa
  | .seg a => Memory.read s.mem.seg a
  | .scratch g i o => (((s.gang g).bind (·.groups[i]?)).map fun x => Memory.read x.bytes o).getD 0
  | .cluster g o => ((s.gang g).bind fun x => (x.groups[(x.shareAt o).1]?).map fun y => Memory.read y.share (x.shareAt o).2).getD 0

/-- The place n bytes on. -/
def Loc.add : Loc → Nat → Loc
  | .dev pa, n => .dev (pa + n)
  | .seg a, n => .seg (a + n)
  | .scratch g i o, n => .scratch g i (o + n)
  | .cluster g o, n => .cluster g (o + n)

/-- The n bytes of a place. -/
def State.locRead (s : State) (slot : Option Nat) (l : Loc) (n : Nat) : List Byte :=
  (List.range n).map fun i => s.locByte slot (l.add i)

/-- The little-endian value of the n bytes of a place. -/
def State.locNat (s : State) (slot : Option Nat) (l : Loc) (n : Nat) : Nat := leNat (s.locRead slot l n)

/-- One byte stored at a place; a window byte sets the valid bit of its word and zeroes the rest of an invalid word
(R81). -/
def storeValid (bytes : Memory) (valid : Nat) (o : Nat) (b : Byte) : Memory × Nat :=
  let w := o / 4
  let bytes := if valid.testBit w then bytes
    else (List.range 4).foldl (fun m i => Memory.write m (w * 4 + i) 0) bytes
  (Memory.write bytes o b, if valid.testBit w then valid else valid + 2 ^ w)

/-- One byte stored at a place. -/
def State.locStore (s : State) (slot : Option Nat) (l : Loc) (b : Byte) : State :=
  match l with
  | .dev pa => s.homeStore slot pa b
  | .seg a => s.withMem fun m => { m with seg := Memory.write m.seg a b }
  | .scratch g i o => s.modGang g fun x => x.modGroup i fun y =>
      { y with bytes := (storeValid y.bytes y.valid o b).1, valid := (storeValid y.bytes y.valid o b).2 }
  | .cluster g o => s.modGang g fun x => x.modGroup (x.shareAt o).1 fun y =>
      { y with share := (storeValid y.share y.svalid (x.shareAt o).2 b).1
               svalid := (storeValid y.share y.svalid (x.shareAt o).2 b).2 }

/-- Bytes stored at a place, lowest first. -/
def State.locWrite (s : State) (slot : Option Nat) (l : Loc) : List Byte → State
  | [] => s
  | b :: bs => (s.locStore slot l b).locWrite slot (l.add 1) bs

/-- The word of a byte is valid; device memory and chip scratchpad have no valid bits (R81). -/
def State.locValid (s : State) : Loc → Bool
  | .dev _ => true
  | .seg _ => true
  | .scratch g i o => (((s.gang g).bind (·.groups[i]?)).map fun x => x.valid.testBit (o / 4)).getD false
  | .cluster g o => ((s.gang g).bind fun x => (x.groups[(x.shareAt o).1]?).map fun y => y.svalid.testBit ((x.shareAt o).2 / 4)).getD false

/-! ## Interrupts and the error record (R382, R454) -/

/-- An MSI-X vector of a function is signalled (R408). -/
def State.interrupt (s : State) (func vec : Nat) : State := s.withHost fun h => { h with irqs := h.irqs ++ [(func, vec)] }

/-- The entries an item of p payload bytes takes (R382). -/
def itemEntries (p : Nat) : Nat := if p ≤ 48 then 1 else 1 + (p - 48 + 63) / 64

/-- A list of bytes padded with zeros to n. -/
def padTo (n : Nat) (l : List Byte) : List Byte := l ++ List.replicate (n - l.length) 0

/-- The bytes of an item: its header, the payload, zeros (R382, R454). -/
def itemBytes (kind code core ns : Nat) (payload : List Byte) : List Byte :=
  let n := itemEntries payload.length
  leBytes 8 (kind + n * 2 ^ 8 + code % 2 ^ 16 * 2 ^ 16 + core % 2 ^ 32 * 2 ^ 32) ++ leBytes 8 ns ++ padTo (n * 64 - 16) payload

/-- The core field of an item that concerns no team. -/
def noCore : Nat := 0xFFFFFFFF

/-- One entry of a ring written; the ring continues at its start. -/
def State.ringWrite (s : State) (key base cap : Nat) (i : Nat) : List Byte → Nat → State
  | _, 0 => s
  | bs, n + 1 => (s.homeWrite (some key) (base + 64 + 64 * (i % cap)) (bs.take 64)).ringWrite key base cap (i + 1) (bs.drop 64) n

/-- An item is appended to a context's error record, whole or not at all (R382). -/
def State.errItem (s : State) (c kind code core : Nat) (payload : List Byte) : State :=
  let x := s.ctx c
  if x.st == .free then s
  else
    let n := itemEntries payload.length
    let cap := 2 ^ x.errcap
    let prod := leNat (s.homeRead (some x.key) x.errec 8)
    let cons := leNat (s.homeRead (some x.key) (x.errec + 8) 8)
    let lost := leNat (s.homeRead (some x.key) (x.errec + 16) 4)
    if cons + cap < prod + n then s.homeWrite (some x.key) (x.errec + 16) (leBytes 4 (min (lost + 1) (2 ^ 32 - 1)))
    else
      let s' := s.ringWrite x.key x.errec cap prod (itemBytes kind code core s.clk.ns payload) n
      let s' := s'.homeWrite (some x.key) x.errec (leBytes 8 (prod + n))
      if prod == cons then s'.interrupt x.func 1 else s'

/-- The team slot as a field of 5 bits: the handler's slot, the 33rd of its core, reads 0 (log entry 51). -/
def slotField (slot : Nat) : Nat := slot % 32

/-- The 32 bytes of a translation-fault record (R204). -/
def XRec.bytes (x : XRec) : List Byte :=
  leBytes 8 x.va ++ leBytes 8 (x.kind + x.access * 2 ^ 4 + x.level * 2 ^ 6 + x.lanes * 2 ^ 16) ++
    leBytes 8 (x.core + slotField x.slot * 2 ^ 32 + x.group * 2 ^ 40) ++ leBytes 8 x.pc

/-- The record of a fault that a team meets (R204). -/
def Team.xrecOf (t : Team) (f : TFault) : XRec :=
  { va := f.va, kind := f.kind, access := f.access, level := f.level, lanes := f.lanes, core := t.core, slot := t.slot,
    group := t.group, pc := t.pc }

/-- The record of a fault that concerns no team (R204). -/
def TFault.noTeam (f : TFault) : XRec :=
  { va := f.va, kind := f.kind, access := f.access, level := f.level, lanes := 1, core := noCore, slot := 0, group := 0, pc := 0 }

/-- An XLATE item (R454). -/
def State.errXlate (s : State) (c : Nat) (x : XRec) : State := s.errItem c 0 x.kind x.core x.bytes

/-- A SOFT item in the owner's record, or in context 0's; lost while that is not live (R383). The core is that of the team
concerned, or `noCore` (R454). -/
def State.softItem (s : State) (ctx : Option Nat) (store addr gang core : Nat) : State :=
  let c := ctx.getD 0
  if (s.ctx c).st == .free then
    (if ctx.isNone then s.withSvc fun v => { v with softlost := min (v.softlost + 1) (2 ^ 32 - 1) } else s)
  else s.errItem c 5 0 core (leBytes 8 (store % 8) ++ leBytes 8 addr ++ leBytes 8 gang)

/-- ERR.CORR rises by one, saturating (R382, R383). -/
def State.countCorrected (s : State) (c : Nat) : State :=
  let x := s.ctx c
  if x.st == .free then s
  else
    let n := leNat (s.homeRead (some x.key) (x.errec + 20) 4)
    s.homeWrite (some x.key) (x.errec + 20) (leBytes 4 (min (n + 1) (2 ^ 32 - 1)))

/-! ## Handler events (R362, R363) -/

/-- The team entry of an event record (R363). -/
def Team.eventBytes (t : Team) : List Byte :=
  leBytes 8 (t.pc % 2 ^ 32 + t.skid * 2 ^ 32 + t.st.code * 2 ^ 36 + t.err * 2 ^ 40)

/-- The 256-byte event record (R363). -/
def State.eventRecord (s : State) (g : Gang) (group kind code : Nat) (x : Option XRec) : List Byte :=
  let core := ((g.groups[group]?).map (·.core)).getD 0
  let ts := s.teamsOfGroup g.handle group
  let ent (i : Nat) : List Byte := match ts.find? (·.index == i) with
    | some t => t.eventBytes
    | none => leBytes 8 0
  leBytes 8 (kind + code * 2 ^ 4 + group * 2 ^ 16 + g.src.hdr.teams * 2 ^ 19 + core * 2 ^ 32) ++ leBytes 8 g.handle ++
    leBytes 8 g.src.lrec ++ leBytes 8 g.src.ordinal ++ (match x with | some r => r.bytes | none => List.replicate 32 0) ++
    (List.range 16).flatMap ent ++ List.replicate 64 0

/-- An event is queued at the handler slot of the group's core (R362). -/
def State.pushEvent (s : State) (g : Gang) (group kind code : Nat) (x : Option XRec) : State :=
  let core := ((g.groups[group]?).map (·.core)).getD 0
  s.modCore core fun c =>
    { c with hq := c.hq ++ [{ ctx := g.src.ctx, gang := g.handle, group := group, kind := kind, record := s.eventRecord g group kind code x }] }

/-! ## Waiting on an island (R415) -/

/-- The cycles from one to another that no interval of a list covers; the intervals stand in the order of their starts. -/
def uncovered (to' : Nat) : Nat → List (Nat × Nat) → Nat
  | since, [] => to' - since
  | since, (a, b) :: r => (min a to' - since) + uncovered to' (max since b) r

/-- The cycles since one that count against a limit of delivery: those in which none of the islands that the request waits on was
stalled by a recalibration (R415). -/
def State.waited (s : State) (on : List Nat) (since : Nat) : Nat :=
  uncovered s.now since ((s.svc.stalls.filter fun x => on.contains x.island).map fun x => (x.since, x.lifted.getD s.now))

/-- An island is stalled. -/
def State.stalled (s : State) (island : Nat) : Bool := s.svc.stalls.any fun x => x.island == island && x.lifted.isNone

/-- The islands that an access from a die to a line's home slice passes (R26, R414): the slice's router, its die's memory
interfaces and the routers of both dies. -/
def sliceIslands (die slice : Nat) : List Nat :=
  [slice / 36 * 64 + 36 + slice % 36 / 2, slice / 36 * 64 + 62, slice / 36 * 64 + 63, die * 64 + 63]

/-! ## Withdrawing a wait (R185, R229, R247, R310) -/

/-- The fields of a barrier object are read and written as 32 bytes; the waiter count is at offset 14 (R234). -/
def barWaitersOff : Nat := 14

/-- Waiters leave a word; without its last waiter a word is Hot, and a Spilled one Cold (R220). -/
def MemSt.dropWaiters (m : MemSt) (word : Loc) (gone : Waiter → Bool) : MemSt :=
  let ws := m.waiters.filter fun x => !(x.word == word && gone x)
  let free (w : ThimbleWord) : Option ThimbleWord :=
    if w.word != word then some w else if w.st == .spilled then none else some { w with st := .hot }
  { m with waiters := ws, words := if ws.any (·.word == word) then m.words else m.words.filterMap free }

/-- A team leaves the waiters of a barrier object: the count falls by one, in its 16 bits (R245; log entry 33). -/
def State.barLeaves (s : State) (t : Nat) (obj : Loc) : State :=
  let n := s.locNat none (obj.add barWaitersOff) 2
  (s.locWrite none (obj.add barWaitersOff) (leBytes 2 ((n + 2 ^ 16 - 1) % 2 ^ 16))).withMem fun m =>
    { m with bwaits := m.bwaits.filter fun x => !(x.obj == obj && x.team == t) }

/-- The wait of a team is withdrawn: the channel returns to Empty, the registration leaves the word, the barrier counts
one waiter less. -/
def State.withdrawWait (s : State) (t : Nat) : Wait → State
  | .xcl chan _ _ _ _ _ => s.locWrite none chan (leBytes 8 0)
  | .waita w _ _ _ _ _ _ _ _ =>
    s.withMem fun m => m.dropWaiters w fun x => x.team == t
  | .bwait obj _ _ _ => s.barLeaves t obj
  | .gpwait .. => s
  | .flags _ => s

/-! ## The end of a wait (R166) -/

/-- The gang's watchdog restarts (R367). -/
def State.touch (s : State) (g : Nat) : State := s.modGang g fun x => { x with idle := 0 }

/-- The team's clause ends; a yield hint places it behind the others (R116). -/
def Team.endClause (now : Nat) (u : Team) : Team :=
  { u with clause := none, lastIssue := if (u.clause.map (·.yield)).getD false then 2 * now + 1 else u.lastIssue }

/-- The team's program counter moves to an offset where no clause is in progress. -/
def Team.goto (pc now : Nat) (u : Team) : Team := { u.endClause now with pc := pc, afresh := false }

/-- The program counter moves past the instruction; the words not yet issued follow it. -/
def Team.advance (now : Nat) (u : Team) : Team :=
  let rest := (u.clause.map (·.words.drop 1)).getD []
  if rest.isEmpty then { u.endClause now with pc := u.pc + 8, afresh := false }
  else { u with pc := u.pc + 8, clause := u.clause.map fun c => { c with words := rest }, afresh := false }

/-- A wait of a team ends: its result is written and it is Ready at the next clause (R166). -/
def State.endWait (s : State) (t : Nat) (f : Team → Team) : State :=
  match s.team t with
  | none => s
  | some u => (s.modTeam t fun v => { (f v).advance s.now with st := .ready }).touch u.gang

/-- What a WAITA completes with: the status in its register (R228), and an acquire of a scope (R229). -/
def State.completeWait (s : State) (t : Team) (d status : Nat) (scope : Nat) : State :=
  let s := if 4 ≤ scope then s.invalidateAll t.cluster else s
  s.endWait t.id fun u =>
    { u with sregs := FMap.put u.sregs d { bits := BitVec.ofNat 64 status, tag := Tag.n32, taint := false } }

/-- The team's wait, if any, is withdrawn, with the causing instruction unissued (R166, R356); a wait that an event has
ended, or its deadline before this cycle, completes with what that gave it (R228). A BWAIT tests its phase afresh (R247). -/
def State.withdraw (s : State) (t : Team) : State :=
  match t.st with
  | .waiting (.waita _ _ _ _ acq scope _ d (some st)) => s.completeWait t d st (if acq then scope else 0)
  | .waiting (.waita w c ty v acq scope dl d none) =>
    let s := s.withdrawWait t.id (.waita w c ty v acq scope dl d none)
    if dl < s.now then s.completeWait t d 2 (if acq then scope else 0) else s
  | .waiting w => s.withdrawWait t.id w
  | _ => s

/-! ## Halting a group (R356, R357) -/

/-- A skid of the group is not over: a team may begin a skid instruction, or one that a team has begun is not complete
(R117). -/
def State.skidding (s : State) (g group : Nat) : Bool :=
  (s.teamsOfGroup g group).any fun t => (t.isReady && t.skidLeft != 0) || t.pend.any (·.skid)

/-- The halt of a group ends once every skid has completed: the event is delivered (R356). -/
def State.settleHalt (s : State) (g group : Nat) : State :=
  match s.gang g with
  | none => s
  | some x =>
    match (x.groups[group]?).bind (·.halt) with
    | none => s
    | some h =>
      if s.skidding g group then s
      else
        let s := s.modGang g fun y => y.modGroup group fun z => { z with halt := none }
        s.pushEvent x group (if h.code == Code.hang then 2 else 0) h.code h.xrec

/-- A halted team: it has no wait and no skid to run. -/
def Team.haltAt (t : Team) : Team := { t with st := .halted, skid := 0, skidLeft := 0 }

/-- One sibling at the start of a halt: Ready teams get their skid, waiting and sleeping ones are withdrawn, Parked ones
stay. -/
def State.haltSibling (s : State) (t : Team) : State :=
  match t.st with
  | .ready => s.modTeam t.id fun u => { u with skidLeft := 2, skid := 0 }
  | .waiting _ | .sleeping _ | .growing _ _ => (s.withdraw t).modTeam t.id Team.haltAt
  | _ => s

/-- A halt of a group begins: the erring team, if any, is Halted with its code; its siblings run out their skid. -/
def State.haltGroup (s : State) (g group code : Nat) (erring : Option Team) (x : Option XRec) : State :=
  let h : Halt := { code := code, since := s.now, slot := erring.map (·.slot), xrec := x }
  let s := s.modGang g fun y => y.modGroup group fun z => { z with halt := some h }
  let s := (s.teamsOfGroup g group).foldl (fun s t => if some t.id == erring.map Team.id then s else s.haltSibling t) s
  s.settleHalt g group

/-- An error joins a halt: found in its cycle 0 in a lower slot, it gives the event its code and record (R357). -/
def Halt.join (h : Halt) (now slot code : Nat) (x : Option XRec) : Halt :=
  if h.since == now && h.slot.any (slot < ·) then { h with code := code, slot := some slot, xrec := x } else h

/-- The team stops where it stands with an error code. -/
def State.haltTeam (s : State) (t : Nat) (code : Nat) (x : Option XRec) : State :=
  s.modTeam t fun u => { u with st := .halted, skidLeft := 0, err := code, xrec := x }

/-! ## Taking an error or a fault: the one operation -/

/-- What happens to the machine when an instruction of a team does not complete.
A replayable fault parks the team, delivers a FAULT event and appends an XLATE item (R358).
A synchronous error halts the group (R356) or joins a halt in progress (R357); the handler's own error stops its slot
(R364). A stall changes nothing. -/
def State.takeTrap (s : State) (t : Team) : Trap → State
  | .stall => s
  | .park f =>
    let x := t.xrecOf f
    let s := s.modTeam t.id fun u => { u with st := .parked .replay, skidLeft := 0, err := 0, xrec := some x, skid := t.skid }
    match s.gangOf t with
    | none => s
    | some g => ((s.pushEvent g t.group 1 0 (some x)).errXlate g.src.ctx x).settleHalt t.gang t.group
  | .err code f =>
    let x := f.map t.xrecOf
    let s := s.haltTeam t.id code x
    match s.gangOf t with
    | none => s
    | some g =>
      match g.src.origin with
      | .handler core =>
        let ev := (s.core core).hrun
        let s := s.modCore core fun c => { c with hstop := some g.src.ctx, hrun := none }
        s.errItem g.src.ctx 6 code core ((ev.map (·.2.record)).getD [] ++ leBytes 8 code)
      | _ =>
        match (g.groups[t.group]?).bind (·.halt) with
        | some h =>
          (s.modGang t.gang fun y => y.modGroup t.group fun z => { z with halt := some (h.join s.now t.slot code x) }).settleHalt
            t.gang t.group
        | none => s.haltGroup t.gang t.group code (some t) x

/-- The return from a halt or a park (R365): the team is Ready at its recorded program counter; a saved team will be
restored so. -/
def Team.ready (t : Team) : Team :=
  let t := { t with err := 0, xrec := none, skid := 0, skidLeft := 0 }
  if t.st == .saved then { t with back := .ready } else { t with st := .ready }

/-! ## Issue and retirement -/

/-- How an instruction leaves its team. -/
inductive Done where
  /-- It completes; the next instruction follows. -/
  | next (s : State)
  /-- It waits: the program counter stays until the wait ends (R166). -/
  | hold (s : State)
  /-- It completes and the clause ends at another code offset (R127, R170). -/
  | jump (s : State) (pc : Nat)
  /-- It raises an error that has an effect on other teams (R184). -/
  | trap (s : State) (t : Trap)
  deriving DecidableEq, Repr

/-- The team whose instruction the pipe with the turn issues: it runs there under its key and is Ready (R113). -/
def State.issuing (s : State) : Option Team :=
  match FMap.look s.running s.turn with
  | none => none
  | some r =>
    match s.team r.1 with
    | none => none
    | some t => if t.isReady && t.id == r.1 then some t else none

/-- The pipe's clause has ended or was left. -/
def State.freePipe (s : State) (t : Team) : State := { s with running := FMap.del s.running t.pipe }

/-- A skid instruction has been begun (R356): the last one leaves the team Halted. An instruction of the halt's own cycle is
no skid. -/
def State.countSkid (s : State) (t : Nat) : State :=
  match s.team t with
  | none => s
  | some u =>
    let since := (((s.gangOf u).bind (·.groups[u.group]?)).bind (·.halt)).map (·.since)
    if u.skidLeft == 0 || since == some s.now then s
    else
      let left := u.skidLeft - 1
      let s := s.modTeam t fun v =>
        { v with skidLeft := if v.isReady then left else 0, skid := v.skid + 1
                 st := if v.isReady && left == 0 then .halted else v.st }
      s.settleHalt u.gang u.group

/-- A team in a halt's skid begins no further instruction (R356). -/
def State.endSkid (s : State) (t : Nat) : State :=
  match s.team t with
  | none => s
  | some u =>
    if u.skidLeft == 0 then s
    else (s.modTeam t fun v => { v with skidLeft := 0, st := if v.isReady then .halted else v.st }).settleHalt u.gang u.group

/-- The pipe is free once the team's clause is over or the team no longer is Ready. -/
def State.leavePipe (s : State) (t : Nat) : State :=
  match s.team t with
  | none => s
  | some u => if u.clause.isNone || !u.isReady then s.freePipe u else s

/-- An instruction retires: the program counter moves past it (R109, R112). -/
def State.retire (s : State) (t : Team) : State :=
  (((s.modTeam t.id (Team.advance s.now)).touch t.gang).countSkid t.id).leavePipe t.id

/-- A branch retires. -/
def State.retireTo (s : State) (t : Team) (pc : Nat) : State :=
  (((s.modTeam t.id (Team.goto pc s.now)).touch t.gang).countSkid t.id).leavePipe t.id

/-- An instruction that puts its team to wait, to sleep or to park leaves the pipe. In a skid a SLEEP is complete with the
team Halted behind it, a TRAP parks, and a wait is withdrawn at once (log entry 9). -/
def State.holdTeam (s : State) (t : Team) : State :=
  match s.team t.id with
  | none => s
  | some u =>
    let s := s.freePipe t
    if u.skidLeft == 0 then s
    else
      match u.st with
      | .parked _ => (s.modTeam t.id fun v => { v with skidLeft := 0, skid := v.skid + 1 }).settleHalt t.gang t.group
      | .sleeping _ =>
        (s.modTeam t.id fun v => { v.advance s.now with st := .halted, skidLeft := 0, skid := v.skid + 1 }).settleHalt t.gang t.group
      | _ => ((s.withdraw u).modTeam t.id fun v => { v with st := .halted, skidLeft := 0 }).settleHalt t.gang t.group

/-- One instruction of the issuing team: its effect, then its retirement, its wait, or the error or fault it takes. -/
def issue (s : State) (f : State → Team → Except Trap Done) : Host.Outcome State Fault Refusal :=
  match s.issuing with
  | none => .fault .noIssuingTeam
  | some t =>
    match f s t with
    | .ok (.next s') => .next (s'.retire t)
    | .ok (.hold s') => .next (s'.holdTeam t)
    | .ok (.jump s' pc) => .next (s'.retireTo t pc)
    | .ok (.trap s' tr) => .next ((s'.takeTrap t tr).leavePipe t.id)
    | .error tr => .next ((s.takeTrap t tr).leavePipe t.id)

/-! ## Completion flags (R114) -/

/-- The flag an instruction counts on: header flag A or B; none for 15. -/
def Team.flagOf (t : Team) (fb : Bool) : Option Nat :=
  match t.clause with
  | none => none
  | some c =>
    let f := if fb then c.flagB else c.flagA
    if f < 12 then some f else none

/-- The pending count of a flag. -/
def Team.flagCount (t : Team) (f : Nat) : Nat := (t.pend.filter (·.flag == f)).length

/-- An issue that would take a count to 64 waits (R114). -/
def Team.flagRoom (t : Team) (fb : Bool) : Bool :=
  match t.flagOf fb with
  | none => true
  | some f => t.flagCount f < 63

/-- The instruction counts on its flag until its completion event; one of a halt's skid, and one under way to another
package, is kept without a flag too. -/
def Team.countFly (fb : Bool) (mma : Option Nat) (fly : Option Fly) (t : Team) : Team :=
  match t.flagOf fb with
  | none =>
    if t.skidLeft == 0 && fly.isNone then t
    else { t with pend := t.pend ++ [{ flag := 15, mma := mma, fly := fly, skid := t.skidLeft != 0 }] }
  | some f => { t with pend := t.pend ++ [{ flag := f, mma := mma, fly := fly, skid := t.skidLeft != 0 }] }

/-- The instruction counts on its flag until its completion event. -/
def Team.count (fb : Bool) (mma : Option Nat) (t : Team) : Team := t.countFly fb mma none

/-- A long-latency instruction: it needs room on its flag, and counts there when it `acts` (R114). -/
def issueLong (s : State) (fb : Bool) (acts : Team → Bool) (f : State → Team → Except Trap Done) :
    Host.Outcome State Fault Refusal :=
  issue s fun s t =>
    if !t.flagRoom fb then .error .stall
    else
      match f s t with
      | .ok (.next s') => .ok (.next (if acts t then s'.modTeam t.id (Team.count fb none) else s'))
      | r => r

/-- A team-acting long-latency instruction that may wait: it needs room on its flag first (R114). -/
def withRoom (fb : Bool) (f : State → Team → Except Trap Done) (s : State) (t : Team) : Except Trap Done :=
  if !t.flagRoom fb then .error .stall else f s t

/-- The lines of an event that changes nothing: it was not enabled. -/
def stutter (s : State) : Host.Outcome State Fault Refusal := .next s

end Sys2Proof.Machine
end

