-- ==== Sys2Proof/Machine/Operands.lean ====
section
/-! DEFINITION. Every operand form: register numbers and their bounds, tags, lanes and guards, and the one write of lane
registers (spec/02_formats.md R46 to R50, spec/06_kernel_image.md R119 to R121, spec/07_lane_ops.md R137, R139). -/

namespace Sys2Proof.Machine

/-! ## Lanes -/

/-- The lanes below n. -/
def lanesBelow (n : Nat) : Mask := BitVec.ofNat 1024 (2 ^ n - 1)

/-- A predicate register: p15 reads ones (R119). -/
def Team.pred (t : Team) (p : Nat) : Mask := if p == 15 then BitVec.allOnes 1024 else FMap.lookD t.preds p 0

/-- The lanes that pass a guard (R120). -/
def Team.pass (t : Team) (h : Hd) : Mask :=
  let m := t.pred h.guard.toNat
  if h.neg then ~~~m else m

/-- The active lanes of an instruction: in the execution mask and passing the guard. -/
def Team.active (t : Team) (h : Hd) : Mask := t.cur &&& t.pass h

/-- The lanes of a mask in the n / 32 words of a team of n lanes, ascending (R55). -/
def lanesOf (m : Mask) (n : Nat) : List Nat := (List.range (32 * (n / 32))).filter m.getLsbD

/-- The lanes of word W of a mask. -/
def wordMask (m : Mask) (w : Nat) : BitVec 32 := m.extractLsb' (32 * w) 32

/-- The words of a team that hold an active lane, ascending (R55). -/
def wordsOf (m : Mask) (n : Nat) : List Nat := (List.range (n / 32)).filter fun w => wordMask m w != 0

/-! ## Register numbers -/

/-- x as a signed number. -/
def Team.xval (t : Team) : Int := t.x.toInt

/-- A lane register field of n registers, resolved and checked at issue (R121, R131): below 0 or past V raises
REGBOUND, and so does an odd pair under index apply. -/
def Team.vreg (t : Team) (ix : Bool) (r : BitVec 8) (n : Nat) (pair : Bool := false) : Except Trap Nat :=
  let v : Int := if ix then t.xval + r.toInt else r.toNat
  if v < 0 || (t.vregs : Int) < v + n || (pair && v % 2 == 1) then raise Code.regbound else .ok v.toNat

/-- An accumulator field checked against C. -/
def Team.creg (t : Team) (c : Nat) : Except Trap Nat := if c < t.accs then .ok c else raise Code.regbound

/-! ## Lane registers -/

/-- Lane register v of lane L. -/
def Team.lane (t : Team) (v l : Nat) : Lane32 := FMap.lookD t.file.bits (v * 1024 + l) 0

/-- The pair v, v+1 of lane L (R47). -/
def Team.lane64 (t : Team) (v l : Nat) : Word := t.lane (v + 1) l ++ t.lane v l

/-- The tag of word W of register v. -/
def Team.vtag (t : Team) (v w : Nat) : Tag := FMap.lookD t.file.tags (v * 32 + w) 0

/-- The taint of lane L of register v. -/
def Team.vtaint (t : Team) (v l : Nat) : Bool := (FMap.lookD t.file.taint v 0).getLsbD l

/-- `tag_check` of one lane register over the active words (R50, R51). -/
def Team.checkTag (t : Team) (act : Mask) (v : Nat) (set : List Tag) : Except Trap Unit :=
  require ((wordsOf act t.lanes).all fun w => set.contains (t.vtag v w)) Code.format

/-- `tag_check` of n consecutive registers. -/
def Team.checkTags (t : Team) (act : Mask) (v n : Nat) (set : List Tag) : Except Trap Unit :=
  require ((List.range n).all fun i => (wordsOf act t.lanes).all fun w => set.contains (t.vtag (v + i) w)) Code.format

/-- Number of registers an operand of a type takes. -/
def regsOf (t : Tag) : Nat := if t.wide then 2 else 1

/-- A lane register's word tags set over the active words; a word that leaves NONE has its inactive lanes zeroed and
untainted (R46). -/
def LaneFile.retag (f : LaneFile) (n : Nat) (act : Mask) (v : Nat) (tag : Tag) : LaneFile :=
  (wordsOf act n).foldl (fun f w =>
    let old := FMap.lookD f.tags (v * 32 + w) 0
    let f := { f with tags := FMap.put f.tags (v * 32 + w) tag }
    if old == 0 then
      { f with
        bits := (List.range 32).foldl (fun b i => FMap.del b (v * 1024 + w * 32 + i)) f.bits
        taint := FMap.putD f.taint v
          (FMap.lookD f.taint v 0 &&& ~~~((BitVec.allOnes 32).setWidth 1024 <<< (32 * w))) 0 }
    else f) f

/-- The lanes' bits and taint written in one register. -/
def LaneFile.fill (f : LaneFile) (n : Nat) (act : Mask) (v : Nat) (val : Nat → Lane32) (taint : Nat → Bool) : LaneFile :=
  let ls := lanesOf act n
  { f with
    bits := ls.foldl (fun b l => FMap.putD b (v * 1024 + l) (val l) 0) f.bits
    taint := FMap.putD f.taint v (ls.foldl (fun m l =>
      if taint l then m ||| (1#1024 <<< l) else m &&& ~~~(1#1024 <<< l)) (FMap.lookD f.taint v 0)) 0 }

/-- The write of one lane register in the active lanes (R46, R137 step 4). -/
def Team.writeReg (t : Team) (act : Mask) (v : Nat) (tag : Tag) (val : Nat → Lane32) (taint : Nat → Bool) : Team :=
  { t with file := (t.file.retag t.lanes act v tag).fill t.lanes act v val taint }

/-- Consecutive registers written from d: one tag each, the lane's values as a list. -/
def Team.writeRegs (t : Team) (act : Mask) (d : Nat) (tags : List Tag) (val : Nat → List Lane32) (taint : Nat → Bool) : Team :=
  tags.zipIdx.foldl (fun u (tag, i) => u.writeReg act (d + i) tag (fun l => (val l).getD i 0) taint) t

/-- The halves of a 64-bit value: an even register holds the low one (R62). -/
def halves (x : Word) : List Lane32 := [x.truncate 32, (x >>> 32).truncate 32]

/-- The value of type t in lane L of register v: 32 bits or the pair's 64. -/
def Team.laneTy (t : Team) (ty : Tag) (v l : Nat) : Nat := if ty.wide then (t.lane64 v l).toNat else (t.lane v l).toNat

/-- A result of a type as the registers it takes. -/
def regsOfVal (ty : Tag) (x : Nat) : List Lane32 :=
  if ty.wide then halves (BitVec.ofNat 64 x) else [BitVec.ofNat 32 x]

/-- The tags of the registers a result of a type takes. -/
def tagsOfTy (ty : Tag) : List Tag := if ty.wide then [ty, ty] else [ty]

/-- The sticky flags of all active lanes together (R44). -/
def flagsOf (act : Mask) (n : Nat) (f : Nat → Sticky) : Sticky := (lanesOf act n).foldl (fun s l => s ||| f l) 0

/-- The team with sticky flags raised. -/
def Team.raiseFlags (t : Team) (f : Sticky) : Team := { t with sticky := t.sticky ||| f }

/-- The common step of a lane result (R137 steps 3 and 4): consecutive registers from d take the values of each active
lane, tainted when a source register is tainted there (R139); the lanes' flags are raised. Values are computed from the
team as it was. -/
def Team.laneResult (t : Team) (act : Mask) (d : Nat) (tags : List Tag) (srcs : List Nat)
    (val : Nat → List Lane32 × Sticky) : Team :=
  (t.writeRegs act d tags (fun l => (val l).1) (fun l => srcs.any fun v => t.vtaint v l)).raiseFlags
    (flagsOf act t.lanes fun l => (val l).2)

/-- A predicate register written in the active lanes; writes to p15 are discarded (R119). -/
def Team.writePred (t : Team) (act : Mask) (p : Nat) (m : Mask) : Team :=
  if p == 15 then t else { t with preds := FMap.putD t.preds p ((FMap.lookD t.preds p 0 &&& ~~~act) ||| (m &&& act)) 0 }

/-- The lanes of which a test holds, as a mask. -/
def maskOf (act : Mask) (n : Nat) (f : Nat → Bool) : Mask :=
  (lanesOf act n).foldl (fun m l => if f l then m ||| (1#1024 <<< l) else m) 0

/-- Mask register k of lane L. -/
def Team.kreg (t : Team) (k l : Nat) : BitVec 16 := FMap.lookD t.kregs (k * 1024 + l) 0

/-- A mask register written in the active lanes. -/
def Team.writeK (t : Team) (act : Mask) (k : Nat) (f : Nat → BitVec 16) : Team :=
  { t with kregs := (lanesOf act t.lanes).foldl (fun m l => FMap.putD m (k * 1024 + l) (f l) 0) t.kregs }

/-! ## Scalar registers -/

/-- A scalar register never written: tag NONE, bits zero (log entry 4). -/
def SReg.none : SReg := { bits := 0, tag := 0, taint := false }

/-- Scalar register s. -/
def Team.sreg (t : Team) (r : Nat) : SReg := FMap.lookD t.sregs r SReg.none

/-- The team with a scalar register written. -/
def Team.setS (t : Team) (r : Nat) (bits : Word) (tag : Tag) (taint : Bool := false) : Team :=
  { t with sregs := FMap.put t.sregs r { bits := bits, tag := tag, taint := taint } }

/-- A scalar operand whose tag lies in a set, or FORMAT (R48, R50). -/
def Team.scalar (t : Team) (r : Nat) (set : List Tag) : Except Trap Word :=
  if set.contains (t.sreg r).tag then .ok (t.sreg r).bits else raise Code.format

/-- The tags of an address operand (R207). -/
def addrTags : List Tag := [Tag.i64, Tag.n32, Tag.raw]

/-- The tags of a count, size or time. -/
def intTags : List Tag := [Tag.i64, Tag.i32, Tag.n32]

/-- The address a scalar register holds: N32 is zero-extended (R207). -/
def SReg.addr (r : SReg) : Word := if r.tag == Tag.n32 then (r.bits.truncate 32).zeroExtend 64 else r.bits

/-- An address operand, or FORMAT. -/
def Team.addr (t : Team) (r : Nat) : Except Trap Word :=
  if addrTags.contains (t.sreg r).tag then .ok (t.sreg r).addr else raise Code.format

/-- A scalar integer: I64 and I32 signed, N32 unsigned. -/
def SReg.int (r : SReg) : Int :=
  if r.tag == Tag.i64 then r.bits.toInt
  else if r.tag == Tag.n32 then ((r.bits.truncate 32 : Lane32).toNat : Int)
  else (r.bits.truncate 32 : Lane32).toInt

/-- An integer operand I64, I32 or N32, or FORMAT. -/
def Team.int (t : Team) (r : Nat) : Except Trap Int :=
  if intTags.contains (t.sreg r).tag then .ok (t.sreg r).int else raise Code.format

/-- An integer clipped to 0 to 2^32 - 1 (R177, R227, R309). -/
def clip32 (i : Int) : Nat := (max 0 (min i (2 ^ 32 - 1))).toNat

/-! ## The state with the issuing team changed -/

/-- A team effect with no other. -/
def teamDone (s : State) (t : Team) : Done := .next (s.setTeam t)

end Sys2Proof.Machine
end

