-- ==== Sys2Proof/Machine/LaneInt.lean ====
section
/-! DEFINITION. Integer arithmetic, bitwise operations, addresses, moves, compares, predicates and mask registers
(spec/07_lane_ops.md R143 to R151). -/

namespace Sys2Proof.Machine

/-- n registers from v. -/
def regList (v n : Nat) : List Nat := (List.range n).map (v + ·)

/-- The team has an active lane: a lane-acting long-latency instruction then counts on its flag (R114). -/
def hasLane (h : Hd) (t : Team) : Bool := t.active h != 0

/-! ## Integer values (R143) -/

/-- Bits of an integer type. -/
def intBits (ty : Tag) : Nat := if ty == Tag.i64 then 64 else 32

/-- The integer a value of a type denotes: I32 and I64 signed, N32 and KEY32 unsigned. -/
def intVal (ty : Tag) (x : Nat) : Int :=
  if ty == Tag.i32 then (BitVec.ofNat 32 x).toInt else if ty == Tag.i64 then (BitVec.ofNat 64 x).toInt else x

/-- The least value of a type. -/
def intMin (ty : Tag) : Int := if ty == Tag.i32 then -2 ^ 31 else if ty == Tag.i64 then -2 ^ 63 else 0

/-- The greatest value of a type. -/
def intMax (ty : Tag) : Int := if ty == Tag.i32 then 2 ^ 31 - 1 else if ty == Tag.i64 then 2 ^ 63 - 1 else 2 ^ 32 - 1

/-- The low bits of an exact result (R51 `wrap`). -/
def wrapBits (ty : Tag) (e : Int) : Nat := (e % 2 ^ intBits ty).toNat

/-- The exact result e written under a type: saturated, or its low bits (R143). -/
def intOut (ty : Tag) (sat : Bool) (e : Int) : Nat × Sticky :=
  if sat then (wrapBits ty (satInt (intMin ty) (intMax ty) e).1, (satInt (intMin ty) (intMax ty) e).2)
  else (wrapBits ty e, Sticky.none)

/-- A two-source integer instruction of one type: `f` gives the result's bits and flags (R143). -/
def intBinary (h : Hd) (o : Rrr) (f : Int → Int → Nat × Sticky) (s : State) (t : Team) : Except Trap Done := do
  let ty := o.ty.toNat
  let n := regsOf ty
  let d ← t.vreg h.ixD o.d n (Tag.wide ty)
  let a ← t.vreg h.ixA o.a n (Tag.wide ty)
  let b ← t.vreg false o.b n
  let act := t.active h
  t.checkTags act a n [ty]
  t.checkTags act b n [ty]
  return teamDone s (t.laneResult act d (tagsOfTy ty) (regList a n ++ regList b n) fun l =>
    let r := f (intVal ty (t.laneTy ty a l)) (intVal ty (t.laneTy ty b l))
    (regsOfVal ty r.1, r.2))

/-- A three-source 32-bit integer instruction (IMAD, ISAT). -/
def intTernary (h : Hd) (o : Rrr) (f : Int → Int → Int → Nat × Sticky) (s : State) (t : Team) : Except Trap Done := do
  let ty := o.ty.toNat
  let d ← t.vreg h.ixD o.d 1
  let a ← t.vreg h.ixA o.a 1
  let b ← t.vreg false o.b 1
  let c ← t.vreg false o.c 1
  let act := t.active h
  t.checkTag act a [ty]
  t.checkTag act b [ty]
  t.checkTag act c [ty]
  return teamDone s (t.laneResult act d [ty] [a, b, c] fun l =>
    let r := f (intVal ty (t.lane a l).toNat) (intVal ty (t.lane b l).toNat) (intVal ty (t.lane c l).toNat)
    ([BitVec.ofNat 32 r.1], r.2))

/-- A one-source integer instruction of one type (IABS). -/
def intUnary (h : Hd) (o : Rrr) (f : Int → Nat × Sticky) (s : State) (t : Team) : Except Trap Done := do
  let ty := o.ty.toNat
  let n := regsOf ty
  let d ← t.vreg h.ixD o.d n (Tag.wide ty)
  let a ← t.vreg h.ixA o.a n (Tag.wide ty)
  let act := t.active h
  t.checkTags act a n [ty]
  return teamDone s (t.laneResult act d (tagsOfTy ty) (regList a n) fun l =>
    let r := f (intVal ty (t.laneTy ty a l))
    (regsOfVal ty r.1, r.2))

/-- IADD (R143). -/
def execIadd (h : Hd) (o : Rrr) (s : State) : Host.Outcome State Fault Refusal :=
  issue s (intBinary h o fun a b => intOut o.ty.toNat o.sat (a + b))

/-- ISUB (R143). -/
def execIsub (h : Hd) (o : Rrr) (s : State) : Host.Outcome State Fault Refusal :=
  issue s (intBinary h o fun a b => intOut o.ty.toNat o.sat (a - b))

/-- IMUL (R143). -/
def execImul (h : Hd) (o : Rrr) (s : State) : Host.Outcome State Fault Refusal :=
  issue s (intBinary h o fun a b => intOut o.ty.toNat o.sat (a * b))

/-- IMULH: the high 32 bits of the 64-bit product (R143). -/
def execImulh (h : Hd) (o : Rrr) (s : State) : Host.Outcome State Fault Refusal :=
  issue s (intBinary h o fun a b => intOut o.ty.toNat false (Int.fdiv (a * b) (2 ^ 32)))

/-- IMAD (R143). -/
def execImad (h : Hd) (o : Rrr) (s : State) : Host.Outcome State Fault Refusal :=
  issue s (intTernary h o fun a b c => intOut o.ty.toNat o.sat (a * b + c))

/-- IMADW: A and B of the type, C and D I64 pairs (R143). -/
def imadw (h : Hd) (o : Rrr) (s : State) (t : Team) : Except Trap Done := do
  let ty := o.ty.toNat
  let d ← t.vreg h.ixD o.d 2 true
  let a ← t.vreg h.ixA o.a 1
  let b ← t.vreg false o.b 1
  let c ← t.vreg false o.c 2
  let act := t.active h
  t.checkTag act a [ty]
  t.checkTag act b [ty]
  t.checkTags act c 2 [Tag.i64]
  return teamDone s (t.laneResult act d [Tag.i64, Tag.i64] [a, b, c, c + 1] fun l =>
    let r := intOut Tag.i64 o.sat
      (intVal ty (t.lane a l).toNat * intVal ty (t.lane b l).toNat + (t.lane64 c l).toInt)
    (regsOfVal Tag.i64 r.1, r.2))

/-- IMADW (R143). -/
def execImadw (h : Hd) (o : Rrr) (s : State) : Host.Outcome State Fault Refusal := issue s (imadw h o)

/-- Quotient and remainder toward zero, with the results of a zero divisor and DZ (R144). -/
def divRem (ty : Tag) (a b : Int) : Int × Int × Sticky :=
  if b == 0 then
    if a == 0 then (0, a, Sticky.none)
    else (if ty == Tag.n32 then 2 ^ 32 - 1 else if 0 < a then 2 ^ 31 - 1 else -2 ^ 31, a, Sticky.dz)
  else (Int.tdiv a b, a - Int.tdiv a b * b, Sticky.none)

/-- IDIV (R144). -/
def execIdiv (h : Hd) (o : Rrr) (s : State) : Host.Outcome State Fault Refusal :=
  issueLong s h.fb (hasLane h) (intBinary h o fun a b =>
    let q := divRem o.ty.toNat a b
    let r := intOut o.ty.toNat o.sat q.1
    (r.1, r.2 ||| q.2.2))

/-- IREM (R144). -/
def execIrem (h : Hd) (o : Rrr) (s : State) : Host.Outcome State Fault Refusal :=
  issueLong s h.fb (hasLane h) (intBinary h o fun a b =>
    let q := divRem o.ty.toNat a b
    (wrapBits o.ty.toNat q.2.1, q.2.2))

/-- IMIN (R143). -/
def execImin (h : Hd) (o : Rrr) (s : State) : Host.Outcome State Fault Refusal :=
  issue s (intBinary h o fun a b => intOut o.ty.toNat false (if a ≤ b then a else b))

/-- IMAX (R143). -/
def execImax (h : Hd) (o : Rrr) (s : State) : Host.Outcome State Fault Refusal :=
  issue s (intBinary h o fun a b => intOut o.ty.toNat false (if a ≤ b then b else a))

/-- IABS (R143). -/
def execIabs (h : Hd) (o : Rrr) (s : State) : Host.Outcome State Fault Refusal :=
  issue s (intUnary h o fun a => intOut o.ty.toNat o.sat a.natAbs)

/-- ISAT: `sat(A, B, C)`; B when A lies below it, else C when A lies above or B > C (R143). -/
def execIsat (h : Hd) (o : Rrr) (s : State) : Host.Outcome State Fault Refusal :=
  issue s (intTernary h o fun a b c =>
    let v := if a < b then (b, Sticky.sat)
      else if c < b then (c, if a == c then Sticky.none else Sticky.sat)
      else if c < a then (c, Sticky.sat) else (a, Sticky.none)
    (wrapBits o.ty.toNat v.1, v.2))

/-! ## Logic (R145) -/

/-- The tag of a logic result for one word: the common tag of both sources, else RAW (R50). -/
def logicTag (a b : Tag) : Tag := if a == b then a else Tag.raw

/-- A lane register written with a tag for each word. -/
def Team.writeRegTags (t : Team) (act : Mask) (v : Nat) (tag : Nat → Tag) (val : Nat → Lane32) (taint : Nat → Bool) : Team :=
  (wordsOf act t.lanes).foldl (fun u w =>
    u.writeReg (act &&& ((BitVec.allOnes 32).setWidth 1024 <<< (32 * w))) v (tag w) val taint) t

/-- AND, OR, XOR and ANDN on one register or a pair, register by register (R145). -/
def logic (h : Hd) (o : Rrr) (f : Lane32 → Lane32 → Lane32) (s : State) (t : Team) : Except Trap Done := do
  let w := o.e.getLsbD 0
  let n := if w then 2 else 1
  let d ← t.vreg h.ixD o.d n w
  let a ← t.vreg h.ixA o.a n w
  let b ← t.vreg false o.b n
  let act := t.active h
  t.checkTags act a n Tag.any
  t.checkTags act b n Tag.any
  return teamDone s ((List.range n).foldl (fun u i =>
    u.writeRegTags act (d + i) (fun w => logicTag (t.vtag (a + i) w) (t.vtag (b + i) w))
      (fun l => f (t.lane (a + i) l) (t.lane (b + i) l))
      (fun l => t.vtaint (a + i) l || t.vtaint (b + i) l)) t)

/-- AND (R145). -/
def execAndl (h : Hd) (o : Rrr) (s : State) : Host.Outcome State Fault Refusal := issue s (logic h o fun a b => a &&& b)
/-- OR (R145). -/
def execOrl (h : Hd) (o : Rrr) (s : State) : Host.Outcome State Fault Refusal := issue s (logic h o fun a b => a ||| b)
/-- XOR (R145). -/
def execXorl (h : Hd) (o : Rrr) (s : State) : Host.Outcome State Fault Refusal := issue s (logic h o fun a b => a ^^^ b)
/-- ANDN (R145). -/
def execAndn (h : Hd) (o : Rrr) (s : State) : Host.Outcome State Fault Refusal := issue s (logic h o fun a b => a &&& ~~~b)

/-! ## Shifts, fields and counts (R146) -/

/-- A shift of A by the unsigned amount in B over 32 bits, or 64 on a pair; the result takes A's tag, word by word and,
on a pair, register by register (log entry 29). -/
def shiftOp (h : Hd) (o : Rrr) (f : Nat → Nat → Nat → Nat) (s : State) (t : Team) : Except Trap Done := do
  let w := o.e.getLsbD 0
  let n := if w then 2 else 1
  let d ← t.vreg h.ixD o.d n w
  let a ← t.vreg h.ixA o.a n w
  let b ← t.vreg false o.b 1
  let act := t.active h
  t.checkTags act a n Tag.any
  t.checkTag act b [Tag.i32, Tag.n32]
  let val (l : Nat) : Nat :=
    f (32 * n) (if w then (t.lane64 a l).toNat else (t.lane a l).toNat) (t.lane b l).toNat
  return teamDone s ((List.range n).foldl (fun u i =>
    u.writeRegTags act (d + i) (t.vtag (a + i)) (fun l => BitVec.ofNat 32 (val l / 2 ^ (32 * i)))
      (fun l => (regList a n ++ [b]).any fun v => t.vtaint v l)) t)

/-- Shift left in w bits: 0 when n reaches w. -/
def shlBits (w x n : Nat) : Nat := if w ≤ n then 0 else x * 2 ^ n % 2 ^ w
/-- Logical shift right: 0 when n reaches w. -/
def shrBits (w x n : Nat) : Nat := if w ≤ n then 0 else x / 2 ^ n
/-- Arithmetic shift right: the sign repeated when n reaches w. -/
def sarBits (w x n : Nat) : Nat :=
  let v : Int := if x.testBit (w - 1) then (x : Int) - 2 ^ w else x
  (Int.fdiv v (2 ^ (min n w)) % 2 ^ w).toNat
/-- Rotate left by n mod w. -/
def rotBits (w x n : Nat) : Nat := (x * 2 ^ (n % w) % 2 ^ w) + x / 2 ^ (w - n % w)

/-- SHL (R146). -/
def execShl (h : Hd) (o : Rrr) (s : State) : Host.Outcome State Fault Refusal := issue s (shiftOp h o shlBits)
/-- SHR (R146). -/
def execShr (h : Hd) (o : Rrr) (s : State) : Host.Outcome State Fault Refusal := issue s (shiftOp h o shrBits)
/-- SAR (R146). -/
def execSar (h : Hd) (o : Rrr) (s : State) : Host.Outcome State Fault Refusal := issue s (shiftOp h o sarBits)
/-- ROT (R146). -/
def execRot (h : Hd) (o : Rrr) (s : State) : Host.Outcome State Fault Refusal := issue s (shiftOp h o rotBits)

/-- Position and length of a field from B (R146): B[4:0] and B[13:8]; no field for a length of 0 or above 32. -/
def fieldOf (b : Nat) : Option (Nat × Nat) :=
  let pos := b % 32
  let len := b / 256 % 64
  if len == 0 || 32 < len then none else some (pos, min (pos + len) 32 - pos)

/-- BFX: the field of A, extended by the type (R146). -/
def bfx (ty : Tag) (a b : Nat) : Nat :=
  match fieldOf b with
  | none => 0
  | some (p, n) =>
    let v := a / 2 ^ p % 2 ^ n
    if ty == Tag.i32 && v.testBit (n - 1) then v + (2 ^ 32 - 2 ^ n) else v

/-- BFX (R146). -/
def bfxOp (h : Hd) (o : Rrr) (s : State) (t : Team) : Except Trap Done := do
  let d ← t.vreg h.ixD o.d 1
  let a ← t.vreg h.ixA o.a 1
  let b ← t.vreg false o.b 1
  let act := t.active h
  t.checkTag act a Tag.any
  t.checkTag act b [Tag.i32, Tag.n32]
  return teamDone s (t.laneResult act d [o.ty.toNat] [a, b] fun l =>
    ([BitVec.ofNat 32 (bfx o.ty.toNat (t.lane a l).toNat (t.lane b l).toNat)], Sticky.none))

/-- BFX (R146). -/
def execBfx (h : Hd) (o : Rrr) (s : State) : Host.Outcome State Fault Refusal := issue s (bfxOp h o)

/-- BFI: A with the field replaced by the low bits of C (R146). -/
def bfi (a b c : Nat) : Nat :=
  match fieldOf b with
  | none => a
  | some (p, n) => a - a / 2 ^ p % 2 ^ n * 2 ^ p + c % 2 ^ n * 2 ^ p

/-- BFI (R146). -/
def bfiOp (h : Hd) (o : Rrr) (s : State) (t : Team) : Except Trap Done := do
  let d ← t.vreg h.ixD o.d 1
  let a ← t.vreg h.ixA o.a 1
  let b ← t.vreg false o.b 1
  let c ← t.vreg false o.c 1
  let act := t.active h
  t.checkTag act a Tag.any
  t.checkTag act b [Tag.i32, Tag.n32]
  t.checkTag act c Tag.any
  return teamDone s (t.writeRegTags act d (t.vtag a)
    (fun l => BitVec.ofNat 32 (bfi (t.lane a l).toNat (t.lane b l).toNat (t.lane c l).toNat))
    (fun l => [a, b, c].any fun v => t.vtaint v l))

/-- BFI (R146). -/
def execBfi (h : Hd) (o : Rrr) (s : State) : Host.Outcome State Fault Refusal := issue s (bfiOp h o)

/-- A one-source bit count tagged N32 (R146). -/
def countOp (h : Hd) (o : Rrr) (f : Lane32 → Nat) (s : State) (t : Team) : Except Trap Done := do
  let d ← t.vreg h.ixD o.d 1
  let a ← t.vreg h.ixA o.a 1
  let act := t.active h
  t.checkTag act a Tag.any
  return teamDone s (t.laneResult act d [Tag.n32] [a] fun l => ([BitVec.ofNat 32 (f (t.lane a l))], Sticky.none))

/-- Number of set bits. -/
def popcount (x : Lane32) : Nat := ((List.range 32).filter x.getLsbD).length
/-- Number of leading zero bits; 32 for zero. -/
def leadingZeros (x : Lane32) : Nat := if x == 0 then 32 else 31 - Nat.log2 x.toNat
/-- Bit i moved to bit 31 - i. -/
def reverseBits (x : Lane32) : Lane32 := x.reverse

/-- POPC (R146). -/
def execPopc (h : Hd) (o : Rrr) (s : State) : Host.Outcome State Fault Refusal := issue s (countOp h o popcount)
/-- CLZ (R146). -/
def execClz (h : Hd) (o : Rrr) (s : State) : Host.Outcome State Fault Refusal := issue s (countOp h o leadingZeros)

/-- BREV: the result takes A's tag (R146). -/
def brevOp (h : Hd) (o : Rrr) (s : State) (t : Team) : Except Trap Done := do
  let d ← t.vreg h.ixD o.d 1
  let a ← t.vreg h.ixA o.a 1
  let act := t.active h
  t.checkTag act a Tag.any
  return teamDone s (t.writeRegTags act d (t.vtag a) (fun l => reverseBits (t.lane a l)) (t.vtaint a))

/-- BREV (R146). -/
def execBrev (h : Hd) (o : Rrr) (s : State) : Host.Outcome State Fault Refusal := issue s (brevOp h o)

/-! ## Addresses (R147) -/

/-- LEA: sA + ext(vE) + sext(imm22), 64 bits. -/
def leaOp (h : Hd) (o : Ri) (s : State) (t : Team) : Except Trap Done := do
  let d ← t.vreg h.ixD o.d 2 true
  let e ← t.vreg false o.e 1
  let act := t.active h
  let base ← t.addr o.a.toNat
  t.checkTag act e [Tag.i32, Tag.n32]
  let val (l : Nat) : Word :=
    let x := t.lane e l
    let ext := if t.vtag e (l / 32) == Tag.i32 then x.signExtend 64 else x.zeroExtend 64
    base + ext + o.imm.signExtend 64
  let st := (t.sreg o.a.toNat).taint
  return teamDone s (t.writeRegs act d [Tag.i64, Tag.i64] (fun l => halves (val l)) (fun l => st || t.vtaint e l))

/-- LEA (R147). -/
def execLea (h : Hd) (o : Ri) (s : State) : Host.Outcome State Fault Refusal := issue s (leaOp h o)

/-! ## Moves and selection (R148) -/

/-- MOV: tag and taint copied, `.untaint` clears it, `.w64` moves a pair. -/
def movOp (h : Hd) (o : Rrr) (s : State) (t : Team) : Except Trap Done := do
  let w := o.e.getLsbD 0
  let untaint := o.e.getLsbD 1
  let n := if w then 2 else 1
  let d ← t.vreg h.ixD o.d n w
  let a ← t.vreg h.ixA o.a n w
  let act := t.active h
  t.checkTags act a n Tag.any
  return teamDone s ((List.range n).foldl (fun u i =>
    u.writeRegTags act (d + i) (t.vtag (a + i)) (t.lane (a + i)) (fun l => !untaint && t.vtaint (a + i) l)) t)

/-- MOV (R148). -/
def execMov (h : Hd) (o : Rrr) (s : State) : Host.Outcome State Fault Refusal := issue s (movOp h o)

/-- MOVI: an immediate with a tag, untainted. -/
def moviOp (h : Hd) (o : Li) (s : State) (t : Team) : Except Trap Done := do
  let d ← t.vreg h.ixD o.d 1
  return teamDone s (t.writeReg (t.active h) d (o.e >>> 2).toNat (fun _ => o.imm) (fun _ => false))

/-- MOVI (R148). -/
def execMovi (h : Hd) (o : Li) (s : State) : Host.Outcome State Fault Refusal := issue s (moviOp h o)

/-- MOVS: a scalar's low half, or both halves to a pair. -/
def movsOp (h : Hd) (o : Rrr) (s : State) (t : Team) : Except Trap Done := do
  let w := o.e.getLsbD 0
  let d ← t.vreg h.ixD o.d (if w then 2 else 1) w
  let r := t.sreg o.a.toNat
  let x ← t.scalar o.a.toNat (if w then [Tag.i64, Tag.f64, Tag.raw] else [1, 2, 3, 4, 5, 6, 7, 8, 9, 12])
  return teamDone s (t.writeRegs (t.active h) d (if w then [r.tag, r.tag] else [r.tag]) (fun _ => halves x) (fun _ => r.taint))

/-- MOVS (R148). -/
def execMovs (h : Hd) (o : Rrr) (s : State) : Host.Outcome State Fault Refusal := issue s (movsOp h o)

/-- SEL: A where pC is set, else B; both carry one tag, word by word. -/
def selOp (h : Hd) (o : Rrr) (s : State) (t : Team) : Except Trap Done := do
  let w := o.e.getLsbD 0
  let n := if w then 2 else 1
  let d ← t.vreg h.ixD o.d n w
  let a ← t.vreg h.ixA o.a n w
  let b ← t.vreg false o.b n
  let act := t.active h
  t.checkTags act a n Tag.any
  t.checkTags act b n Tag.any
  require ((List.range n).all fun i => (wordsOf act t.lanes).all fun k => t.vtag (a + i) k == t.vtag (b + i) k) Code.format
  let p := t.pred o.c.toNat
  return teamDone s ((List.range n).foldl (fun u i =>
    u.writeRegTags act (d + i) (t.vtag (a + i)) (fun l => if p.getLsbD l then t.lane (a + i) l else t.lane (b + i) l)
      (fun l => t.vtaint (a + i) l || t.vtaint (b + i) l)) t)

/-- SEL (R148). -/
def execSel (h : Hd) (o : Rrr) (s : State) : Host.Outcome State Fault Refusal := issue s (selOp h o)

/-! ## Compares (R149) and predicates (R150) -/

/-- A condition on an ordering; none when unordered. -/
def condHolds (c : Nat) (r : Option Ordering) : Bool :=
  match c with
  | 0 => r == some .eq
  | 1 => r != some .eq
  | 2 => r == some .lt
  | 3 => r == some .lt || r == some .eq
  | 4 => r == some .gt
  | 5 => r == some .gt || r == some .eq
  | 6 => r == none
  | _ => r != none

/-- A compare of two lane operands into a predicate. -/
def compareOp (h : Hd) (o : Rrr) (cmp : Nat → Nat → Option Ordering) (s : State) (t : Team) : Except Trap Done := do
  let ty := o.ty.toNat
  let n := regsOf ty
  let a ← t.vreg h.ixA o.a n (Tag.wide ty)
  let b ← t.vreg false o.b n
  let act := t.active h
  t.checkTags act a n [ty]
  t.checkTags act b n [ty]
  return teamDone s (t.writePred act o.d.toNat (maskOf act t.lanes fun l =>
    condHolds (o.e >>> 2).toNat (cmp (t.laneTy ty a l) (t.laneTy ty b l))))

/-- ICMP (R149). -/
def execIcmp (h : Hd) (o : Rrr) (s : State) : Host.Outcome State Fault Refusal :=
  issue s (compareOp h o fun a b => some (compare (intVal o.ty.toNat a) (intVal o.ty.toNat b)))

/-- The value of an F32 or F64 operand; flush-to-zero reaches F32 alone (R32). -/
def floatVal (t : Team) (ty : Tag) (x : Nat) : NumVal :=
  if ty == Tag.f64 then decodeFloat Fmt.f64 false x else decodeFloat Fmt.f32 t.ftz x

/-- FCMP (R149): no sticky flag. -/
def execFcmp (h : Hd) (o : Rrr) (s : State) : Host.Outcome State Fault Refusal :=
  issue s fun s t => compareOp h o (fun a b => NumVal.cmp (floatVal t o.ty.toNat a) (floatVal t o.ty.toNat b)) s t

/-- A predicate operation (R150). -/
def predOp (h : Hd) (o : Rrr) (f : Mask → Mask → Mask) (s : State) (t : Team) : Except Trap Done :=
  .ok (teamDone s (t.writePred (t.active h) o.d.toNat (f (t.pred o.a.toNat) (t.pred o.b.toNat))))

/-- PAND (R150). -/
def execPand (h : Hd) (o : Rrr) (s : State) : Host.Outcome State Fault Refusal := issue s (predOp h o fun a b => a &&& b)
/-- POR (R150). -/
def execPor (h : Hd) (o : Rrr) (s : State) : Host.Outcome State Fault Refusal := issue s (predOp h o fun a b => a ||| b)
/-- PXOR (R150). -/
def execPxor (h : Hd) (o : Rrr) (s : State) : Host.Outcome State Fault Refusal := issue s (predOp h o fun a b => a ^^^ b)
/-- PNOT (R150). -/
def execPnot (h : Hd) (o : Rrr) (s : State) : Host.Outcome State Fault Refusal := issue s (predOp h o fun a _ => ~~~a)

/-! ## Mask registers (R151) -/

/-- KMOV: between mask registers, or to or from a lane register. -/
def kmovOp (h : Hd) (o : Rrr) (s : State) (t : Team) : Except Trap Done := do
  let act := t.active h
  if o.e == 2 then
    let d ← t.vreg h.ixD o.d 1
    return teamDone s (t.writeReg act d Tag.n32 (fun l => (t.kreg o.a.toNat l).zeroExtend 32) (fun _ => false))
  else if o.e == 1 then
    let a ← t.vreg h.ixA o.a 1
    t.checkTag act a Tag.any
    return teamDone s (t.writeK act o.d.toNat fun l => (t.lane a l).truncate 16)
  else
    return teamDone s (t.writeK act o.d.toNat fun l => t.kreg o.a.toNat l)

/-- KMOV (R151). -/
def execKmov (h : Hd) (o : Rrr) (s : State) : Host.Outcome State Fault Refusal := issue s (kmovOp h o)

/-- A mask-register operation lane by lane. -/
def maskOp (h : Hd) (o : Rrr) (f : BitVec 16 → BitVec 16 → BitVec 16) (s : State) (t : Team) : Except Trap Done :=
  .ok (teamDone s (t.writeK (t.active h) o.d.toNat fun l => f (t.kreg o.a.toNat l) (t.kreg o.b.toNat l)))

/-- KAND (R151). -/
def execKand (h : Hd) (o : Rrr) (s : State) : Host.Outcome State Fault Refusal := issue s (maskOp h o fun a b => a &&& b)
/-- KOR (R151). -/
def execKor (h : Hd) (o : Rrr) (s : State) : Host.Outcome State Fault Refusal := issue s (maskOp h o fun a b => a ||| b)

/-- The bit number in lane L of vB, read as I32 or N32: none outside 0 to 15. -/
def Team.kbitNo (t : Team) (b l : Nat) : Option Nat :=
  let n := intVal (t.vtag b (l / 32)) (t.lane b l).toNat
  if n < 0 || 16 ≤ n then none else some n.toNat

/-- KBIT: pD := bit n of kA. -/
def kbitOp (h : Hd) (o : Rrr) (s : State) (t : Team) : Except Trap Done := do
  let b ← t.vreg false o.b 1
  let act := t.active h
  t.checkTag act b [Tag.i32, Tag.n32]
  return teamDone s (t.writePred act o.d.toNat (maskOf act t.lanes fun l =>
    match t.kbitNo b l with | none => false | some n => (t.kreg o.a.toNat l).getLsbD n))

/-- KBIT (R151). -/
def execKbit (h : Hd) (o : Rrr) (s : State) : Host.Outcome State Fault Refusal := issue s (kbitOp h o)

/-- KSET: kD := kA with bit n set, or cleared under `.clr`. -/
def ksetOp (h : Hd) (o : Rrr) (s : State) (t : Team) : Except Trap Done := do
  let b ← t.vreg false o.b 1
  let act := t.active h
  t.checkTag act b [Tag.i32, Tag.n32]
  return teamDone s (t.writeK act o.d.toNat fun l =>
    let k := t.kreg o.a.toNat l
    match t.kbitNo b l with
    | none => k
    | some n => if o.e.getLsbD 0 then k &&& ~~~(1#16 <<< n) else k ||| (1#16 <<< n))

/-- KSET (R151). -/
def execKset (h : Hd) (o : Rrr) (s : State) : Host.Outcome State Fault Refusal := issue s (ksetOp h o)

end Sys2Proof.Machine
end

