-- ==== Sys2Proof/Machine/Special.lean ====
section
/-! DEFINITION. The special functions of R154 and the rotation of R156: exact mathematical values, rounded once.
Irrational values are enclosed between two fixed-point bounds of `prec` fraction bits; the result is the common
rounding of both bounds (log entry 11). -/

namespace Sys2Proof.Machine

namespace Fix

/-- Fraction bits of the fixed-point numbers. -/
def prec : Nat := 1280
/-- One. -/
def one : Int := (2 ^ prec : Nat)
/-- Half the width of every enclosure, far above the error of the truncated series. -/
def eps : Int := (2 ^ 64 : Nat)
/-- Product of two fixed-point numbers. -/
def mul (a b : Int) : Int := (a * b) / one
/-- Quotient of two fixed-point numbers. -/
def div (a b : Int) : Int := (a * one) / b

/-- sum over k of x^(2k+1) * sign^k / (2k+1), for x = 1/n: `pw` holds the power, `k` the odd denominator. -/
def atanInv (n2 : Int) (alt : Bool) : Nat → Int → Int → Bool → Int → Int
  | 0, _, _, _, acc => acc
  | fuel + 1, pw, k, flip, acc =>
    let t := pw / k
    atanInv n2 alt fuel (pw / n2) (k + 2) (alt && !flip) (if flip then acc - t else acc + t)

/-- arctan(1/n). -/
def arctanInv (n : Int) (fuel : Nat) : Int := atanInv (n * n) true fuel (one / n) 1 false 0
/-- artanh(1/n). -/
def artanhInv (n : Int) (fuel : Nat) : Int := atanInv (n * n) false fuel (one / n) 1 false 0
/-- Pi, by Machin's formula. -/
def pi : Int := 16 * arctanInv 5 300 - 4 * arctanInv 239 100
/-- The natural logarithm of 2. -/
def ln2 : Int := 2 * artanhInv 3 420

/-- Taylor series of exp at x, for x from 0 to 1. -/
def expSeries (x : Int) : Nat → Int → Int → Int → Int
  | 0, _, _, acc => acc
  | fuel + 1, t, k, acc => expSeries x fuel (mul t x / k) (k + 1) (acc + t)
/-- exp(x) for x from 0 to 1. -/
def exp (x : Int) : Int := expSeries x 260 one 1 0

/-- Alternating Taylor series of sine and cosine at x with x2 = x * x. -/
def trigSeries (x2 : Int) : Nat → Int → Int → Int → Int
  | 0, _, _, acc => acc
  | fuel + 1, t, k, acc => trigSeries x2 fuel (-(mul t x2) / (k * (k + 1))) (k + 2) (acc + t)
/-- cos(x) for x from 0 to 2. -/
def cos (x : Int) : Int := trigSeries (mul x x) 150 one 1 0
/-- sin(x) for x from 0 to 2. -/
def sin (x : Int) : Int := trigSeries (mul x x) 150 x 2 0

/-- artanh(z) = z + z^3/3 + ..., for z from 0 to 1/3. -/
def artanhSeries (z2 : Int) : Nat → Int → Int → Int → Int
  | 0, _, _, acc => acc
  | fuel + 1, pw, k, acc => artanhSeries z2 fuel (mul pw z2) (k + 2) (acc + pw / k)
/-- ln(1 + ...) of a fixed-point number from 1 to 2. -/
def ln (y : Int) : Int := 2 * (let z := div (y - one) (y + one); artanhSeries (mul z z) 420 z 1 0)

/-- A dyadic m * 2^e, e of any sign, as a fixed-point number rounded down. -/
def ofDyadic (m : Nat) (e : Int) : Int :=
  let k := e + prec
  if 0 ≤ k then ((m <<< k.toNat : Nat) : Int) else ((m >>> (-k).toNat : Nat) : Int)

/-- The fixed-point number times 2^sh as an exact value. -/
def toNum (v sh : Int) : NumVal := .fin (v < 0) v.natAbs (sh - prec)

end Fix

/-- Integer square root by Newton's iteration from above. -/
def isqrtLoop (n : Nat) : Nat → Nat → Nat
  | 0, x => x
  | fuel + 1, x =>
    let y := (x + n / x) / 2
    if y < x then isqrtLoop n fuel y else x

/-- Floor of the square root. -/
def isqrt (n : Nat) : Nat := if n == 0 then 0 else isqrtLoop n (2 * Nat.log2 n + 4) (2 ^ (Nat.log2 n / 2 + 1))

/-- A truncated value with one more bit that says that something was cut off: it rounds as the exact value does. -/
def sticky (neg : Bool) (m : Nat) (e : Int) (exact : Bool) : NumVal :=
  .fin neg (2 * m + (if exact then 0 else 1)) (e - 1)

/-- 1/x for x = m * 2^e, m > 0. -/
def recip (neg : Bool) (m : Nat) (e : Int) : NumVal :=
  let k : Nat := 256
  sticky neg (2 ^ k / m) (-e - (k : Int)) (2 ^ k % m == 0)

/-- The square root of m * 2^e. -/
def sqrtNum (m : Nat) (e : Int) : NumVal :=
  let sh : Nat := if e % 2 == 0 then 200 else 201
  let v := m <<< sh
  let r := isqrt v
  sticky false r ((e - sh) / 2) (r * r == v)

/-- The reciprocal of the square root of m * 2^e. -/
def rsqrtNum (m : Nat) (e : Int) : NumVal :=
  let sh : Nat := if e % 2 == 0 then 400 else 401
  let v := 2 ^ sh / m
  let r := isqrt v
  sticky false r ((-e - sh) / 2) (r * r * m == 2 ^ sh)

/-- An enclosed value, or a special one. -/
inductive Enclosed where
  | exact (x : NumVal)
  | between (lo hi : NumVal)
  deriving DecidableEq, Repr

/-- The enclosure of a fixed-point approximation times 2^sh. -/
def Enclosed.near (v sh : Int) : Enclosed := .between (Fix.toNum (v - Fix.eps) sh) (Fix.toNum (v + Fix.eps) sh)

/-- 2^x for x = (-1)^neg * m * 2^e, x nonzero. -/
def exp2Num (neg : Bool) (m : Nat) (e : Int) : Enclosed :=
  if 0 ≤ e && (10 ≤ e || 1024 ≤ m <<< e.toNat) then .exact (.fin false 1 (if neg then -400 else 400))
  else
    let u := min e 0
    let v := NumVal.scaled neg m e u
    let d : Int := (2 ^ (-u).toNat : Nat)
    let n := Int.fdiv v d
    let f := Int.fmod v d
    if f == 0 then .exact (.fin false 1 n)
    else if d * 1024 ≤ v || v ≤ -(d * 1024) then .exact (.fin false 3 (if neg then -400 else 400))
    else .near (Fix.exp (Fix.mul (Fix.ofDyadic f.toNat u) Fix.ln2)) n

/-- log2 of m * 2^e, m > 0. -/
def log2Num (m : Nat) (e : Int) : Enclosed :=
  let n : Int := (Nat.log2 m : Int) + e
  if m == 2 ^ Nat.log2 m then .exact (NumVal.ofInt n)
  else
    let y := Fix.ofDyadic m (-(Nat.log2 m : Int))
    .near (n * Fix.one + Fix.div (Fix.ln y) Fix.ln2) 0

/-- exp(x) of x = m * 2^e as a fixed-point number and a power of two, for x below 1024. -/
def expNum (m : Nat) (e : Int) : Int × Int :=
  let x := Fix.ofDyadic m e
  let n := x / Fix.ln2
  (Fix.exp (x - n * Fix.ln2), n)

/-- tanh of x = (-1)^neg * m * 2^e, x nonzero. -/
def tanhNum (neg : Bool) (m : Nat) (e : Int) : Enclosed :=
  let lg : Int := (Nat.log2 m : Int) + e
  if 8 ≤ lg then .exact (.fin neg (2 ^ 100 - 1) (-100))
  else
    let (y, n) := expNum m (e + 1)
    let k : Int := (2 ^ n.toNat : Nat)
    let v := Fix.div (y * k - Fix.one) (y * k + Fix.one)
    .near (if neg then -v else v) 0

/-- 1/(1 + e^-x) of x = (-1)^neg * m * 2^e, x nonzero. -/
def sigmNum (neg : Bool) (m : Nat) (e : Int) : Enclosed :=
  let lg : Int := (Nat.log2 m : Int) + e
  if 8 ≤ lg then (if neg then .exact (.fin false 1 (-200)) else .exact (.fin false (2 ^ 100 - 1) (-100)))
  else
    let (y, n) := expNum m e
    let k : Int := (2 ^ n.toNat : Nat)
    let v := Fix.div Fix.one (Fix.one + y * k)
    .near (if neg then v else Fix.one - v) 0

/-- Sine and cosine of th = m * 2^e (th not negative), as fixed-point numbers. The reduction divides by pi/2 with as
many more bits as th has above the point. -/
def sinCos (m : Nat) (e : Int) : Int × Int :=
  let x := Fix.ofDyadic m e
  let h := Fix.pi / 2
  let q := x / h
  let r := x - q * h
  let s := Fix.sin r
  let c := Fix.cos r
  if q % 4 == 0 then (s, c) else if q % 4 == 1 then (c, -s) else if q % 4 == 2 then (-s, -c) else (-c, s)

/-- The half width of the enclosure of sine and cosine of an angle below 2^n: the reduction multiplies the error of pi
by the quotient. -/
def sinCosEps (m : Nat) (e : Int) : Int :=
  let lg : Int := (Nat.log2 m : Int) + e
  Fix.eps * (2 ^ lg.toNat : Nat)

/-- One rounding of an enclosed value: the common result of both bounds, or the free value where they differ. A result
of a bounded value is inexact. -/
def Enclosed.round (f : Fmt) (mode : Mode) (opt : RoundOpt) (free : Nat) : Enclosed → Nat × Sticky
  | .exact x => roundFloat f mode opt x
  | .between lo hi =>
    let a := roundFloat f mode opt lo
    let b := roundFloat f mode opt hi
    if a == b then (a.1, a.2 ||| Sticky.inx) else (free, Sticky.inx)

/-- The special function of FSFU (R154) at an FP32 operand: the value, and DZ or INV. -/
def sfu (fn : Nat) (x : NumVal) : Enclosed × Sticky :=
  match fn, x with
  | _, .nan => (.exact .nan, Sticky.none)
  | 0, .inf s => (.exact (.zero s), Sticky.none)
  | 0, .fin s m e => if m == 0 then (.exact (.inf s), Sticky.dz) else (.exact (recip s m e), Sticky.none)
  | 1, .inf s => if s then (.exact .nan, Sticky.inv) else (.exact (.zero false), Sticky.none)
  | 1, .fin s m e =>
    if m == 0 then (.exact (.inf s), Sticky.dz)
    else if s then (.exact .nan, Sticky.inv) else (.exact (rsqrtNum m e), Sticky.none)
  | 2, .inf s => if s then (.exact .nan, Sticky.inv) else (.exact (.inf false), Sticky.none)
  | 2, .fin s m e =>
    if m == 0 then (.exact (.zero s), Sticky.none)
    else if s then (.exact .nan, Sticky.inv) else (.exact (sqrtNum m e), Sticky.none)
  | 3, .inf s => (.exact (if s then .zero false else .inf false), Sticky.none)
  | 3, .fin s m e => if m == 0 then (.exact (NumVal.ofInt 1), Sticky.none) else (exp2Num s m e, Sticky.none)
  | 4, .inf s => if s then (.exact .nan, Sticky.inv) else (.exact (.inf false), Sticky.none)
  | 4, .fin s m e =>
    if m == 0 then (.exact (.inf true), Sticky.dz)
    else if s then (.exact .nan, Sticky.inv) else (log2Num m e, Sticky.none)
  | 5, .inf s => (.exact (.fin s 1 0), Sticky.none)
  | 5, .fin s m e => if m == 0 then (.exact (.zero s), Sticky.none) else (tanhNum s m e, Sticky.none)
  | 6, .inf s => (.exact (if s then .zero false else NumVal.ofInt 1), Sticky.none)
  | 6, .fin s m e => if m == 0 then (.exact (.fin false 1 (-1)), Sticky.none) else (sigmNum s m e, Sticky.none)
  | 7, .inf _ => (.exact .nan, Sticky.inv)
  | 7, .fin s m e =>
    if m == 0 then (.exact (.zero s), Sticky.none)
    else
      let v := (sinCos m e).1
      let d := sinCosEps m e
      let w := if s then -v else v
      (.between (Fix.toNum (w - d) 0) (Fix.toNum (w + d) 0), Sticky.none)
  | _, .inf _ => (.exact .nan, Sticky.inv)
  | _, .fin _ m e =>
    if m == 0 then (.exact (NumVal.ofInt 1), Sticky.none)
    else
      let v := (sinCos m e).2
      let d := sinCosEps m e
      (.between (Fix.toNum (v - d) 0) (Fix.toNum (v + d) 0), Sticky.none)

/-- x * c with c enclosed in v - d to v + d, as bounds of the product. -/
def scaleBounds (x : NumVal) (v d : Int) : NumVal × NumVal :=
  let a := NumVal.mul x (Fix.toNum (v - d) 0)
  let b := NumVal.mul x (Fix.toNum (v + d) 0)
  if x.neg then (b, a) else (a, b)

/-- One output of FROT (R156): x * c + y * s of two enclosed factors, for finite x and y. -/
def rotSum (x : NumVal) (c : Int) (y : NumVal) (s d : Int) : Enclosed :=
  let p := scaleBounds x c d
  let q := scaleBounds y s d
  .between (NumVal.add false p.1 q.1) (NumVal.add false p.2 q.2)

/-- The two outputs of FROT for x0, x1, the angle factor w and the position p: values and INV (R156). With p = 0 they are
the inputs, also where an input is infinite (log entry 29). -/
def frot (down : Bool) (x0 x1 : NumVal) (p : Nat) (w : NumVal) : (Enclosed × Sticky) × (Enclosed × Sticky) :=
  let both (x : Enclosed) (f : Sticky) := ((x, f), (x, f))
  if x0.isNan || x1.isNan || w.isNan then both (.exact .nan) Sticky.none
  else if w.isInf && p != 0 then both (.exact .nan) Sticky.inv
  else if p == 0 then ((.exact x0, Sticky.none), (.exact x1, Sticky.none))
  else
    match w with
    | .fin sw 0 _ =>
      let one := NumVal.ofInt 1
      let sum (x c y s : NumVal) : Enclosed × Sticky :=
        let v := NumVal.add down (NumVal.mul x c) (NumVal.mul y s)
        (.exact v, if v.isNan then Sticky.inv else Sticky.none)
      (sum x0 one x1 (.zero !sw), sum x0 (.zero sw) x1 one)
    | .fin sw m e =>
      let sc := sinCos (m * p) e
      let s := if sw then -sc.1 else sc.1
      let c := sc.2
      let d := sinCosEps (m * p) e
      let sum (x : NumVal) (c : Int) (y : NumVal) (s : Int) : Enclosed × Sticky :=
        if x.isInf || y.isInf then
          let v := NumVal.add down (NumVal.mul x (Fix.toNum c 0)) (NumVal.mul y (Fix.toNum s 0))
          (.exact v, if v.isNan then Sticky.inv else Sticky.none)
        else if x.isZero && y.isZero then
          (.exact (NumVal.add down (NumVal.mul x (Fix.toNum c 0)) (NumVal.mul y (Fix.toNum s 0))), Sticky.none)
        else (rotSum x c y s d, Sticky.none)
      (sum x0 c x1 (-s), sum x0 s x1 c)
    | _ => both (.exact .nan) Sticky.inv

end Sys2Proof.Machine
end

