-- ==== Sys2Proof/Machine/LaneFloat.lean ====
section
/-! DEFINITION. Floating-point arithmetic, special functions, conversion, packing, dot products and random numbers
(spec/07_lane_ops.md R152 to R162). -/

namespace Sys2Proof.Machine

/-! ## Element formats -/

/-- Element kinds of conversions and packed arithmetic. -/
inductive Elem where
  | f64 | f32 | f16 | bf16 | e4m3 | i32 | n32 | i64 | i8 | i4
  deriving DecidableEq, Repr

/-- The element kind of a tag. -/
def Elem.ofTag (t : Tag) : Elem :=
  match t with
  | 1 => .i32
  | 2 => .n32
  | 3 => .f32
  | 4 => .f16
  | 5 => .bf16
  | 6 => .e4m3
  | 7 => .i8
  | 8 => .i4
  | 10 => .i64
  | _ => .f64

/-- Elements a register of a tag holds (R34). -/
def elemCount (t : Tag) : Nat := if t == 4 || t == 5 then 2 else if t == 6 || t == 7 then 4 else if t == 8 then 8 else 1

/-- The floating-point format of an element kind, none for an integer. -/
def Elem.fmt : Elem → Option Fmt
  | .f64 => some Fmt.f64
  | .f32 => some Fmt.f32
  | .f16 => some Fmt.f16
  | .bf16 => some Fmt.bf16
  | .e4m3 => some Fmt.e4m3
  | _ => none

/-- The range of an integer kind (R33). -/
def Elem.range : Elem → Int × Int
  | .n32 => (0, 2 ^ 32 - 1)
  | .i64 => (-2 ^ 63, 2 ^ 63 - 1)
  | .i8 => (-128, 127)
  | .i4 => (-7, 7)
  | _ => (-2 ^ 31, 2 ^ 31 - 1)

/-- The integer an element's bits denote (R33). -/
def Elem.int : Elem → Nat → Int
  | .i32, b => (BitVec.ofNat 32 b).toInt
  | .i64, b => (BitVec.ofNat 64 b).toInt
  | .i8, b => (BitVec.ofNat 8 b).toInt
  | .i4, b => (decodeI4 (b % 16)).1
  | _, b => b

/-- Bits of an element. -/
def Elem.width : Elem → Nat
  | .f64 | .i64 => 64
  | .f16 | .bf16 => 16
  | .e4m3 | .i8 => 8
  | .i4 => 4
  | _ => 32

/-- `decode(fmt, bits)` (R51). -/
def Elem.decode (e : Elem) (ftz : Bool) (b : Nat) : NumVal :=
  match e.fmt with
  | some f => decodeFloat f (ftz && e != .f64 && e != .e4m3) (b % 2 ^ e.width)
  | none => NumVal.ofInt (e.int (b % 2 ^ e.width))

/-- `round(x, fmt, mode, rho)` (R51): the element's bits and the flags. -/
def Elem.round (e : Elem) (mode : Mode) (opt : RoundOpt) (x : NumVal) : Nat × Sticky :=
  match e.fmt with
  | some f => roundFloat f mode { opt with ftz := opt.ftz && e != .f64 && e != .e4m3 } x
  | none =>
    let r := roundInt e.range.1 e.range.2 mode x
    ((r.1 % 2 ^ e.width).toNat, r.2)

/-- Element i of a register's bits (R34). -/
def elemBits (m : Nat) (x i : Nat) : Nat := x / 2 ^ (32 / m * i) % 2 ^ (32 / m)

/-- The register that m elements form (R34). -/
def joinElems (m : Nat) (es : List Nat) : Nat := es.zipIdx.foldl (fun a (e, i) => a + e * 2 ^ (32 / m * i)) 0

/-- Several results joined: the register and all flags. -/
def joinResults (m : Nat) (rs : List (Nat × Sticky)) : List Lane32 × Sticky :=
  ([BitVec.ofNat 32 (joinElems m (rs.map (·.1)))], rs.foldl (fun f r => f ||| r.2) Sticky.none)

/-- INV of a NaN made from operands that are none (R31). -/
def invOf (x : NumVal) (ops : List NumVal) : Sticky := if x.isNan && !ops.any NumVal.isNan then Sticky.inv else Sticky.none

/-! ## Floating-point arithmetic (R152, R153, R155) -/

/-- The exact results of R152: the operation applied under a mode. -/
inductive FloatOp where
  | add | sub | mul | fma
  deriving DecidableEq, Repr

/-- e of R152. -/
def FloatOp.exact (op : FloatOp) (down : Bool) (a b c : NumVal) : NumVal :=
  match op with
  | .add => NumVal.add down a b
  | .sub => NumVal.add down a b.negate
  | .mul => NumVal.mul a b
  | .fma => NumVal.add down (NumVal.mul a b) c

/-- The operands of an operation. -/
def FloatOp.ops (op : FloatOp) (a b c : NumVal) : List NumVal := if op == .fma then [a, b, c] else [a, b]

/-- One element of R152: the exact result rounded once, with INV. -/
def FloatOp.apply (op : FloatOp) (e : Elem) (rm : Nat) (ftz : Bool) (a b c : Nat) : Nat × Sticky :=
  let x := e.decode ftz a
  let y := e.decode ftz b
  let z := e.decode ftz c
  let v := op.exact (rm == 3) x y z
  let r := e.round (Mode.ofField rm 0) { ftz := ftz } v
  (r.1, r.2 ||| invOf v (op.ops x y z))

/-- An instruction of R152 on F32 or F64. -/
def floatOp (op : FloatOp) (h : Hd) (o : Rrr) (_ : State) (t : Team) : Except Trap (Team) := do
  let ty := o.ty.toNat
  let n := regsOf ty
  let d ← t.vreg h.ixD o.d n (Tag.wide ty)
  let a ← t.vreg h.ixA o.a n (Tag.wide ty)
  let b ← t.vreg false o.b n
  let c ← if op == .fma then t.vreg false o.c n else .ok b
  let act := t.active h
  t.checkTags act a n [ty]
  t.checkTags act b n [ty]
  t.checkTags act c n [ty]
  return t.laneResult act d (tagsOfTy ty) (regList a n ++ regList b n ++ regList c n) fun l =>
    let r := op.apply (Elem.ofTag ty) o.rm.toNat t.ftz (t.laneTy ty a l) (t.laneTy ty b l) (t.laneTy ty c l)
    (regsOfVal ty r.1, r.2)

/-- A team effect as the outcome of an instruction. -/
def teamOp (f : State → Team → Except Trap Team) (s : State) (t : Team) : Except Trap Done :=
  match f s t with
  | .ok u => .ok (teamDone s u)
  | .error e => .error e

/-- FADD (R152). -/
def execFadd (h : Hd) (o : Rrr) (s : State) : Host.Outcome State Fault Refusal := issue s (teamOp (floatOp .add h o))
/-- FSUB (R152). -/
def execFsub (h : Hd) (o : Rrr) (s : State) : Host.Outcome State Fault Refusal := issue s (teamOp (floatOp .sub h o))
/-- FMUL (R152). -/
def execFmul (h : Hd) (o : Rrr) (s : State) : Host.Outcome State Fault Refusal := issue s (teamOp (floatOp .mul h o))
/-- FFMA (R152). -/
def execFfma (h : Hd) (o : Rrr) (s : State) : Host.Outcome State Fault Refusal := issue s (teamOp (floatOp .fma h o))

/-- The lesser, or greater, of two values under R153: the other one when exactly one is NaN. -/
def minMaxNum (max : Bool) (x y : NumVal) : NumVal :=
  if x.isNan then y else if y.isNan then x
  else if NumVal.le153 x y then (if max then y else x) else (if max then x else y)

/-- FMIN and FMAX: no flag. -/
def minMaxOp (max : Bool) (h : Hd) (o : Rrr) (_ : State) (t : Team) : Except Trap Team := do
  let ty := o.ty.toNat
  let n := regsOf ty
  let d ← t.vreg h.ixD o.d n (Tag.wide ty)
  let a ← t.vreg h.ixA o.a n (Tag.wide ty)
  let b ← t.vreg false o.b n
  let act := t.active h
  t.checkTags act a n [ty]
  t.checkTags act b n [ty]
  return t.laneResult act d (tagsOfTy ty) (regList a n ++ regList b n) fun l =>
    let e := Elem.ofTag ty
    let v := minMaxNum max (e.decode t.ftz (t.laneTy ty a l)) (e.decode t.ftz (t.laneTy ty b l))
    (regsOfVal ty (e.round .rne {} v).1, Sticky.none)

/-- FMIN (R153). -/
def execFmin (h : Hd) (o : Rrr) (s : State) : Host.Outcome State Fault Refusal := issue s (teamOp (minMaxOp false h o))
/-- FMAX (R153). -/
def execFmax (h : Hd) (o : Rrr) (s : State) : Host.Outcome State Fault Refusal := issue s (teamOp (minMaxOp true h o))

/-- One result of FSFU: the exact value of the function, rounded once (R154). -/
def sfuResult (fn rm : Nat) (ftz : Bool) (a : Nat) : Nat × Sticky :=
  let v := sfu fn (Elem.f32.decode ftz a)
  let r := v.1.round Fmt.f32 (Mode.ofField rm 0) { ftz := ftz } (Config.special fn a)
  (r.1, r.2 ||| v.2)

/-- FSFU. -/
def fsfuOp (h : Hd) (o : Rrr) (_ : State) (t : Team) : Except Trap Team := do
  let d ← t.vreg h.ixD o.d 1
  let a ← t.vreg h.ixA o.a 1
  let act := t.active h
  t.checkTag act a [Tag.f32]
  return t.laneResult act d [Tag.f32] [a] fun l =>
    let r := sfuResult (o.e >>> 2).toNat o.rm.toNat t.ftz (t.lane a l).toNat
    (regsOfVal Tag.f32 r.1, r.2)

/-- FSFU (R154). -/
def execFsfu (h : Hd) (o : Rrr) (s : State) : Host.Outcome State Fault Refusal :=
  issueLong s h.fb (hasLane h) (teamOp (fsfuOp h o))

/-- Packed 16-bit arithmetic: R152 on both elements (R155). -/
def packedOp (op : FloatOp) (ty : Tag) (h : Hd) (o : Rrr) (_ : State) (t : Team) : Except Trap Team := do
  let d ← t.vreg h.ixD o.d 1
  let a ← t.vreg h.ixA o.a 1
  let b ← t.vreg false o.b 1
  let c ← if op == .fma then t.vreg false o.c 1 else .ok b
  let act := t.active h
  t.checkTag act a [ty]
  t.checkTag act b [ty]
  t.checkTag act c [ty]
  return t.laneResult act d [ty] [a, b, c] fun l =>
    joinResults 2 ((List.range 2).map fun i =>
      op.apply (Elem.ofTag ty) o.rm.toNat t.ftz (elemBits 2 (t.lane a l).toNat i) (elemBits 2 (t.lane b l).toNat i)
        (elemBits 2 (t.lane c l).toNat i))

/-- HADD2 (R155). -/
def execHadd2 (h : Hd) (o : Rrr) (s : State) : Host.Outcome State Fault Refusal :=
  issue s (teamOp (packedOp .add Tag.h16x2 h o))
/-- HMUL2 (R155). -/
def execHmul2 (h : Hd) (o : Rrr) (s : State) : Host.Outcome State Fault Refusal :=
  issue s (teamOp (packedOp .mul Tag.h16x2 h o))
/-- HFMA2 (R155). -/
def execHfma2 (h : Hd) (o : Rrr) (s : State) : Host.Outcome State Fault Refusal :=
  issue s (teamOp (packedOp .fma Tag.h16x2 h o))
/-- BADD2 (R155). -/
def execBadd2 (h : Hd) (o : Rrr) (s : State) : Host.Outcome State Fault Refusal :=
  issue s (teamOp (packedOp .add Tag.b16x2 h o))
/-- BMUL2 (R155). -/
def execBmul2 (h : Hd) (o : Rrr) (s : State) : Host.Outcome State Fault Refusal :=
  issue s (teamOp (packedOp .mul Tag.b16x2 h o))
/-- BFMA2 (R155). -/
def execBfma2 (h : Hd) (o : Rrr) (s : State) : Host.Outcome State Fault Refusal :=
  issue s (teamOp (packedOp .fma Tag.b16x2 h o))

/-! ## Rotation (R156) -/

/-- FROT. -/
def frotOp (h : Hd) (o : Rrr) (_ : State) (t : Team) : Except Trap Team := do
  let d ← t.vreg h.ixD o.d 2 true
  let a ← t.vreg h.ixA o.a 2 true
  let b ← t.vreg false o.b 1
  let c ← t.vreg false o.c 1
  let act := t.active h
  t.checkTags act a 2 [Tag.f32]
  t.checkTag act b [Tag.f32]
  t.checkTag act c [Tag.n32]
  let f (v l : Nat) : NumVal := Elem.f32.decode t.ftz (t.lane v l).toNat
  return t.laneResult act d [Tag.f32, Tag.f32] [a, a + 1, b, c] fun l =>
    let r := frot (o.rm == 3) (f a l) (f (a + 1) l) (t.lane c l).toNat (f b l)
    let free (i : Nat) : Nat :=
      Config.special (9 + i) ((t.lane64 a l).toNat + (t.lane b l).toNat * 2 ^ 64 + (t.lane c l).toNat * 2 ^ 96)
    let mode := Mode.ofField o.rm.toNat 0
    let p := r.1.1.round Fmt.f32 mode { ftz := t.ftz } (free 0)
    let q := r.2.1.round Fmt.f32 mode { ftz := t.ftz } (free 1)
    (regsOfVal Tag.f32 p.1 ++ regsOfVal Tag.f32 q.1, p.2 ||| r.1.2 ||| q.2 ||| r.2.2)

/-- FROT (R156). -/
def execFrot (h : Hd) (o : Rrr) (s : State) : Host.Outcome State Fault Refusal := issue s (teamOp (frotOp h o))

/-! ## Conversion (R157, R158) -/

/-- The tags of a random operand (R157, R159). -/
def randomTags : List Tag := [Tag.n32, Tag.i32, Tag.raw]

/-- The random operand's register under RS; the field is reserved in the other modes. -/
def Team.randomReg (t : Team) (act : Mask) (rm : BitVec 3) (c : BitVec 8) : Except Trap (Option Nat) :=
  if rm == 4 then do
    let r ← t.vreg false c 1
    t.checkTag act r randomTags
    return some r
  else .ok none

/-- rho of element i of m (R157). -/
def Team.rho (t : Team) (c : Option Nat) (l m i : Nat) : Nat :=
  match c with
  | none => 0
  | some r => (rot32 (t.lane r l) (32 / m * i)).toNat

/-- One element of a conversion. -/
def cvtElem (src dst : Elem) (ftz : Bool) (mode : Mode) (sat nanovf : Bool) (x : Nat) : Nat × Sticky :=
  let ftz := ftz && src != .f64 && dst != .f64 && src != .e4m3 && dst != .e4m3
  dst.round mode { ftz := ftz, sat := sat, nanovf := nanovf } (src.decode ftz x)

/-- CVT: the four cases of R157. -/
def cvtOp (h : Hd) (o : Rrr) (_ : State) (t : Team) : Except Trap Team := do
  let dst := o.ty.toNat
  let src := (o.e >>> 2).toNat
  let nanovf := o.e.getLsbD 1
  let hi := o.e.getLsbD 0
  let cs := Wf.cvtCase dst src
  let d ← t.vreg h.ixD o.d (regsOf dst) (Tag.wide dst)
  let a ← t.vreg h.ixA o.a (regsOf src) (Tag.wide src)
  let b ← if cs == some .join then t.vreg false o.b 1 else .ok a
  let act := t.active h
  let c ← t.randomReg act o.rm o.c
  t.checkTags act a (regsOf src) [src]
  t.checkTag act b [src]
  let regs := regList a (regsOf src) ++ [b] ++ c.toList
  let one (l m i x : Nat) : Nat × Sticky :=
    cvtElem (Elem.ofTag src) (Elem.ofTag dst) t.ftz (Mode.ofField o.rm.toNat (t.rho c l m i)) o.sat nanovf x
  return t.laneResult act d (tagsOfTy dst) regs fun l =>
    match cs with
    | some .join => joinResults 2 [one l 2 0 (t.lane a l).toNat, one l 2 1 (t.lane b l).toNat]
    | some .split =>
      let r := one l 1 0 (elemBits 2 (t.lane a l).toNat (if hi then 1 else 0))
      (regsOfVal dst r.1, r.2)
    | some .elementwise =>
      let m := elemCount dst
      joinResults m ((List.range m).map fun i => one l m i (elemBits m (t.lane a l).toNat i))
    | _ =>
      let r := one l 1 0 (t.laneTy src a l)
      (regsOfVal dst r.1, r.2)

/-- CVT (R157). -/
def execCvt (h : Hd) (o : Rrr) (s : State) : Host.Outcome State Fault Refusal := issue s (teamOp (cvtOp h o))

/-- REINT: bits and taint copied, a tag written. -/
def reintOp (h : Hd) (o : Rrr) (_ : State) (t : Team) : Except Trap Team := do
  let ty := o.ty.toNat
  let n := regsOf ty
  let d ← t.vreg h.ixD o.d n (Tag.wide ty)
  let a ← t.vreg h.ixA o.a n (Tag.wide ty)
  let act := t.active h
  t.checkTags act a n Tag.any
  return (List.range n).foldl (fun u i => u.writeReg act (d + i) ty (t.lane (a + i)) (t.vtaint (a + i))) t

/-- REINT (R158). -/
def execReint (h : Hd) (o : Rrr) (s : State) : Host.Outcome State Fault Refusal := issue s (teamOp (reintOp h o))

/-! ## Packing (R159, R160) -/

/-- PACK4 and PACK8: m registers into the elements of one. -/
def packOp (m : Nat) (h : Hd) (o : Rrr) (_ : State) (t : Team) : Except Trap Team := do
  let dst := o.ty.toNat
  let src := (o.e >>> 2).toNat
  let d ← t.vreg h.ixD o.d 1
  let a ← t.vreg h.ixA o.a m
  let act := t.active h
  let c ← t.randomReg act o.rm o.c
  t.checkTags act a m [src]
  return t.laneResult act d [dst] (regList a m ++ c.toList) fun l =>
    joinResults m ((List.range m).map fun i =>
      cvtElem (Elem.ofTag src) (Elem.ofTag dst) t.ftz (Mode.ofField o.rm.toNat (t.rho c l m i)) false false
        (t.lane (a + i) l).toNat)

/-- PACK4 (R159). -/
def execPack4 (h : Hd) (o : Rrr) (s : State) : Host.Outcome State Fault Refusal := issue s (teamOp (packOp 4 h o))
/-- PACK8 (R159). -/
def execPack8 (h : Hd) (o : Rrr) (s : State) : Host.Outcome State Fault Refusal := issue s (teamOp (packOp 8 h o))

/-- The INT4 code 1000b among the elements of a register. -/
def hasReserved (x : Lane32) : Bool := (List.range 8).any fun i => elemBits 8 x.toNat i == 8

/-- UNPK4 and UNPK8: the elements of one register into m registers, exactly. -/
def unpackOp (m : Nat) (h : Hd) (o : Rrr) (_ : State) (t : Team) : Except Trap Team := do
  let dst := o.ty.toNat
  let src := (o.e >>> 2).toNat
  let d ← t.vreg h.ixD o.d m
  let a ← t.vreg h.ixA o.a 1
  let act := t.active h
  t.checkTag act a [src]
  require (!(src == Tag.i4x8 && t.i4trap && (lanesOf act t.lanes).any fun l => hasReserved (t.lane a l))) Code.arith
  return t.laneResult act d (List.replicate m dst) [a] fun l =>
    let x := (t.lane a l)
    ((List.range m).map fun i =>
        BitVec.ofNat 32 ((Elem.ofTag dst).round .rne {} ((Elem.ofTag src).decode false (elemBits m x.toNat i))).1,
      if src == Tag.i4x8 && hasReserved x then Sticky.rsv4 else Sticky.none)

/-- UNPK4 (R160). -/
def execUnpk4 (h : Hd) (o : Rrr) (s : State) : Host.Outcome State Fault Refusal := issue s (teamOp (unpackOp 4 h o))
/-- UNPK8 (R160). -/
def execUnpk8 (h : Hd) (o : Rrr) (s : State) : Host.Outcome State Fault Refusal := issue s (teamOp (unpackOp 8 h o))

/-! ## Dot products (R161) -/

/-- The exact sum of four INT8 products. -/
def dot8 (a b : Nat) : Int :=
  (List.range 4).foldl (fun (x : Int) i => x + Elem.i8.int (elemBits 4 a i) * Elem.i8.int (elemBits 4 b i)) 0

/-- IDP4. -/
def idp4Op (h : Hd) (o : Rrr) (_ : State) (t : Team) : Except Trap Team := do
  let d ← t.vreg h.ixD o.d 1
  let a ← t.vreg h.ixA o.a 1
  let b ← t.vreg false o.b 1
  let c ← t.vreg false o.c 1
  let act := t.active h
  t.checkTag act a [Tag.i8x4]
  t.checkTag act b [Tag.i8x4]
  t.checkTag act c [Tag.i32]
  return t.laneResult act d [Tag.i32] [a, b, c] fun l =>
    let r := intOut Tag.i32 o.sat (dot8 (t.lane a l).toNat (t.lane b l).toNat + (t.lane c l).toInt)
    (regsOfVal Tag.i32 r.1, r.2)

/-- IDP4 (R161). -/
def execIdp4 (h : Hd) (o : Rrr) (s : State) : Host.Outcome State Fault Refusal := issue s (teamOp (idp4Op h o))

/-- The exact sum of four E4M3 products and C (R161; the sign of an exact zero: log entry 29). -/
def dotE4 (down : Bool) (a b : Nat) (c : NumVal) : NumVal :=
  let p (i : Nat) : NumVal := NumVal.mul (Elem.e4m3.decode false (elemBits 4 a i)) (Elem.e4m3.decode false (elemBits 4 b i))
  NumVal.add down (NumVal.add down (NumVal.add down (NumVal.add down (p 0) (p 1)) (p 2)) (p 3)) c

/-- EDP4. -/
def edp4Op (h : Hd) (o : Rrr) (_ : State) (t : Team) : Except Trap Team := do
  let d ← t.vreg h.ixD o.d 1
  let a ← t.vreg h.ixA o.a 1
  let b ← t.vreg false o.b 1
  let c ← t.vreg false o.c 1
  let act := t.active h
  t.checkTag act a [Tag.e4m3x4]
  t.checkTag act b [Tag.e4m3x4]
  t.checkTag act c [Tag.f32]
  return t.laneResult act d [Tag.f32] [a, b, c] fun l =>
    let v := dotE4 (o.rm == 3) (t.lane a l).toNat (t.lane b l).toNat (Elem.f32.decode t.ftz (t.lane c l).toNat)
    let r := Elem.f32.round (Mode.ofField o.rm.toNat 0) { ftz := t.ftz } v
    (regsOfVal Tag.f32 r.1, r.2)

/-- EDP4 (R161). -/
def execEdp4 (h : Hd) (o : Rrr) (s : State) : Host.Outcome State Fault Refusal := issue s (teamOp (edp4Op h o))

/-! ## Random numbers (R162) -/

/-- Rounds of Philox-4x32-10 on a counter under a key. -/
def philox : Nat → Nat → Nat → Nat × Nat × Nat × Nat → Nat × Nat × Nat × Nat
  | 0, _, _, c => c
  | n + 1, k0, k1, (c0, c1, c2, c3) =>
    let p := 0xD2511F53 * c0
    let q := 0xCD9E8D57 * c2
    let c := (((q / 2 ^ 32) ^^^ c1) ^^^ k0, q % 2 ^ 32, ((p / 2 ^ 32) ^^^ c3) ^^^ k1, p % 2 ^ 32)
    philox n ((k0 + 0x9E3779B9) % 2 ^ 32) ((k1 + 0xBB67AE85) % 2 ^ 32) c

/-- RNG. -/
def rngOp (h : Hd) (o : Rrr) (_ : State) (t : Team) : Except Trap Team := do
  let d ← t.vreg h.ixD o.d 4
  let b ← t.vreg false o.b 4
  let act := t.active h
  let key ← t.scalar o.a.toNat addrTags
  t.checkTags act b 4 randomTags
  let k0 := key.toNat % 2 ^ 32
  let k1 := key.toNat / 2 ^ 32
  let c (i l : Nat) : Nat := (t.lane (b + i) l).toNat
  let st := (t.sreg o.a.toNat).taint
  return t.writeRegs act d (List.replicate 4 Tag.n32)
    (fun l =>
      let r := philox 10 k0 k1 (c 0 l, c 1 l, c 2 l, c 3 l)
      [BitVec.ofNat 32 r.1, BitVec.ofNat 32 r.2.1, BitVec.ofNat 32 r.2.2.1, BitVec.ofNat 32 r.2.2.2])
    (fun l => st || (regList b 4).any fun v => t.vtaint v l)

/-- RNG (R162). -/
def execRng (h : Hd) (o : Rrr) (s : State) : Host.Outcome State Fault Refusal :=
  issueLong s h.fb (hasLane h) (teamOp (rngOp h o))

end Sys2Proof.Machine
end

