-- ==== Sys2Proof/Machine/Scalar.lean ====
section
/-! DEFINITION. The scalar-file instructions (spec/07_lane_ops.md R163 to R165). -/

namespace Sys2Proof.Machine

/-- SADD and SMUL on operands of one type: wrapped to its bits, the high bits zero. -/
def scalarArith (f : Nat → Nat → Nat) (o : Rrr) (_ : State) (t : Team) : Except Trap Team := do
  let ty := o.ty.toNat
  let a ← t.scalar o.a.toNat [ty]
  let b ← t.scalar o.b.toNat [ty]
  let taint := (t.sreg o.a.toNat).taint || (t.sreg o.b.toNat).taint
  return t.setS o.d.toNat (BitVec.ofNat 64 (f a.toNat b.toNat % 2 ^ intBits ty)) ty taint

/-- SADD (R163). -/
def execSadd (_ : Hd) (o : Rrr) (s : State) : Host.Outcome State Fault Refusal :=
  issue s (teamOp (scalarArith (fun a b => a + b) o))
/-- SMUL (R163). -/
def execSmul (_ : Hd) (o : Rrr) (s : State) : Host.Outcome State Fault Refusal :=
  issue s (teamOp (scalarArith (fun a b => a * b) o))

/-- SAND and SOR: the logic rule of R50 over 64 bits. -/
def scalarLogic (f : Word → Word → Word) (o : Rrr) (_ : State) (t : Team) : Except Trap Team := do
  let a ← t.scalar o.a.toNat Tag.any
  let b ← t.scalar o.b.toNat Tag.any
  let x := t.sreg o.a.toNat
  let y := t.sreg o.b.toNat
  return t.setS o.d.toNat (f a b) (logicTag x.tag y.tag) (x.taint || y.taint)

/-- SAND (R163). -/
def execSand (_ : Hd) (o : Rrr) (s : State) : Host.Outcome State Fault Refusal :=
  issue s (teamOp (scalarLogic (fun a b => a &&& b) o))
/-- SOR (R163). -/
def execSor (_ : Hd) (o : Rrr) (s : State) : Host.Outcome State Fault Refusal :=
  issue s (teamOp (scalarLogic (fun a b => a ||| b) o))

/-- The result of SSHL: A of a tag shifted by n (R164). -/
def sshlBits (tag : Tag) (a : Nat) (n : Int) : Nat :=
  let w := if tag == Tag.i64 || tag == Tag.raw then 64 else 32
  let x := a % 2 ^ w
  if 0 ≤ n then shlBits w x n.toNat
  else if tag == Tag.i64 || tag == Tag.i32 then sarBits w x (-n).toNat
  else shrBits w x (-n).toNat

/-- SSHL. -/
def sshlOp (o : Rrr) (_ : State) (t : Team) : Except Trap Team := do
  let a ← t.scalar o.a.toNat [Tag.i64, Tag.raw, Tag.i32, Tag.n32]
  let _ ← t.scalar o.b.toNat [Tag.i64, Tag.i32]
  let x := t.sreg o.a.toNat
  let y := t.sreg o.b.toNat
  return t.setS o.d.toNat (BitVec.ofNat 64 (sshlBits x.tag a.toNat y.int)) x.tag (x.taint || y.taint)

/-- SSHL (R164). -/
def execSshl (_ : Hd) (o : Rrr) (s : State) : Host.Outcome State Fault Refusal := issue s (teamOp (sshlOp o))

/-- SCMP: the predicate write is a lane effect. -/
def scmpOp (h : Hd) (o : Rrr) (_ : State) (t : Team) : Except Trap Team := do
  let ty := o.ty.toNat
  let a ← t.scalar o.a.toNat [ty]
  let b ← t.scalar o.b.toNat [ty]
  let v (x : Word) : Int := intVal ty (x.toNat % 2 ^ intBits ty)
  let r := condHolds (o.e >>> 2).toNat (some (compare (v a) (v b)))
  let act := t.active h
  return t.writePred act o.d.toNat (if r then act else 0)

/-- SCMP (R163). -/
def execScmp (h : Hd) (o : Rrr) (s : State) : Host.Outcome State Fault Refusal := issue s (teamOp (scmpOp h o))

/-- SMOV: tag and taint copied. -/
def smovOp (o : Rrr) (_ : State) (t : Team) : Except Trap Team := do
  let a ← t.scalar o.a.toNat Tag.any
  let x := t.sreg o.a.toNat
  return t.setS o.d.toNat a x.tag x.taint

/-- SMOV (R163). -/
def execSmov (_ : Hd) (o : Rrr) (s : State) : Host.Outcome State Fault Refusal := issue s (teamOp (smovOp o))

/-- SMOVI and SMOVI.hi. -/
def smoviOp (o : Li) (_ : State) (t : Team) : Except Trap Team := do
  let d := o.d.toNat
  if o.e.getLsbD 1 then
    let x ← t.scalar d [Tag.i64, Tag.raw]
    return t.setS d (o.imm ++ x.truncate 32) (t.sreg d).tag
  else
    let tag := (o.e >>> 2).toNat
    return t.setS d (if tag == Tag.i64 then o.imm.signExtend 64 else o.imm.zeroExtend 64) tag

/-- SMOVI (R165). -/
def execSmovi (_ : Hd) (o : Li) (s : State) : Host.Outcome State Fault Refusal := issue s (teamOp (smoviOp o))

end Sys2Proof.Machine
end

