-- ==== Sys2Proof/Machine/Access.lean ====
section
/-! DEFINITION. Addresses: the page-table walk, permissions and translation caches, the windows, and the bytes a team
reads and writes through them (spec/09_page.md R192 to R205, spec/04_memory_spaces.md R69 to R73, R81, R82). -/

namespace Sys2Proof.Machine

/-- The access kinds of R204. -/
inductive Access where
  | rd | wr | rmw | ex
  deriving DecidableEq, Repr

/-- The code of an access kind (R204). -/
def Access.code : Access → Nat
  | .rd => 0
  | .wr => 1
  | .rmw => 2
  | .ex => 3

/-! ## Fault kinds (R202) -/

namespace Kind
def notPresent : Nat := 1
def writeProt : Nat := 2
def readProt : Nat := 3
def execProt : Nat := 4
def malformed : Nat := 5
def keySlot : Nat := 6
def unpopulated : Nat := 7
def nonCanon : Nat := 8
/-- The two kinds that park the team. -/
def replayable (k : Nat) : Bool := k == notPresent || k == writeProt
/-- The error code of any other kind. -/
def errCode (k : Nat) : Nat := if k == keySlot then Code.key else Code.access
end Kind

/-- What one lane's check ends in: an error code, with the fault kind and level when translation raised it, or a
replayable kind and its level. -/
inductive LErr where
  | err (code : Nat) (k : Option (Nat × Nat))
  | park (kind level : Nat)
  /-- The address lies in a package no link reaches (R400): ACCESS for a team, TIMEOUT for an engine. -/
  | unreachable
  deriving DecidableEq, Repr

/-- A fault kind as a lane meets it. -/
def LErr.ofKind (kind level : Nat) : LErr :=
  if Kind.replayable kind then .park kind level else .err (Kind.errCode kind) (some (kind, level))

/-! ## Page entries (R193 to R195) -/

/-- Bytes of a page of each size; none for the malformed size 7. -/
def pageSize (size : Nat) : Nat := ([2 ^ 12, 2 ^ 14, 2 ^ 16, 2 ^ 21, 2 ^ 25, 2 ^ 30, 2 ^ 34][size]?).getD 0

/-- The level a page size stands at. -/
def pageLevel (size : Nat) : Nat := ([0, 0, 0, 1, 1, 2, 2][size]?).getD 3

/-- The index bits of a level. -/
def levelIndex (va : Nat) : Nat → Nat
  | 3 => bitsOf va 56 39
  | 2 => bitsOf va 38 30
  | 1 => bitsOf va 29 21
  | _ => bitsOf va 20 12

/-- PTE.PA as an address. -/
def ptePa (w0 : Nat) : Nat := bitsOf w0 55 12 * 2 ^ 12

/-- A valid entry is malformed at a level (R195). -/
def pteMalformed (lvl w0 w1 : Nat) : Bool :=
  if w0.testBit 1 then
    let size := bitsOf w0 4 2
    w0.testBit 11 || bitsOf w0 63 56 != 0 || w1.testBit 7 || bitsOf w1 63 16 != 0 ||
      (!w1.testBit 12 && bitsOf w1 15 13 != 0) || size == 7 || lvl == 3 || pageLevel size != lvl ||
      ptePa w0 % pageSize size != 0 || bitsOf w1 9 8 == 3
  else
    bitsOf w0 11 2 != 0 || bitsOf w0 63 56 != 0 || w1 != 0 || lvl == 0 || ptePa w0 % 2 ^ 13 != 0

/-- The leaf an entry's words hold (R194). -/
def leafOf (w0 w1 : Nat) : Leaf :=
  { base := ptePa w0, size := bitsOf w0 4 2, rd := w0.testBit 5, wr := w0.testBit 6, ex := w0.testBit 7,
    pin := w0.testBit 8, dirty := w0.testBit 10, key := bitsOf w1 6 0, grain := bitsOf w1 9 8, ret := bitsOf w1 11 10,
    place := w1.testBit 12, hdie := bitsOf w1 15 13 }

/-- Bytes of a coherence grain code (R194). -/
def grainBytes (g : Nat) : Nat := if g == 0 then 32 else if g == 1 then 128 else 512

/-- A translation: the leaf, where its entry lies, the page's virtual base, whether an agent's cache held it, and the
table entries its walk read: their levels and the tables they name. -/
structure Xlat where
  leaf   : Leaf
  entry  : Nat
  vbase  : Nat
  cached : Bool
  path   : List (Nat × Nat) := []
  deriving DecidableEq, Repr

/-- The physical address of a virtual one under a translation, canonical (R197). -/
def State.xlatPa (s : State) (x : Xlat) (va : Nat) : Nat := s.canonPa (x.leaf.base + (va - x.vbase))

/-- The words of the entry at a physical address, read at its home under a slot (R193). -/
def State.pte (s : State) (key a : Nat) : Nat × Nat :=
  (leNat (s.homeRead (some key) a 8), leNat (s.homeRead (some key) (a + 8) 8))

/-- The walk from a level down: the translation, or the fault kind and level (R193, R203). A table at a pod address that
names this package is local memory (R197). -/
def State.walk (s : State) (key va : Nat) : Nat → Nat → Except (Nat × Nat) Xlat
  | lvl, base =>
    let e := s.canonPa (base + 16 * levelIndex va lvl)
    let w := s.pte key e
    if !w.1.testBit 0 then .error (Kind.notPresent, lvl)
    else if pteMalformed lvl w.1 w.2 then .error (Kind.malformed, lvl)
    else if w.1.testBit 1 then
      let l := leafOf w.1 w.2
      .ok { leaf := l, entry := e, vbase := va / pageSize l.size * pageSize l.size, cached := false }
    else
      match lvl with
      | 0 => .error (Kind.malformed, 0)
      | n + 1 => (s.walk key va n (ptePa w.1)).map fun x => { x with path := (lvl, ptePa w.1) :: x.path }

/-! ## Translation caches (R201) -/

/-- The agent number of an engine's translations; a core has its package core number. -/
def engineAgent (e : Nat) : Nat := 1000000 + e

/-- The number of a cluster's cache. -/
def clusterCache (cl : Nat) : Nat := 2000000 + cl

/-- The die of an agent. -/
def agentDie (agent : Nat) : Nat := if agent < 1000000 then agent / 576 else (agent - 1000000) / 128

/-- The caches an agent's translations pass, nearest first: a core's own and its cluster's, a Bobbin engine's cluster's;
any other engine has none but the walker of its die (log entry 18). -/
def agentCaches (agent : Nat) : List Nat :=
  if agent < 1000000 then [agent, clusterCache (agent / 8)]
  else
    let e := agent - 1000000
    if e % 128 < 72 then [clusterCache (e / 128 * 72 + e % 128)] else []

/-- The cached translation of an address: from the nearest cache that holds one. -/
def State.cachedXlat (s : State) (agent ctx va : Nat) : Option Xlat :=
  ((agentCaches agent).findSome? fun c => s.mem.tlb.find? fun e =>
      e.agent == c && e.ctx == ctx && e.vbase ≤ va && va < e.vbase + pageSize e.leaf.size).map
    fun e => { leaf := e.leaf, entry := e.entry, vbase := e.vbase, cached := true }

/-- The first address bit that the entries of a level select by. -/
def levelShift : Nat → Nat
  | 3 => 39
  | 2 => 30
  | 1 => 21
  | _ => 12

/-- Where a walk begins: below the lowest table entry that the die's walker holds for the address, else at the root. -/
def State.walkStart (s : State) (die ctx va : Nat) : Nat × Nat :=
  let hit (l : Nat) : Option (Nat × Nat) :=
    (s.mem.walks.find? fun w => w.die == die && w.ctx == ctx && w.level == l && w.vpre == va / 2 ^ levelShift l).map
      fun w => (l - 1, w.table)
  ([1, 2, 3].findSome? hit).getD (3, (s.ctx ctx).root)

/-- The translation of an address: from the agent's caches, else by a walk under the context's slot; afresh, by a walk from
the root (R205). -/
def State.findXlat (s : State) (agent ctx va : Nat) (afresh : Bool) : Except (Nat × Nat) Xlat :=
  let from' (b : Nat × Nat) := s.walk (s.ctx ctx).key va b.1 b.2
  if afresh then from' (3, (s.ctx ctx).root)
  else
    match s.cachedXlat agent ctx va with
    | some x => .ok x
    | none => from' (s.walkStart (agentDie agent) ctx va)

/-- The key slot lies in the context's key set (R198). -/
def Ctx.hasKey (c : Ctx) (k : Nat) : Bool := k == c.key || c.keyshr.testBit k

/-- The physical address lies in a populated range (R197). Another package is populated as this one is, and its second tier
up to the largest capacity (log entry 55). -/
def reachable (pa : Nat) : Bool :=
  match regionOf pa with
  | .local => populated pa
  | .pod _ =>
    if pa % 2 ^ 46 < 2 ^ 40 then pa % 2 ^ 37 < 128 * 10 ^ 9
    else 2 ^ 45 ≤ pa % 2 ^ 46 && pa % 2 ^ 46 < 2 ^ 45 + 32768 * 10 ^ 9
  | .system => true
  | .reserved => false

/-- The permission kind a leaf gives an access (R198, R203): reads are checked before writes. -/
def permission (l : Leaf) (a : Access) : Nat :=
  if (a == .rd || a == .rmw) && !l.rd then Kind.readProt
  else if (a == .wr || a == .rmw) && !l.wr then Kind.writeProt
  else if a == .ex && !l.ex then Kind.execProt else 0

/-- The fault kind a translation gives an access, 0 for none. A first write through a clean cached copy meets the entry
as it stands (R200). -/
def State.xlatKind (s : State) (ctx : Nat) (x : Xlat) (a : Access) (va : Nat) : Nat :=
  let p := permission x.leaf a
  if p != 0 then p
  else if !reachable (s.xlatPa x va) then Kind.unpopulated
  else if !(s.ctx ctx).hasKey x.leaf.key then Kind.keySlot
  else if (a == .wr || a == .rmw) && x.cached && !x.leaf.dirty then
    let w := s.pte (s.ctx ctx).key x.entry
    if !w.1.testBit 0 then Kind.notPresent else if !w.1.testBit 6 then Kind.writeProt else 0
  else 0

/-- Who makes an access: the agent whose translation caches serve it, the context, the team its windows are resolved
against, the lane, and the die whose links it uses. -/
structure Who where
  agent : Nat
  ctx   : Nat
  team  : Option Team
  lane  : Option Nat
  die   : Nat
  deriving DecidableEq, Repr

/-- The accessor is a team that issues again what met a translation fault (R205). -/
def Who.afresh (w : Who) : Bool := w.agent < 1000000 && w.team.any (·.afresh)

/-- The translation of an access, checked (R202, R203). -/
def State.xlate (s : State) (w : Who) (a : Access) (va : Nat) : Except (Nat × Nat) Xlat :=
  match s.findXlat w.agent w.ctx va w.afresh with
  | .error e => .error e
  | .ok x =>
    let k := s.xlatKind w.ctx x a va
    if k == 0 then .ok x else .error (k, pageLevel x.leaf.size)

/-- Byte 1 of an entry gets bits set by an atomic OR at its home (R200), which may be in another package. -/
def State.orPte (s : State) (key entry : Nat) (m : Byte) : State :=
  match regionOf entry with
  | .pod p => s.sendOut p .request (.orByte (entry + 1) m)
  | _ => s.homeStore (some key) (entry + 1) (s.homeByte (some key) (entry + 1) ||| m)

/-- A cached translation is of the page that a translation is of, through the same entry. -/
def Tlb.sameAs (e : Tlb) (ctx : Nat) (x : Xlat) : Bool :=
  e.ctx == ctx && e.vbase == x.vbase && e.entry == x.entry && { e.leaf with dirty := x.leaf.dirty } == x.leaf

/-- Two cached translations of one cache and context translate a common address. -/
def Tlb.meets (e f : Tlb) : Bool :=
  e.agent == f.agent && e.ctx == f.ctx && e.vbase < f.vbase + pageSize f.leaf.size && f.vbase < e.vbase + pageSize e.leaf.size

/-- The translations of a cache that compete for its places: a core keeps its first 64 pinned ones in a part of their own
(R199). -/
def competing (cache : Nat) (l : List Tlb) : List Tlb :=
  let mine := l.filter (·.agent == cache)
  if cache < 1000000 then
    let kept := (mine.filter (·.leaf.pin)).take 64
    mine.filter fun e => !kept.contains e
  else mine

/-- A translation fills its cache: one that meets it leaves, and in a full cache the oldest that competes (R201; log entry
18). -/
def fillTlb (l : List Tlb) (e : Tlb) : List Tlb :=
  let l := l.filter (fun y => !y.meets e) ++ [e]
  let c := competing e.agent l
  if (if e.agent < 1000000 then 128 else 4096) < c.length then
    (match c.head? with | some y => l.erase y | none => l)
  else l

/-- The table entries of a walk fill the die's walker, which holds 1,024 of a die (R201; log entry 18). -/
def fillWalks (l : List Walk) (die ctx va : Nat) (path : List (Nat × Nat)) : List Walk :=
  path.foldl (fun l p =>
    let e : Walk := { die := die, ctx := ctx, level := p.1, vpre := va / 2 ^ levelShift p.1, table := p.2 }
    let l := l.filter (fun y => !({ y with table := e.table } == e)) ++ [e]
    let mine := l.filter (·.die == die)
    if 1024 < mine.length then (match mine.head? with | some y => l.erase y | none => l) else l) l

/-- A translation is used: PTE.ACC at a fill from its entry, PTE.DIRTY before the first write through a copy that shows it
clear, and the agent's caches keep it (R200, R201). -/
def State.useXlat (s : State) (agent ctx : Nat) (a : Access) (x : Xlat) : State :=
  let key := (s.ctx ctx).key
  let caches := agentCaches agent
  let copy (c : Nat) : Option Tlb := s.mem.tlb.find? fun e => e.agent == c && e.sameAs ctx x
  let known := caches.findSome? copy
  let s := if known.isNone && !x.cached then s.orPte key x.entry 0x02 else s
  let dirties := (a == .wr || a == .rmw) && !((known.map (·.leaf.dirty)).getD x.leaf.dirty)
  let s := if dirties then s.orPte key x.entry 0x04 else s
  let leaf : Leaf := { x.leaf with dirty := x.leaf.dirty || dirties }
  let mark (l : List Tlb) : List Tlb :=
    if dirties then l.map fun e => if caches.contains e.agent && e.sameAs ctx x then { e with leaf := leaf } else e else l
  let fills := caches.filter fun c => (copy c).isNone && (c < 1000000 || !x.cached)
  let put (l : List Tlb) : List Tlb :=
    fills.foldl (fun l c => fillTlb l { agent := c, ctx := ctx, vbase := x.vbase, leaf := leaf, entry := x.entry }) l
  s.withMem fun m => { m with tlb := put (mark m.tlb), walks := fillWalks m.walks (agentDie agent) ctx x.vbase x.path }

/-! ## Windows (R69, R70) -/

/-- Base of the window region. -/
def winBase : Nat := 0x01FFFFFE00000000

/-- An address lies in the window region. -/
def inWindow (va : Nat) : Bool := winBase ≤ va && va < 2 ^ 57

/-- Where an access goes. -/
inductive Place where
  /-- Device, second-tier, pod or host memory through a translation. -/
  | dev (x : Xlat) (pa : Nat)
  /-- Window memory. -/
  | win (l : Loc)
  /-- The lane-private window (R63): lane and offset. -/
  | own (lane off : Nat)
  deriving DecidableEq, Repr

/-- The n bytes from o lie below a bound. -/
def within (o n bound : Nat) : Bool := o + n ≤ bound

/-- Byte o of the lane-private window exists (R63). -/
def ownByte (vregs priv o : Nat) : Bool := o < 4 * vregs || (1024 ≤ o && o < 1024 + priv)

/-- The chip scratchpad byte at an offset of a context's window (R72). -/
def Ctx.chip (c : Ctx) (o : Nat) : Option Loc := (c.segs[o / 2 ^ 20]?).map fun g => .seg (g * 2 ^ 20 + o % 2 ^ 20)

/-- The place of n bytes of a window address; none raises ACCESS (R70). -/
def State.window (s : State) (w : Who) (va n : Nat) : Option Place :=
  let o := va - winBase
  if 2 ^ 57 < va + n then none
  else if o < 2 ^ 32 then
    let c := s.ctx w.ctx
    if 2 ^ 32 < o + n || (c.chip (o + n - 1)).isNone then none else (c.chip o).map .win
  else
    match w.team with
    | none => none
    | some t =>
      match s.gangOf t with
      | none => none
      | some g =>
        let h := g.src.hdr
        let c := o - 2 ^ 32
        if c < 2 ^ 24 then (if within c n h.cluster then some (.win (.cluster t.gang c)) else none)
        else if c < 0x2000000 then
          (if within (c - 0x1000000) n h.scratch then some (.win (.scratch t.gang t.group (c - 0x1000000))) else none)
        else if c < 0x2020000 then
          match w.lane with
          | none => none
          | some l =>
            let p := c - 0x2000000
            if (List.range n).all fun i => ownByte t.vregs t.priv (p + i) then some (.own l p) else none
        else if 0x4000000 ≤ c && c < 0x4800000 then
          let p := c - 0x4000000
          if p / 2 ^ 20 < h.groups && within (p % 2 ^ 20) n h.scratch then
            some (.win (.scratch t.gang (p / 2 ^ 20) (p % 2 ^ 20)))
          else none
        else none

/-- A read of the register part of the lane-private window finds a word tagged NONE (R63). -/
def Team.ownUnset (t : Team) (lane off n : Nat) : Bool :=
  (List.range n).any fun i => off + i < 4 * t.vregs && t.vtag ((off + i) / 4) (lane / 32) == Tag.none

/-! ## One address checked (R203) -/

/-- The state of a fabric link (R398). -/
def State.linkState (s : State) (l : Nat) : LinkState := ((FMap.look s.link.links l).map (·.st)).getD .down

/-- The primary and backup link of a die's routing entry (R399). -/
def State.route (s : State) (die pkg : Nat) : Nat × Nat := FMap.lookD s.link.routes (die * 256 + pkg) (0, 0)

/-- A package is reachable from a die: this one holds an identifier, and the two links of the entry are not both Down
or Fenced (R399, R400). -/
def State.podReachable (s : State) (die pkg : Nat) : Bool :=
  let dead (l : Nat) : Bool := s.linkState l == .down || s.linkState l == .fenced
  s.pkg.isSome && !(dead (s.route die pkg).1 && dead (s.route die pkg).2)

/-- The place of n bytes at a virtual address, by the checks of R203 in their order; `al` is the alignment asked for. -/
def State.resolve (s : State) (w : Who) (a : Access) (n al va : Nat) : Except LErr Place :=
  if 2 ^ 57 ≤ va then .error (.ofKind Kind.nonCanon (Config.walkLevel s.fresh).toNat)
  else if inWindow va then
    match s.window w va n with
    | none => .error (.err Code.access none)
    | some p =>
      if va % al != 0 then .error (.err Code.align none)
      else
        match p, w.team with
        | .own l o, some t =>
          if (a == .rd || a == .rmw) && t.ownUnset l o n then .error (.err Code.format none) else .ok p
        | _, _ => .ok p
  else if winBase < va + n then .error (.err Code.access none)
  else if va % al != 0 then .error (.err Code.align none)
  else
    match s.xlate w a va with
    | .error (k, l) => .error (.ofKind k l)
    | .ok x =>
      match regionOf (s.xlatPa x va) with
      | .pod p => if s.podReachable w.die p then .ok (.dev x (s.xlatPa x va)) else .error .unreachable
      | _ => .ok (.dev x (s.xlatPa x va))

/-- A place's translation is used. -/
def State.usePlace (s : State) (w : Who) (a : Access) (p : Place) : State :=
  match p with
  | .dev x _ => s.useXlat w.agent w.ctx a x
  | _ => s

/-- The place as its meeting point names it; lane-private places have none. -/
def Place.loc : Place → Option Loc
  | .dev _ pa => some (.dev pa)
  | .win l => some l
  | .own _ _ => none

/-- The key slot of a place. -/
def Place.slot : Place → Option Nat
  | .dev x _ => some x.leaf.key
  | _ => none

/-! ## All lanes checked (R203) -/

/-- The team as an accessor. -/
def Team.who (t : Team) (ctx : Nat) (lane : Option Nat) : Who :=
  { agent := t.core, ctx := ctx, team := some t, lane := lane, die := t.die }

/-- A lane's check raises an error. -/
def isErr : Except LErr Place → Bool
  | .error (.err _ _) => true
  | .error .unreachable => true
  | _ => false

/-- A lane's check ends in a translation fault. -/
def isFault : Except LErr Place → Bool
  | .error (.err _ k) => k.isSome
  | .error (.park _ _) => true
  | .error .unreachable => false
  | .ok _ => false

/-- What the checks of all lanes give the instruction (R203): the lowest erring lane's code, else a park at the lowest
faulting lane, else every place. -/
def settleLanes (a : Access) (rs : List (Nat × Except LErr Place)) : Except Trap (List Place) :=
  let n := (rs.filter fun r => isFault r.2).length
  let fault (va k l : Nat) : TFault := { va := va, kind := k, access := a.code, level := l, lanes := n }
  match rs.find? fun r => isErr r.2 with
  | some (va, .error (.err c k)) => .error (.err c (k.map fun x => fault va x.1 x.2))
  | some (_, .error .unreachable) => raise Code.access
  | _ =>
    match rs.find? fun r => isFault r.2 with
    | some (va, .error (.park k l)) => .error (.park (fault va k l))
    | _ => .ok (rs.filterMap fun r => match r.2 with | .ok p => some p | .error _ => none)

/-- The places of the lanes' addresses, checked together. -/
def State.resolveLanes (s : State) (t : Team) (a : Access) (n al : Nat) (las : List (Option Nat × Nat)) :
    Except Trap (List Place) :=
  settleLanes a (las.map fun x => (x.2, s.resolve (t.who (s.ctxOf t) x.1) a n al x.2))

/-- The translations of places used. -/
def State.usePlaces (s : State) (t : Team) (a : Access) (ps : List Place) : State :=
  ps.foldl (fun s p => s.usePlace (t.who (s.ctxOf t) none) a p) s

/-! ## Unwritten words (R82) -/

/-- The addresses of the invalid words that n bytes at a place touch. -/
def State.invalidWords (s : State) (va n : Nat) (p : Place) : List Nat :=
  match p with
  | .win l =>
    let first := va / 4
    let last := (va + n - 1) / 4
    ((List.range (last + 1 - first)).map fun i => (first + i) * 4).filter fun a =>
      !s.locValid (if a < va then l else l.add (a - va))
  | _ => []

/-- The least of a list of addresses. -/
def leastOf : List Nat → Option Nat
  | [] => none
  | a :: l => some (l.foldl min a)

/-- The payload of an UNWR item (R454). -/
def Team.unwrBytes (t : Team) (va : Nat) : List Byte :=
  leBytes 8 va ++ leBytes 8 (slotField t.slot + t.group * 2 ^ 8) ++ leBytes 8 t.gang ++ leBytes 8 t.pc

/-- A team read of words that include invalid ones: UNWRITTEN in Trap mode, one warning item in Warn mode. -/
def State.unwritten (s : State) (t : Team) (bad : List Nat) : Except Trap State :=
  match leastOf bad with
  | none => .ok s
  | some va => if t.unwtrap then raise Code.unwritten else .ok (s.errItem (s.ctxOf t) 1 4 t.core (t.unwrBytes va))

/-- What follows a read of an instruction: an error it then raises keeps the read's warning item (log entry 26). -/
def State.orTrap (s : State) : Except Trap Done → Except Trap Done
  | .error (.err code f) => .ok (.trap s (.err code f))
  | r => r

/-! ## Bytes of the lane-private window (R63) -/

/-- One byte of the lane-private window. -/
def Team.ownRead (t : Team) (lane o : Nat) : Byte :=
  if o < 4 * t.vregs then (t.lane (o / 4) lane).extractLsb' (8 * (o % 4)) 8
  else Memory.read t.store (lane * 65536 + (o - 1024))

/-- A 32-bit register with byte i replaced. -/
def setByte32 (x : Lane32) (i : Nat) (b : Byte) : Lane32 :=
  (x &&& ~~~((255 : Lane32) <<< (8 * i))) ||| ((b.setWidth 32) <<< (8 * i))

/-- One byte written through the lane-private window: the word takes tag RAW, the lane the taint of the value. -/
def Team.ownWrite (t : Team) (lane o : Nat) (b : Byte) (taint : Bool) : Team :=
  if o < 4 * t.vregs then
    let v := o / 4
    let one := 1#1024 <<< lane
    let f := t.file.retag t.lanes one v Tag.raw
    let old := FMap.lookD f.bits (v * 1024 + lane) 0
    { t with file := f.fill t.lanes one v (fun _ => setByte32 old (o % 4) b) (fun _ => taint) }
  else { t with store := Memory.write t.store (lane * 65536 + (o - 1024)) b }

/-! ## Bytes a team reads and writes -/

/-- How an access is made: the scope and kind of ordering decide where it is served (R89, R97, R208, R210). -/
structure Manner where
  /-- Served by the slice without an L1 copy. -/
  slice : Bool
  /-- Address tainted: served by the slice, and the fill updates the L1. -/
  taint : Bool
  /-- Retention field of R124. -/
  ret   : Nat
  deriving DecidableEq, Repr

/-- The retention hint of an access (R79, R124). -/
def hintOf (ret : Nat) (l : Leaf) : Nat := if ret == 0 then l.ret else ret - 1

/-- The cluster's L1 serves the bytes: the line is held under the slot and its sectors are valid. -/
def State.l1Hits (s : State) (cl slot pa n : Nat) : Bool :=
  match s.l1Look cl (pa / 512) with
  | some l => l.slot == slot && l.valid &&& sectorMask (pa % 512) n == sectorMask (pa % 512) n
  | none => false

/-- What an access of a page brings to the caches (R76, R78 to R80). -/
def pageOf (x : Xlat) (ret pa : Nat) : Page :=
  { slot := x.leaf.key, grain := grainBytes x.leaf.grain, home := homeSlice x.leaf.place x.leaf.hdie pa, hint := hintOf ret x.leaf }

/-- An access with a retention field meets the home slice of a line of this package (R79). -/
def State.touchPage (s : State) (ret : Nat) (x : Xlat) (pa : Nat) : State :=
  s.touchLine (pageOf x ret pa).home (pageOf x ret pa).hint pa

/-- A read that the L1 does not serve goes to the home: the slice of this package, or another package (R89, R400). -/
def State.askHome (s : State) (ret : Nat) (x : Xlat) (pa n : Nat) : State :=
  match regionOf pa with
  | .pod p => s.sendOut p .request (.load pa n)
  | _ => s.touchPage ret x pa

/-- The dirty near slots of a team are written back, before another path reads the core store (R64). -/
def State.cleanNear (s : State) (t : Team) : State :=
  if !((s.core t.core).near.any fun n => n.team == t.id && n.dirty) then s
  else s.modCore t.core fun c => { c with near := c.near.map fun n => if n.team == t.id then { n with dirty := false } else n }

/-- The n bytes a team reads at a place, with the caches' changes. -/
def State.teamRead (s : State) (t : Team) (m : Manner) (p : Place) (n : Nat) : List Byte × State :=
  match p with
  | .own l o => ((List.range n).map fun i => t.ownRead l (o + i), s.cleanNear t)
  | .win l => (s.locRead none l n, s)
  | .dev x pa =>
    if regionOf pa == .system then (s.homeRead (some x.leaf.key) pa n, s)
    else
      let how : Serve := if m.slice then .slice else if m.taint then .refill else .cached
      let hit := how == .cached && s.l1Hits t.cluster x.leaf.key pa n
      let s := if hit then s else s.askHome m.ret x pa n
      s.l1Load t.cluster (pageOf x m.ret pa) how pa n

/-- How a store is made (R91, R209, R210). -/
inductive Put where
  /-- Into the cluster's L1. -/
  | plain
  /-- Into the L1 and on to the home: a release at die scope or wider. -/
  | through
  /-- Past the L1. -/
  | direct
  deriving DecidableEq, Repr

/-- Bytes stored at a place; `taint` is the stored value's. -/
def State.teamWrite (s : State) (t : Team) (how : Put) (ret : Nat) (p : Place) (bs : List Byte) (taint : Bool) : State :=
  match p with
  | .own l o => (s.cleanNear t).modTeam t.id fun u => bs.zipIdx.foldl (fun u (b, i) => u.ownWrite l (o + i) b taint) u
  | .win l => s.locWrite none l bs
  | .dev x pa =>
    let key := x.leaf.key
    if regionOf pa == .system then s.homeWrite (some key) pa bs
    else
      match how with
      | .plain => s.l1Store t.cluster (pageOf x ret pa) pa bs
      | .through =>
        ((s.l1Store t.cluster (pageOf x ret pa) pa bs).l1Clean t.cluster (pa / 512)).touchPage ret x pa
      | .direct =>
        (((s.l1Clean t.cluster (pa / 512)).homeWrite (some key) pa bs).l1Invalidate t.cluster (pa / 512)).touchPage ret x pa

end Sys2Proof.Machine
end

