-- ==== Sys2Proof/Machine/Combine.lean ====
section
/-! DEFINITION. Reductions, scans, counts, keys and the shuffle (spec/08_team.md R178 to R183). -/

namespace Sys2Proof.Machine

/-! ## Combining (R178) -/

/-- The operations of RED and SCAN. -/
inductive RedOp where
  | sum | min | max
  deriving DecidableEq, Repr

/-- The operation of a field [9:8]. -/
def RedOp.ofField (n : Nat) : RedOp := if n == 1 then .min else if n == 2 then .max else .sum

/-- F32 or F64. -/
def isFloatTag (ty : Tag) : Bool := ty == Tag.f32 || ty == Tag.f64

/-- A value read as R178 reads it: floats flushed under R32. -/
def redRead (ty : Tag) (ftz : Bool) (x : Nat) : Nat :=
  if isFloatTag ty then ((Elem.ofTag ty).round .rne {} ((Elem.ofTag ty).decode ftz x)).1 else x

/-- `comb` of R179 on two values of a type. An integer sum is kept exact. -/
def redComb (op : RedOp) (ty : Tag) (ftz : Bool) (a b : Int) : Int × Sticky :=
  if isFloatTag ty then
    let e := Elem.ofTag ty
    match op with
    | .sum =>
      let r := FloatOp.add.apply e 0 ftz a.toNat b.toNat 0
      (r.1, r.2)
    | .min => ((e.round .rne {} (minMaxNum false (e.decode ftz a.toNat) (e.decode ftz b.toNat))).1, Sticky.none)
    | .max => ((e.round .rne {} (minMaxNum true (e.decode ftz a.toNat) (e.decode ftz b.toNat))).1, Sticky.none)
  else
    match op with
    | .sum => (a + b, Sticky.none)
    | .min => (if a ≤ b then a else b, Sticky.none)
    | .max => (if a ≤ b then b else a, Sticky.none)

/-- What a lane's bits enter as: an integer's value, a float's bits as read. -/
def redIn (ty : Tag) (ftz : Bool) (x : Nat) : Int := if isFloatTag ty then redRead ty ftz x else intVal ty x

/-- What a combined value is written as: a float's bits, an integer wrapped or, for a sum under `.sat`, clipped; `.sat`
changes no float (log entry 29). -/
def redOut (op : RedOp) (ty : Tag) (sat : Bool) (x : Int) : Nat × Sticky :=
  if isFloatTag ty then (x.toNat, Sticky.none) else intOut ty (sat && op == .sum) x

/-- The identities of R179. -/
def redIdentity (op : RedOp) (ty : Tag) : Int :=
  if isFloatTag ty then
    let f := if ty == Tag.f64 then Fmt.f64 else Fmt.f32
    match op with
    | .sum => 0
    | .min => f.infBits false
    | .max => f.infBits true
  else
    match op with
    | .sum => 0
    | .min => intMax ty
    | .max => intMin ty

/-- One level of the tree: neighbours combined, an absent one passing its partner through. -/
def redLevel (comb : Int → Int → Int × Sticky) : List (Option (Int × Sticky)) → List (Option (Int × Sticky))
  | a :: b :: r =>
    let x : Option (Int × Sticky) := match a, b with
      | some p, some q => some ((comb p.1 q.1).1, (comb p.1 q.1).2 ||| p.2 ||| q.2)
      | some p, none => some p
      | none, q => q
    x :: redLevel comb r
  | l => l

/-- The ten levels of R179. A missing node at the end is an absent one. -/
def redTree (comb : Int → Int → Int × Sticky) : Nat → List (Option (Int × Sticky)) → Option (Int × Sticky)
  | 0, l => l.head?.join
  | n + 1, l => redTree comb n (redLevel comb l)

/-- RED. -/
def redOp (h : Hd) (o : Rrr) (_ : State) (t : Team) : Except Trap Team := do
  let ty := o.ty.toNat
  let op := RedOp.ofField (o.e &&& 3).toNat
  let n := regsOf ty
  let a ← t.vreg h.ixA o.a n (Tag.wide ty)
  let act := t.active h
  t.checkTags act a n [ty]
  let nodes := (List.range (32 * (t.lanes / 32))).map fun l =>
    if act.getLsbD l then some (redIn ty t.ftz (t.laneTy ty a l), Sticky.none) else none
  let r := (redTree (redComb op ty t.ftz) 10 nodes).getD (redIdentity op ty, Sticky.none)
  let v := redOut op ty o.sat r.1
  let taint := (lanesOf act t.lanes).any fun l => (regList a n).any fun i => t.vtaint i l
  return (t.setS o.d.toNat (BitVec.ofNat 64 v.1) ty taint).raiseFlags (v.2 ||| r.2)

/-- RED (R179). -/
def execRed (h : Hd) (o : Rrr) (s : State) : Host.Outcome State Fault Refusal :=
  issueLong s h.fb (hasLane h) (teamOp (redOp h o))

/-- The running values of R180 over lanes in ascending order: before and after each lane, with the taint of each. -/
def scanFrom (comb : Int → Int → Int × Sticky) (val : Nat → Int) (taint : Nat → Bool) :
    List Nat → Int → Bool → List (Nat × (Int × Bool) × (Int × Bool) × Sticky)
  | [], _, _ => []
  | l :: ls, acc, tacc =>
    let r := comb acc (val l)
    let t := tacc || taint l
    (l, (acc, tacc), (r.1, t), r.2) :: scanFrom comb val taint ls r.1 t

/-- SCAN. -/
def scanOp (h : Hd) (o : Rrr) (_ : State) (t : Team) : Except Trap Team := do
  let ty := o.ty.toNat
  let op := RedOp.ofField (o.e &&& 3).toNat
  let excl := o.e.getLsbD 2
  let n := regsOf ty
  let d ← t.vreg h.ixD o.d n (Tag.wide ty)
  let a ← t.vreg h.ixA o.a n (Tag.wide ty)
  let act := t.active h
  t.checkTags act a n [ty]
  let rs := scanFrom (redComb op ty t.ftz) (fun l => redIn ty t.ftz (t.laneTy ty a l))
    (fun l => (regList a n).any fun i => t.vtaint i l) (lanesOf act t.lanes) (redIdentity op ty) false
  let out := rs.map fun (l, b, c, _) => (l, if excl then b else c)
  let at' (l : Nat) : Int × Bool := ((out.find? fun x => x.1 == l).map (·.2)).getD (0, false)
  let flags := rs.foldl (fun f x => f ||| x.2.2.2) Sticky.none
  let flags := out.foldl (fun f x => f ||| (redOut op ty o.sat x.2.1).2) flags
  return (t.writeRegs act d (tagsOfTy ty) (fun l => regsOfVal ty (redOut op ty o.sat (at' l).1).1)
    (fun l => (at' l).2)).raiseFlags flags

/-- SCAN (R180). -/
def execScan (h : Hd) (o : Rrr) (s : State) : Host.Outcome State Fault Refusal :=
  issueLong s h.fb (hasLane h) (teamOp (scanOp h o))

/-! ## Counts and keys (R181, R182) -/

/-- VCNT. -/
def vcntOp (h : Hd) (o : Rrr) (_ : State) (t : Team) : Except Trap Team := do
  let d ← t.vreg h.ixD o.d 1
  let set := t.pred o.a.toNat &&& (if o.e.getLsbD 0 then lanesBelow t.lanes else t.cur)
  let pre := o.e.getLsbD 1
  let ls := lanesOf set t.lanes
  return t.writeReg (t.active h) d Tag.n32
    (fun l => BitVec.ofNat 32 (if pre then (ls.filter (· < l)).length else ls.length)) (fun _ => false)

/-- VCNT (R181). -/
def execVcnt (h : Hd) (o : Rrr) (s : State) : Host.Outcome State Fault Refusal := issue s (teamOp (vcntOp h o))

/-- FKEY and FKEY.inv. -/
def fkeyOp (h : Hd) (o : Rrr) (_ : State) (t : Team) : Except Trap Team := do
  let inv := o.e.getLsbD 0
  let d ← t.vreg h.ixD o.d 1
  let a ← t.vreg h.ixA o.a 1
  let act := t.active h
  t.checkTag act a [if inv then Tag.key32 else Tag.f32]
  return t.writeReg act d (if inv then Tag.f32 else Tag.key32)
    (fun l => if inv then unkey32 (t.lane a l) else key32 (t.lane a l)) (t.vtaint a)

/-- FKEY (R182). -/
def execFkey (h : Hd) (o : Rrr) (s : State) : Host.Outcome State Fault Refusal := issue s (teamOp (fkeyOp h o))

/-! ## Shuffle (R183) -/

/-- The source lane of a mode. -/
def shflSource (mode l : Nat) (b : Int) : Int :=
  match mode with
  | 0 => b
  | 1 => l - b
  | 2 => l + b
  | _ => if b < 0 then -1 else ((l ^^^ b.toNat : Nat) : Int)

/-- The lane that lane L reads: S when it lies in the segment and the execution mask, else L itself. -/
def Team.shflLane (t : Team) (mode b l : Nat) (whole : Bool) : Nat :=
  let s := shflSource mode l (intVal (t.vtag b (l / 32)) (t.lane b l).toNat)
  if 0 ≤ s && s < t.lanes && (whole || s.toNat / 32 == l / 32) && t.cur.getLsbD s.toNat then s.toNat else l

/-- SHFL. -/
def shflOp (h : Hd) (o : Rrr) (_ : State) (t : Team) : Except Trap Team := do
  let w := o.e.getLsbD 0
  let mode := ((o.e >>> 1) &&& 3).toNat
  let whole := o.e.getLsbD 3
  let n := if w then 2 else 1
  let d ← t.vreg h.ixD o.d n w
  let a ← t.vreg h.ixA o.a n w
  let b ← t.vreg false o.b 1
  let act := t.active h
  t.checkTag act b [Tag.i32, Tag.n32]
  let ls := lanesOf act t.lanes
  let words := ls.map fun l => t.shflLane mode b l whole / 32
  let tag : Tag := (words.head?.map fun k => t.vtag a k).getD Tag.raw
  require (tag != Tag.none && (List.range n).all fun i => words.all fun k => t.vtag (a + i) k == tag) Code.format
  return (List.range n).foldl (fun u i =>
    u.writeReg act (d + i) tag (fun l => t.lane (a + i) (t.shflLane mode b l whole))
      (fun l => t.vtaint (a + i) (t.shflLane mode b l whole))) t

/-- SHFL (R183). -/
def execShfl (h : Hd) (o : Rrr) (s : State) : Host.Outcome State Fault Refusal := issue s (teamOp (shflOp h o))

end Sys2Proof.Machine
end

