-- ==== Sys2Proof/Machine/Space.lean ====
section
/-! DEFINITION. Footprints and the blocks of the core store (spec/03_work.md R58 to R62), registers grown and dropped (R188,
R189), and near slots (R64, R186). -/

namespace Sys2Proof.Machine

/-- The registers, accumulators and private storage of a team: its block (R60, R62). -/
def teamBlock (h : KHdr) (vregs : Nat) : Nat := h.lanes * 4 * roundUp vregs 8 + h.lanes * 256 * h.accs + h.lanes * h.priv

/-- The store of one team, with its mask-stack spill area (R60). -/
def teamStore (h : KHdr) (vregs : Nat) : Nat := teamBlock h vregs + 8192

/-- The footprint of a group whose teams have these lane-register counts (R60). -/
def footprint (h : KHdr) (vs : List Nat) : Nat :=
  roundUp ((vs.map (teamStore h)).foldl (· + ·) 0 + h.scratch + roundUp ((h.cluster + h.groups - 1) / h.groups) 4096) 4096

/-- The footprint of a group as declared. -/
def KHdr.footprint (h : KHdr) : Nat := Machine.footprint h (List.replicate h.teams h.vregs)

/-- The allocation space of a core with a number of ways of 32 KiB (R59). -/
def allocSpace (ways : Nat) : Nat := 2 ^ 20 - 32768 - ways * 32768

/-- The lane-register counts of a group's teams. -/
def State.vregsOf (s : State) (g i : Nat) : List Nat := (s.teamsOfGroup g i).map (·.vregs)

/-- The gang holds storage on its cores; a killed one does until its kill completes, a saved one does not. -/
def Gang.held (g : Gang) : Bool := !g.off && (g.st == .resident || g.st == .saving || g.st == .killed)

/-- The gang is a handler's (R361). -/
def Gang.isHandler (g : Gang) : Bool :=
  match g.src.origin with
  | .handler _ => true
  | _ => false

/-- Ordinary gangs that hold storage (R58: the handler's store is apart). -/
def State.heldGangs (s : State) : List Gang := (s.gangs.map (·.2)).filter fun g => g.held && !g.isHandler

/-! ## Register layout (R62) -/

/-- Where lane register v of lane L of a team lies in its core's allocation space. -/
def Team.regAt (t : Team) (v l : Nat) : Nat := t.base + v * (t.lanes / 32) * 128 + l / 32 * 128 + l % 32 * 4

/-- Where the accumulators of a team begin. -/
def Team.accBase (t : Team) : Nat := t.base + t.lanes * 4 * roundUp t.vregs 8

/-- Where column j of accumulator c of lane L lies. -/
def Team.accAt (t : Team) (c l j : Nat) : Nat := t.accBase + c * t.lanes * 256 + l * 256 + 8 * j

/-- Where byte o of the private storage of lane L lies. -/
def Team.privAt (t : Team) (l o : Nat) : Nat := t.accBase + t.lanes * 256 * t.accs + l * t.priv + o

/-- The bytes of a team's block. -/
def Team.block (t : Team) : Nat := t.lanes * 4 * roundUp t.vregs 8 + t.lanes * 256 * t.accs + t.lanes * t.priv

/-! ## Blocks of the allocation space (R60, R188, R348) -/

/-- A block: its first byte and its length. -/
abbrev Extent := Nat × Nat

/-- The blocks of a core's allocation space in use, but for a team's own. -/
def State.extents (s : State) (core : Nat) (except : Option Nat) : List Extent :=
  s.heldGangs.flatMap fun g => (g.groups.zipIdx.filter (·.1.core == core)).flatMap fun (x, i) =>
    (x.base, x.size) :: ((s.teamsOfGroup g.handle i).filter fun t => some t.id != except).map fun t => (t.base, t.block)

/-- A block of n bytes at b meets none of those in use and lies below a limit. -/
def freeAt (l : List Extent) (limit n b : Nat) : Bool := b + n ≤ limit && l.all fun e => b + n ≤ e.1 || e.1 + e.2 ≤ b

/-- The lowest free block of n bytes, at a multiple of 4 KiB (log entry 20). -/
def firstFit (l : List Extent) (limit n : Nat) : Option Nat :=
  ((0 :: l.map fun e => roundUp (e.1 + e.2) 4096).filter (freeAt l limit n)).min?

/-- Where the blocks of a group's teams begin, packed from b. -/
def teamBases (h : KHdr) : Nat → List Nat → List Nat
  | _, [] => []
  | b, v :: r => b :: teamBases h (b + teamBlock h v) r

/-- A team that holds a slot of a core. -/
def State.onCore (s : State) (core : Nat) (t : Team) : Bool :=
  t.core == core && !t.freed && ((s.gangOf t).map fun g => g.held && !g.isHandler).getD false

/-- Resident teams and lanes of a core (R58). -/
def State.coreLoad (s : State) (core : Nat) : Nat × Nat :=
  (s.teams.map (·.2)).foldl (fun p t => if s.onCore core t then (p.1 + 1, p.2 + t.lanes) else p) (0, 0)

/-! ## Register growth (R188, R189) -/

/-- V rounded up to a multiple of 8, plus or minus 8g. -/
def grownVregs (v g : Nat) : Nat := roundUp v 8 + 8 * g

/-- The footprint of the team's group with another count for the team. -/
def State.grownFootprint (s : State) (t : Team) (h : KHdr) (v : Nat) : Nat :=
  footprint h ((s.teamsOfGroup t.gang t.group).map fun u => if u.index == t.index then v else u.vregs)

/-- Where the team's block lies once it has grown (R188): where it is when the space just above is free, else in a new
block. The handler grows within its own 32 KiB (R58). -/
def State.growBase (s : State) (t : Team) (g : Nat) : Option Nat :=
  match s.gangOf t with
  | none => none
  | some x =>
    let v := grownVregs t.vregs g
    let n := teamBlock x.src.hdr v
    let space := allocSpace (s.waysOf t.cluster)
    if x.isHandler then (if s.grownFootprint t x.src.hdr v ≤ 32768 then some t.base else none)
    else if freeAt (s.extents t.core (some t.id)) space n t.base then some t.base
    else firstFit (s.extents t.core none) space n

/-- The core has room for the team's growth. -/
def State.canGrow (s : State) (t : Team) (g : Nat) : Bool := (s.growBase t g).isSome

/-- The team with its registers grown, in the block that holds them. -/
def State.grown (s : State) (t : Team) (g : Nat) : Team :=
  { t with vregs := grownVregs t.vregs g, base := (s.growBase t g).getD t.base }

/-- Registers that grow into a new block are copied there from the core store: the team's dirty near slots are written back
first (R188). -/
def State.moveGrown (s : State) (t : Team) (g : Nat) : State :=
  if (s.grown t g).base == t.base then s else s.cleanNear t

/-- An older team of the core waits for growth. -/
def State.growingBefore (s : State) (t : Team) (since : Nat) : Bool :=
  s.teams.any fun (_, u) => u.core == t.core && u.id != t.id &&
    match u.st with
    | .growing _ at' => at' < since || (at' == since && u.id < t.id)
    | _ => false

/-- The team with its registers from v on dropped (R189). -/
def Team.dropFrom (t : Team) (v : Nat) : Team :=
  { t with
    vregs := v
    file :=
      { bits := t.file.bits.filter (fun x => x.1 < v * 1024)
        tags := t.file.tags.filter (fun x => x.1 < v * 32)
        taint := t.file.taint.filter (fun x => x.1 < v) } }

/-! ## Near slots (R186) -/

/-- The first slot from the back that a test accepts is left out: the least recently used one. -/
def evictNear (p : Near → Bool) (l : List Near) : Option (List Near) :=
  match l.reverse.findIdx? p with
  | none => none
  | some i => some (l.reverse.eraseIdx i).reverse

/-- A slot holds a register word of a team. -/
def Near.holds (n : Near) (team reg word : Nat) : Bool := n.team == team && n.reg == reg && n.word == word

/-- One register word claims a near slot of its pipe (R186). -/
def State.claimNear (s : State) (t : Team) (regs : List Nat) (l : List Near) (reg word : Nat) : List Near :=
  let e : Near := { pipe := t.pipe, team := t.id, reg := reg, word := word, dirty := false }
  match l.find? (·.holds t.id reg word) with
  | some n => n :: l.filter fun m => !m.holds t.id reg word
  | none =>
    if (l.filter (·.pipe == t.pipe)).length < 512 then e :: l
    else
      let here (n : Near) : Bool := n.pipe == t.pipe
      let readyTeam (n : Near) : Bool := ((s.team n.team).map Team.isReady).getD false
      let own := evictNear (fun n => here n && n.team == t.id && !regs.contains n.reg) l
      let idle := evictNear (fun n => here n && n.team != t.id && !readyTeam n) l
      let busy := evictNear (fun n => here n && n.team != t.id) l
      match own, idle, busy with
      | some m, _, _ => e :: m
      | none, some m, _ => e :: m
      | none, none, some m => e :: m
      | none, none, none => l

/-- The use of one register word: a slot that holds it is the most recently used, and dirty after a write (R64, R186). -/
def useSlot (team : Nat) (write : Bool) (l : List Near) (reg word : Nat) : List Near :=
  match l.find? (·.holds team reg word) with
  | some n => { n with dirty := n.dirty || write } :: l.filter fun m => !m.holds team reg word
  | none => l

/-- An instruction of a team uses its near slots in the words of its lanes: those of the registers it reads, then of those it
writes. -/
def State.useNear (s : State) (t : Team) (act : Mask) (reads writes : List Nat) : State :=
  let near := (s.core t.core).near
  if !near.any (·.team == t.id) then s
  else
    let pass (write : Bool) (regs : List Nat) (l : List Near) : List Near :=
      (wordsOf act t.lanes).foldl (fun l w => regs.foldl (fun l r => useSlot t.id write l r w) l) l
    s.modCore t.core fun c => { c with near := pass true writes (pass false reads near) }

/-- The near slots that the region of a team claims. -/
def State.fillRegion (s : State) (t : Team) (regs : List Nat) : State :=
  let regs := regs.filter (· < t.vregs)
  let fill (l : List Near) : List Near :=
    (wordsOf t.cur t.lanes).foldl (fun l w => regs.foldl (fun l r => s.claimNear t regs l r w) l) l
  s.modCore t.core fun c => { c with near := fill c.near }

/-- Near slots of dropped registers, or of a team that left, are discarded. -/
def State.dropNear (s : State) (t : Team) (v : Nat) : State :=
  s.modCore t.core fun c => { c with near := c.near.filter fun n => !(n.team == t.id && v ≤ n.reg) }

end Sys2Proof.Machine
end

