-- ==== Sys2Proof/Machine/Control.lean ====
section
/-! DEFINITION. Instruction fetch, branches, calls, the mask stack, team life, register placement and system values
(spec/06_kernel_image.md R127, R132, spec/08_team.md R170 to R177, R186 to R190). -/

namespace Sys2Proof.Machine

/-! ## Fetch (R105, R132) -/

/-- The word of code at an offset from H + 64, read at its home. The window region carries no execute permission. -/
def State.fetchPlace (s : State) (t : Team) (g : Gang) (off : Nat) : Except LErr Place :=
  let va := g.src.image + 64 + off
  if inWindow va then .error (.ofKind Kind.execProt (Config.walkLevel s.fresh).toNat)
  else s.resolve (t.who g.src.ctx none) .ex 8 8 va

/-- The 64 bits at a fetch place. -/
def State.fetchAt (s : State) (p : Place) : Word :=
  match p with
  | .dev x pa => BitVec.ofNat 64 (leNat (s.homeRead (some x.leaf.key) pa 8))
  | _ => 0

/-- A branch is taken to an offset: a target that is no clause header, or lies past the code, raises ILLEGAL with the
program counter at the branch (R127). A fetch fault of the target is met when its clause issues. -/
def State.branchTo (s s' : State) (t : Team) (off : Nat) : Except Trap Done :=
  match s.gangOf t with
  | none => .ok (.jump s' off)
  | some g =>
    if g.src.hdr.codeSize ≤ off then raise Code.illegal
    else
      match s.fetchPlace t g off with
      | .ok p => if isHeader (s.fetchAt p) then .ok (.jump s' off) else raise Code.illegal
      | .error _ => .ok (.jump s' off)

/-- The target of an encoded offset: relative to the header of the clause that holds the branch (R127). -/
def Team.target (t : Team) (o : Li) : Nat := (((t.clause.map (·.base)).getD 0 : Nat) + o.imm.toInt : Int).toNat

/-- A branch with the team changed. -/
def branchTeam (s : State) (t u : Team) (off : Nat) : Except Trap Done := s.branchTo (s.setTeam u) t off

/-! ## Branches and calls (R170, R171) -/

/-- BRA (R170). -/
def braOp (o : Li) (s : State) (t : Team) : Except Trap Done := branchTeam s t t (t.target o)

/-- BRA (R170). -/
def execBra (_ : Hd) (o : Li) (s : State) : Host.Outcome State Fault Refusal := issue s (braOp o)

/-- BRAU is taken: `.all` or `.any` of the lanes in the execution mask have the predicate, or lack it under `.not`; an
empty mask does not branch. -/
def Team.brauTaken (t : Team) (o : Li) : Bool :=
  let p := if o.e.getLsbD 1 then ~~~(t.pred o.d.toNat) else t.pred o.d.toNat
  t.cur != 0 && (if o.e.getLsbD 0 then t.cur &&& p != 0 else t.cur &&& p == t.cur)

/-- BRAU (R170). -/
def brauOp (o : Li) (s : State) (t : Team) : Except Trap Done :=
  if t.brauTaken o then branchTeam s t t (t.target o) else .ok (.next s)

/-- BRAU (R170). -/
def execBrau (_ : Hd) (o : Li) (s : State) : Host.Outcome State Fault Refusal := issue s (brauOp o)

/-- The team with entries pushed; a stack of 48 entries raises ILLEGAL (R172). -/
def Team.push (t : Team) (es : List MaskEntry) : Except Trap Team :=
  if 48 < t.stack.length + es.length then raise Code.illegal else .ok { t with stack := es ++ t.stack }

/-- CALL: an entry with the address of the next clause, then the branch (R171). -/
def callOp (o : Li) (s : State) (t : Team) : Except Trap Done := do
  let u ← t.push [{ kind := .call, mask := 0, ret := t.pc + 8 }]
  branchTeam s t u (t.target o)

/-- CALL (R171). -/
def execCall (_ : Hd) (o : Li) (s : State) : Host.Outcome State Fault Refusal := issue s (callOp o)

/-- RET: ILLEGAL unless the top entry is a CALL entry (R171). -/
def retOp (s : State) (t : Team) : Except Trap Done :=
  match t.stack with
  | e :: r => if e.kind == .call then branchTeam s t { t with stack := r } e.ret else raise Code.illegal
  | [] => raise Code.illegal

/-- RET (R171). -/
def execRet (_ : Hd) (_ : Rrr) (s : State) : Host.Outcome State Fault Refusal := issue s retOp

/-! ## Structured constructs (R173, R174) -/

/-- The construct branches when no lane is left in the execution mask. -/
def branchIfEmpty (s : State) (t u : Team) (o : Li) : Except Trap Done :=
  if u.cur == 0 then branchTeam s t u (t.target o) else .ok (teamDone s u)

/-- IF (R173). -/
def ifOp (h : Hd) (o : Li) (s : State) (t : Team) : Except Trap Done := do
  let u ← t.push [{ kind := .ifc, mask := t.cur &&& ~~~(t.pass h), ret := 0 }]
  branchIfEmpty s t { u with cur := t.active h } o

/-- IF (R173). -/
def execIfc (h : Hd) (o : Li) (s : State) : Host.Outcome State Fault Refusal := issue s (ifOp h o)

/-- ELSE (R173). -/
def elseOp (o : Li) (s : State) (t : Team) : Except Trap Done :=
  match t.stack with
  | e :: r =>
    if e.kind == .ifc then
      branchIfEmpty s t { t with cur := e.mask, stack := { e with kind := .elsec, mask := t.cur } :: r } o
    else raise Code.illegal
  | [] => raise Code.illegal

/-- ELSE (R173). -/
def execElsec (_ : Hd) (o : Li) (s : State) : Host.Outcome State Fault Refusal := issue s (elseOp o)

/-- ENDIF (R173). -/
def endifOp (s : State) (t : Team) : Except Trap Done :=
  match t.stack with
  | e :: r =>
    if e.kind == .ifc || e.kind == .elsec then .ok (teamDone s { t with cur := t.cur ||| e.mask, stack := r })
    else raise Code.illegal
  | [] => raise Code.illegal

/-- ENDIF (R173). -/
def execEndif (_ : Hd) (_ : Sys) (s : State) : Host.Outcome State Fault Refusal := issue s endifOp

/-- LOOP: a BREAK entry and then a CONT entry, both empty (R174). -/
def loopOp (s : State) (t : Team) : Except Trap Done := do
  let u ← t.push [{ kind := .cont, mask := 0, ret := 0 }, { kind := .brk, mask := 0, ret := 0 }]
  return teamDone s u

/-- LOOP (R174). -/
def execLoop (_ : Hd) (_ : Li) (s : State) : Host.Outcome State Fault Refusal := issue s loopOp

/-- Lanes added to the mask of the innermost entry of a kind; none when the stack holds no such entry. -/
def addToInnermost (k : MaskKind) (m : Mask) : List MaskEntry → Option (List MaskEntry)
  | [] => none
  | e :: r =>
    if e.kind == k then some ({ e with mask := e.mask ||| m } :: r) else (addToInnermost k m r).map (e :: ·)

/-- BRK and CONT: the passing lanes leave the execution mask for the innermost entry of the kind (R174). -/
def leaveOp (k : MaskKind) (h : Hd) (o : Li) (s : State) (t : Team) : Except Trap Done :=
  let m := t.active h
  match addToInnermost k m t.stack with
  | none => raise Code.illegal
  | some r =>
    if m == 0 then .ok (.next s) else branchIfEmpty s t { t with cur := t.cur &&& ~~~m, stack := r } o

/-- BRK (R174). -/
def execBrk (h : Hd) (o : Li) (s : State) : Host.Outcome State Fault Refusal := issue s (leaveOp .brk h o)
/-- CONT (R174). -/
def execCont (h : Hd) (o : Li) (s : State) : Host.Outcome State Fault Refusal := issue s (leaveOp .cont h o)

/-- ENDL (R174). -/
def endlOp (o : Li) (s : State) (t : Team) : Except Trap Done :=
  match t.stack with
  | c :: b :: r =>
    if c.kind == .cont && b.kind == .brk then
      let cur := t.cur ||| c.mask
      if cur != 0 then branchTeam s t { t with cur := cur, stack := { c with mask := 0 } :: b :: r } (t.target o)
      else .ok (teamDone s { t with cur := b.mask, stack := r })
    else raise Code.illegal
  | _ => raise Code.illegal

/-- ENDL (R174). -/
def execEndl (_ : Hd) (o : Li) (s : State) : Host.Outcome State Fault Refusal := issue s (endlOp o)

/-! ## Team life (R176, R177) -/

/-- The team holds an open reader section in some domain slot (R176, R292). -/
def Team.reading (t : Team) : Bool := t.readers.any fun x => x.2.depth != 0

/-- Every lane is exited (R167). -/
def Team.allExited (t : Team) : Bool := t.exited &&& lanesBelow t.lanes == lanesBelow t.lanes

/-- EXIT (R176): RSECEXIT when it would end the team inside a reader section. -/
def exitOp (h : Hd) (s : State) (t : Team) : Except Trap Done :=
  let m := t.active h
  let u := { t with cur := t.cur &&& ~~~m, exited := t.exited ||| m }
  if u.allExited then (if t.reading then raise Code.rsecexit else .ok (teamDone s { u with st := .ended }))
  else .ok (teamDone s u)

/-- EXIT (R176). -/
def execExit (h : Hd) (_ : Sys) (s : State) : Host.Outcome State Fault Refusal := issue s (exitOp h)

/-- NOP (R177). -/
def execNop (_ : Hd) (_ : Sys) (s : State) : Host.Outcome State Fault Refusal := issue s fun s _ => .ok (.next s)

/-- The team stands behind every other of its rank on its pipe (R116, R350): its last issue is later than any of this cycle. -/
def Team.yielded (t : Team) (now : Nat) : Team := { t with lastIssue := 2 * now + 1 }

/-- YIELD (R177). -/
def execYield (_ : Hd) (_ : Sys) (s : State) : Host.Outcome State Fault Refusal :=
  issue s fun s t => .ok (teamDone s (t.yielded s.now))

/-- SLEEP: d cycles, 0 acts as YIELD (R177); the instruction ends with the sleep. -/
def sleepOp (o : Ri) (s : State) (t : Team) : Except Trap Done := do
  let a ← if o.e.getLsbD 0 then t.int o.a.toNat else .ok 0
  let d := clip32 (o.imm.toInt + a)
  if d == 0 then return teamDone s (t.yielded s.now)
  else return .hold (s.setTeam { t with st := .sleeping (s.now + d) })

/-- SLEEP (R177). -/
def execSleep (_ : Hd) (o : Ri) (s : State) : Host.Outcome State Fault Refusal := issue s (sleepOp o)

/-! ## Register placement (R186 to R189) -/

/-- REGION: the named registers claim near slots; the team keeps its list. -/
def regionOp (o : Rrr) (s : State) (t : Team) : Except Trap Done :=
  let regs := Wf.regionRegs o
  .ok (.next ((s.fillRegion t regs).setTeam { t with region := regs }))

/-- REGION (R186). -/
def execRegion (_ : Hd) (o : Rrr) (s : State) : Host.Outcome State Fault Refusal := issue s (regionOp o)

/-- SETX (R187). -/
def setxOp (o : Ri) (s : State) (t : Team) : Except Trap Done := do
  let a ← if o.e.getLsbD 0 then t.int o.a.toNat else .ok 0
  let base := if o.e.getLsbD 1 then t.xval else 0
  let v := satInt (-32768) 32767 (base + o.imm.toInt + a)
  return teamDone s ({ t with x := BitVec.ofInt 16 v.1 }.raiseFlags v.2)

/-- SETX (R187). -/
def execSetx (_ : Hd) (o : Ri) (s : State) : Host.Outcome State Fault Refusal := issue s (setxOp o)

/-- RGROW (R188): REGBOUND past 256 registers or past an empty core; without room, or behind an older team, the team
enters Growing. -/
def rgrowOp (o : Ri) (s : State) (t : Team) : Except Trap Done := do
  let g := o.imm.toNat
  let v := grownVregs t.vregs g
  let room := match s.gangOf t with
    | none => false
    | some x => s.grownFootprint t x.src.hdr v ≤ (if x.isHandler then 32768 else allocSpace (s.waysOf t.cluster))
  require (v ≤ 256 && room) Code.regbound
  if s.canGrow t g && !s.growingBefore t s.now then return teamDone (s.moveGrown t g) (s.grown t g)
  else return .hold (s.setTeam { t with st := .growing g s.now })

/-- RGROW (R188). -/
def execRgrow (_ : Hd) (o : Ri) (s : State) : Host.Outcome State Fault Refusal := issue s (rgrowOp o)

/-- RSHRINK (R189). -/
def rshrinkOp (o : Ri) (s : State) (t : Team) : Except Trap Done := do
  let g := o.imm.toNat
  require (8 * g ≤ roundUp t.vregs 8) Code.regbound
  let v := roundUp t.vregs 8 - 8 * g
  return .next ((s.dropNear t v).setTeam (t.dropFrom v))

/-- RSHRINK (R189). -/
def execRshrink (_ : Hd) (o : Ri) (s : State) : Host.Outcome State Fault Refusal := issue s (rshrinkOp o)

/-! ## System values (R190) -/

/-- The value and tag of a selector. -/
def State.sysValue (s : State) (t : Team) (g : Gang) (sel : Nat) : Word × Tag :=
  let n (x : Nat) : Word := BitVec.ofNat 64 x
  match sel with
  | 0 => (n 0x100, Tag.n32)
  | 1 => (n g.src.image, Tag.i64)
  | 2 => (n g.src.args, Tag.i64)
  | 3 => (n g.src.record, Tag.i64)
  | 4 => (n g.src.ordinal, Tag.i64)
  | 5 => (n t.group, Tag.n32)
  | 6 => (n t.index, Tag.n32)
  | 7 => (n t.lanes, Tag.n32)
  | 8 => (n t.vregs, Tag.n32)
  | 9 => ((t.x.signExtend 32).zeroExtend 64, Tag.i32)
  | 10 => (t.sticky.zeroExtend 64, Tag.n32)
  | 11 => (n t.stack.length, Tag.n32)
  | 12 => (n t.core, Tag.n32)
  | 13 => (n g.src.part, Tag.n32)
  | 14 => (n g.src.ctx, Tag.n32)
  | 15 => (n s.now, Tag.i64)
  | _ => (n g.src.lflags, Tag.n32)

/-- SREAD: a value, and under `.clr` the sticky flags cleared in the same step (R190). -/
def sreadOp (o : Sys) (s : State) (t : Team) : Except Trap Done :=
  match s.gangOf t with
  | none => .ok (.next s)
  | some g =>
    let v := s.sysValue t g o.imm.toNat
    let t := if o.e.getLsbD 0 then { t with sticky := 0 } else t
    .ok (teamDone s (t.setS o.d.toNat v.1 v.2))

/-- SREAD (R190). -/
def execSread (_ : Hd) (o : Sys) (s : State) : Host.Outcome State Fault Refusal := issue s (sreadOp o)

end Sys2Proof.Machine
end

