-- ==== Sys2Proof/Machine/Exchange.lean ====
section
/-! DEFINITION. The Shuttle exchange (spec/08_team.md R184, R185), and how accesses at a word's home meet the issuing
cluster's cache (R101). -/

namespace Sys2Proof.Machine

/-- Before a request leaves for a word's home, the cluster's dirty bytes of its line are written back, and after it the
line's clean sectors are invalid (R101). Window memory and host pages are not cached. -/
def State.meetHome (s : State) (cl : Nat) (p : Place) : State :=
  match p with
  | .dev _ pa => if regionOf pa == .system then s else (s.l1Clean cl (pa / 512)).l1Invalidate cl (pa / 512)
  | _ => s

/-- A place of this package's device memory or of chip scratchpad; any other raises ACCESS (R184, R218). -/
def homedPlace (p : Place) : Bool :=
  match p with
  | .dev _ pa => regionOf pa == .local
  | .win (.seg _) => true
  | _ => false

/-! ## XCL (R184) -/

/-- Status values of sC. -/
def xclDone : Nat := 0
def xclShape : Nat := 1
def xclCtx : Nat := 2
def xclBadChan : Nat := 3
def xclNoLane : Nat := 4

/-- The status is written N32, untainted. -/
def Team.setStatus (t : Team) (r v : Nat) : Team := t.setS r (BitVec.ofNat 64 v) Tag.n32

/-- The team waiting at a channel; of two, which only a store of software can bring about (R185), the one with the lowest team
key (log entry 56). -/
def State.xclWaiter (s : State) (chan : Loc) : Option Team :=
  (s.teams.find? fun x => match x.2.st with
    | .waiting (.xcl c _ _ _ _ _) => c == chan
    | _ => false).map (·.2)

/-- What one team receives in an exchange of k registers: in the lanes of both masks, the sender's bits, word tags and
taint. -/
def Team.receive (t sender : Team) (m : Mask) (d a k : Nat) : Team :=
  (List.range k).foldl (fun u i =>
    u.writeRegTags m (d + i) (sender.vtag (a + i)) (sender.lane (a + i)) (sender.vtaint (a + i))) t

/-- An arrival at a channel that holds a waiting team: the exchange, or the statuses of R184. -/
def xclArrive (s : State) (t u : Team) (chan : Loc) (d a k c : Nat) (act : Mask) (unset : Bool) : Except Trap Done :=
  match u.st with
  | .waiting (.xcl _ d2 a2 k2 c2 m2) =>
    if s.ctxOf u != s.ctxOf t then
      (if unset then raise Code.format else .ok (teamDone s (t.setStatus c xclCtx)))
    else
      let s := s.locWrite none chan (leBytes 8 0)
      if unset then .ok (.trap (s.endWait u.id fun v => v.setStatus c2 xclShape) (.err Code.format none))
      else if k2 != k || u.lanes != t.lanes then
        .ok (teamDone (s.endWait u.id fun v => v.setStatus c2 xclShape) (t.setStatus c xclShape))
      else
        let m := act &&& m2
        let s := s.endWait u.id fun v => (v.receive t m d2 a k).setStatus c2 xclDone
        .ok (teamDone s ((t.receive u m d a2 k).setStatus c xclDone))
  | _ => .ok (teamDone s (t.setStatus c xclBadChan))

/-- XCL. -/
def xclOp (h : Hd) (o : Rrr) (s : State) (t : Team) : Except Trap Done := do
  let k := (o.e &&& 15).toNat + 1
  let c := o.c.toNat
  let d ← t.vreg h.ixD o.d k
  let a ← t.vreg h.ixA o.a k
  let va ← t.addr o.b.toNat
  let act := t.active h
  if act == 0 then return teamDone s (t.setStatus c xclNoLane)
  let unset := (List.range k).any fun i => (wordsOf act t.lanes).any fun w => t.vtag (a + i) w == Tag.none
  match s.resolveLanes t .rmw 64 64 [(none, va.toNat)] with
  | .error e => if unset then raise Code.format else .error e
  | .ok ps =>
    match ps with
    | [p] =>
      match p.loc with
      | none => raise Code.access
      | some chan =>
        if !homedPlace p then raise Code.access
        else
          let s := (s.usePlaces t .rmw ps).meetHome t.cluster p
          match s.locNat p.slot chan 1 % 4 with
          | 0 =>
            if unset then raise Code.format
            else
              let s := s.locWrite p.slot chan (leBytes 8 1)
              return .hold (s.setTeam { t with st := .waiting (.xcl chan d a k c act) })
          | 1 =>
            match s.xclWaiter chan with
            | some u => xclArrive s t u chan d a k c act unset
            | none => if unset then raise Code.format else return teamDone s (t.setStatus c xclBadChan)
          | _ => if unset then raise Code.format else return teamDone s (t.setStatus c xclBadChan)
    | _ => raise Code.access

/-- XCL (R184). -/
def execXcl (h : Hd) (o : Rrr) (s : State) : Host.Outcome State Fault Refusal := issue s (withRoom h.fb (xclOp h o))

end Sys2Proof.Machine
end

