-- ==== Sys2Proof/Machine/Issue.lean ====
section
/-! DEFINITION. The events of the pipes: issue choice, clause fetch and decode, time slices, boosts, completions and the end
of a sleep (spec/16_kernel_launch.md R350, spec/06_kernel_image.md R109 to R116, R131, R132). -/

namespace Sys2Proof.Machine

/-! ## Issue standing (R350) -/

/-- The priority of a partition, 0 the highest. -/
def State.partPrio (s : State) (p : Nat) : Nat := ((s.sched.parts.find? (·.num == p)).map (·.prio)).getD 7

/-- Rank of a Ready team: handler, boosted, tick-launched, then priorities. -/
def State.issueRank (s : State) (t : Team) : Nat :=
  match s.gangOf t with
  | none => 11
  | some g =>
    match g.src.origin with
    | .handler _ => 0
    | .tick _ _ => if t.boost then 1 else 2
    | .launch _ => if t.boost then 1 else 3 + s.partPrio g.src.part

/-- Order within a rank: boosted teams by the start of their boost, others by their last clause issue. -/
def State.issueOrder (s : State) (t : Team) : Nat := if s.issueRank t == 1 then t.passed.getD 0 else t.lastIssue

/-- Team a stands before team b on a pipe. -/
def State.standsBefore (s : State) (a b : Team) : Bool :=
  s.issueRank a < s.issueRank b ||
    (s.issueRank a == s.issueRank b &&
      (s.issueOrder a < s.issueOrder b || (s.issueOrder a == s.issueOrder b && a.id < b.id)))

/-- The first of a list of teams by standing. -/
def State.firstTeam (s : State) : List Team → Option Team
  | [] => none
  | t :: ts =>
    match s.firstTeam ts with
    | none => some t
    | some u => if s.standsBefore u t then some u else some t

/-- The team a pipe chooses among its Ready teams. -/
def State.chooseTeam (s : State) (p : Nat) : Option Team :=
  s.firstTeam ((s.teams.map (·.2)).filter fun t => t.pipe == p && t.isReady)

/-- At a clause boundary of a pipe, its Ready teams not chosen are passed over. -/
def State.passOver (s : State) (p t : Nat) : State :=
  let upd (x : Nat × Team) : Nat × Team :=
    if x.2.pipe == p && x.1 != t then
      (x.1, { x.2 with passed := if x.2.isReady then some (x.2.passed.getD s.now) else if x.2.boost then x.2.passed else none })
    else x
  { s with teams := s.teams.map upd }

/-! ## Clause fetch (R109 to R111, R115, R131, R132) -/

/-- Every flag of a wait mask holds zero. -/
def Team.flagsClear (t : Team) (mask : Nat) : Bool := t.pend.all fun p => !mask.testBit p.flag

/-- What fetching a clause gives: a clause to start, a wait mask not clear, or an error or fault at a program counter. -/
inductive Fetched where
  | start (c : Clause) (ps : List Place)
  | waits (mask : Nat)
  | fails (tr : Trap) (pc : Nat)
  deriving DecidableEq, Repr

/-- The places of n code words from an offset, each checked by itself: the first that fails ends the fetch. -/
def State.fetchWords (s : State) (t : Team) (g : Gang) (off n : Nat) : Except Trap (List Place) :=
  (List.range n).mapM fun i =>
    (settleLanes .ex [(g.src.image + 64 + off + 8 * i, s.fetchPlace t g (off + 8 * i))]).map fun ps => ps.headD (.own 0 0)

/-- The clause at the team's program counter: fetched and decoded whole before its first instruction. -/
def State.fetchClause (s : State) (t : Team) (g : Gang) : Fetched :=
  let off := t.pc
  let size := g.src.hdr.codeSize
  if size ≤ off then .fails (.err Code.illegal none) off
  else
    match s.fetchWords t g off 1 with
    | .error tr => .fails tr off
    | .ok hp =>
      match decodeHeader (s.fetchAt (hp.headD (.own 0 0))) with
      | .error _ => .fails (.err Code.illegal none) off
      | .ok h =>
        if !t.flagsClear h.wait.toNat then .waits h.wait.toNat
        else
          let n := h.count.toNat + 1
          if size < off + 8 + 8 * n then .fails (.err Code.illegal none) off
          else
            match s.fetchWords t g (off + 8) n with
            | .error tr => .fails tr off
            | .ok ps =>
              let words := ps.map s.fetchAt
              match firstFault h.cls.toNat off size words 0 with
              | some i => .fails (.err Code.illegal none) (off + 8 + 8 * i)
              | none =>
                .start { base := off, flagA := h.flagA.toNat, flagB := h.flagB.toNat, yield := h.yield, words := words }
                  (hp ++ ps)

/-- The chosen team holds the pipe: its clause begins, or an interrupted one resumes (R113). -/
def State.holdPipe (s : State) (t : Team) : State :=
  { s.setTeam { t with boost := false, passed := none, lastIssue := 2 * s.now } with
    running := FMap.put s.running t.pipe (t.id, s.now) }

/-- The chosen team starts. In a halt's skid a wait mask that is not clear ends the skid: the clause begins no instruction
(R356; log entry 9). -/
def State.startClause (s : State) (t : Team) : State :=
  if t.clause.isSome then s.holdPipe t
  else
    match s.gangOf t with
    | none => s
    | some g =>
      match s.fetchClause t g with
      | .start c ps => (s.usePlaces t .ex ps).holdPipe { t with clause := some c, pc := t.pc + 8 }
      | .waits m =>
        if t.skidLeft != 0 then s.endSkid t.id
        else s.setTeam { t with st := .waiting (.flags m), passed := if t.boost then t.passed else none }
      | .fails tr pc =>
        let t := { t with pc := pc }
        (s.setTeam t).takeTrap t tr

/-- CLAUSE_ISSUE of a pipe: not enabled while a clause is in progress there or no team is Ready (R350). -/
def execClauseIssue (p : Nat) (s : State) : Host.Outcome State Fault Refusal :=
  match FMap.look s.running p with
  | some _ => stutter s
  | none =>
    match s.chooseTeam p with
    | none => stutter s
    | some t => .next ((s.passOver p t.id).startClause t)

/-- An MMA's sweep still has word-ops to enter: the pipe issues nothing else (R255). -/
def State.sweeping (s : State) (p : Nat) : Bool := (s.core (p / 4)).sweep.any (·.pipe == p)

/-- CLAUSE_TIMESLICE: a clause that has held its pipe for 2,048 cycles leaves it at an instruction boundary (R113). -/
def execClauseTimeslice (p : Nat) (s : State) : Host.Outcome State Fault Refusal :=
  match FMap.look s.running p with
  | none => stutter s
  | some r =>
    if r.2 + 2048 ≤ s.now && !s.sweeping p then .next { s with running := FMap.del s.running p } else stutter s

/-- BOOST: a Ready team passed over for 64 consecutive cycles (R350). -/
def execBoost (t : Nat) (s : State) : Host.Outcome State Fault Refusal :=
  match s.team t with
  | none => stutter s
  | some u =>
    match u.passed with
    | none => stutter s
    | some c =>
      if u.isReady && !u.boost && c + 64 ≤ s.now then .next (s.setTeam { u with boost := true, passed := some s.now })
      else stutter s

/-! ## Completions (R114) -/

/-- Word-ops of an MMA are still to come. -/
def State.mmaBusy (s : State) (core mma : Nat) : Bool :=
  ((s.core core).queue ++ (s.core core).sweep).any (·.mma == mma)

/-- A team whose wait mask has cleared is Ready (R166). -/
def Team.wakeFlags (t : Team) : Team :=
  match t.st with
  | .waiting (.flags m) => if t.flagsClear m then { t with st := .ready } else t
  | _ => t

/-- An access is still under way to another package: its messages wait for their links, or no link reaches the package
(R399, R400). -/
def State.flying (s : State) (t : Nat) (f : Fly) : Bool :=
  s.link.out.any (·.team == some t) || f.pkgs.any fun p => !s.podReachable f.die p

/-- A pending completion cannot come yet: word-ops of its MMA are to come, or its access is under way. -/
def State.pendBusy (s : State) (u : Team) (p : Pend) : Bool :=
  p.mma.any (s.mmaBusy u.core) || p.fly.any (s.flying u.id)

/-- LONG_LATENCY_COMPLETE: pending completion k of a team; an MMA's waits for its last word-op. The last one of a skid lets
the halt deliver its event (R117). -/
def execLongLatencyComplete (t k : Nat) (s : State) : Host.Outcome State Fault Refusal :=
  match s.team t with
  | none => stutter s
  | some u =>
    match u.pend[k]? with
    | none => stutter s
    | some p =>
      if s.pendBusy u p then stutter s
      else .next ((s.setTeam ({ u with pend := u.pend.eraseIdx k } : Team).wakeFlags).settleHalt u.gang u.group)

/-- SLEEP_END: the duration has passed, and the SLEEP is complete (R177). -/
def execSleepEnd (t : Nat) (s : State) : Host.Outcome State Fault Refusal :=
  match s.team t with
  | none => stutter s
  | some u =>
    match u.st with
    | .sleeping wake => if wake ≤ s.now then .next (s.endWait u.id id) else stutter s
    | _ => stutter s

end Sys2Proof.Machine
end

