-- ==== Sys2Proof/Machine/LoadStore.lean ====
section
/-! DEFINITION. Loads, stores, fences, prefetches, flushes and probes (spec/09_page.md R206 to R217) with the orderings of
spec/05_ordering.md R86 to R98. -/

namespace Sys2Proof.Machine

/-! ## Addresses (R125, R207) -/

/-- Element size of a memory type. -/
def memSize (ty : Nat) : Nat := if ty == 10 || ty == 11 then 8 else if ty == 13 then 1 else if ty == 14 then 2 else 4

/-- Tag a load of a memory type writes. -/
def memTag (ty : Nat) : Tag := if ty == 13 || ty == 14 then Tag.n32 else ty

/-- Scope of die or wider (R84). -/
def wideScope (s : BitVec 3) : Bool := 4 ≤ s.toNat

/-- The base and lane offset of a memory operand, their tags checked (R207). -/
def Team.memOperand (t : Team) (act : Mask) (a b : BitVec 8) (noOff : Bool) : Except Trap (Word × Option Nat) := do
  let v ← if noOff then .ok none else (t.vreg false b 1).map some
  let base ← t.addr a.toNat
  match v with
  | none => return (base, none)
  | some r =>
    t.checkTag act r [Tag.i32, Tag.n32]
    return (base, some r)

/-- The address of lane L: base + (offset + imm) * esize, 64 bits. -/
def Team.laneAddr (t : Team) (m : Word × Option Nat) (imm : Int) (esize l : Nat) : Nat :=
  let off : Int := match m.2 with | none => 0 | some r => (t.lane r l).toInt
  (m.1 + BitVec.ofInt 64 ((off + imm) * esize)).toNat

/-- The address of lane L uses a tainted register. -/
def Team.addrTaint (t : Team) (a : BitVec 8) (m : Word × Option Nat) (l : Nat) : Bool :=
  (t.sreg a.toNat).taint || (match m.2 with | none => false | some r => t.vtaint r l)

/-- The lanes and addresses of an access. -/
def Team.laneAddrs (t : Team) (act : Mask) (m : Word × Option Nat) (imm : Int) (esize : Nat) : List (Option Nat × Nat) :=
  (lanesOf act t.lanes).map fun l => (some l, t.laneAddr m imm esize l)

/-! ## Accesses of other packages (R399, R400) -/

/-- An instruction that has sent messages to other packages is under way until they are answered: its messages carry its
team, and it keeps what it read and the registers `vs`, `ss` and `cs` it writes as they were. Any other one counts on its
flag (R114). -/
def State.countFar (s s' : State) (t : Team) (fb : Bool) (vs ss cs : List Nat) : State :=
  let n := s.link.out.length
  match ((s'.link.out.drop n).map (·.pkg)).eraseDups with
  | [] => s'.modTeam t.id (Team.count fb none)
  | pkgs =>
    let fly : Fly :=
      { pkgs := pkgs, die := t.die, pc := t.pc, clause := t.clause, vs := vs, ss := ss, cs := cs, file := t.file
        sregs := t.sregs, acc := t.acc
        raised := ((s'.team t.id).map (·.sticky)).getD 0 &&& ~~~t.sticky }
    (s'.withLink fun x => { x with out := x.out.take n ++ (x.out.drop n).map fun o => { o with team := some t.id } }).modTeam
      t.id (Team.countFly fb none (some fly))

/-- The lane registers of an operand of k registers. -/
def Team.operRegs (t : Team) (ix : Bool) (r : BitVec 8) (k : Nat) : List Nat :=
  match t.vreg ix r k with
  | .ok d => regList d k
  | .error _ => []

/-- A long-latency instruction that may access other packages: `vs`, `ss` and `cs` are the lane registers, scalar registers
and accumulators it writes. -/
def issueFar (s : State) (fb : Bool) (acts : Team → Bool) (vs ss cs : Team → List Nat)
    (f : State → Team → Except Trap Done) : Host.Outcome State Fault Refusal :=
  issue s fun s t =>
    if !t.flagRoom fb then .error .stall
    else
      match f s t with
      | .ok (.next s') => .ok (.next (if acts t then s.countFar s' t fb (vs t) (ss t) (cs t) else s'))
      | r => r

/-- No register. -/
def noRegs (_ : Team) : List Nat := []

/-! ## Orderings (R91, R92, R96) -/

/-- A release of a team at a scope, without its own write. -/
def State.release (s : State) (t : Team) (scope : Nat) : State := if 4 ≤ scope then s.writeBackAll t.cluster else s

/-- An acquire of a team at a scope, without its own read. -/
def State.acquire (s : State) (t : Team) (scope : Nat) : State := if 4 ≤ scope then s.invalidateAll t.cluster else s

/-- The probes of a promoted acquire for one line it reads, at its home slice (R98). -/
def State.promotePlace (s : State) (t : Team) (scope : Nat) : Place → State
  | .dev x pa =>
    match regionOf pa with
    | .local => s.promote (homeSlice x.leaf.place x.leaf.hdie pa) (pa / 512) scope t.cluster
    | .pod p => s.sendOut p .request (.promote pa scope t.cluster)
    | _ => s
  | _ => s

/-- The probes of a promoted acquire for every line it reads (R98). -/
def State.promoteAll (s : State) (t : Team) (scope : Nat) (ps : List Place) : State :=
  ps.foldl (fun s p => s.promotePlace t scope p) s

/-- The notice of a release at cluster scope or narrower to one location, at its home slice (R98). -/
def State.noticePlace (s : State) (t : Team) : Place → State
  | .dev x pa =>
    match regionOf pa with
    | .local => s.narrowNotice (homeSlice x.leaf.place x.leaf.hdie pa) (pa / 512) t.cluster
    | .pod p =>
      let e := (pa / 512, t.cluster)
      (s.sendOut p .request (.notice pa t.cluster)).withMem fun m =>
        { m with away := if m.away.contains e then m.away else m.away ++ [e] }
    | _ => s
  | _ => s

/-- The notices of a release at cluster scope or narrower (R98). -/
def State.noticeAll (s : State) (t : Team) (ps : List Place) : State := ps.foldl (fun s p => s.noticePlace t p) s

/-! ## Loads (R208) -/

/-- Reads at places in ascending lane order; the bytes of each as a number. -/
def State.readPlaces (s : State) (t : Team) (n : Nat) : List (Manner × Place) → List Nat × State
  | [] => ([], s)
  | (m, p) :: r =>
    let x := s.teamRead t m p n
    let y := x.2.readPlaces t n r
    (leNat x.1 :: y.1, y.2)

/-- The addresses of invalid words that reads touch (R82). -/
def State.invalidOf (s : State) (n : Nat) (las : List (Option Nat × Nat)) (ps : List Place) : List Nat :=
  (las.zip ps).flatMap fun (x, p) => s.invalidWords x.2 n p

/-- LD and LDC: `dep` marks LDC. -/
def loadOp (dep : Bool) (h : Hd) (o : Mem) (s : State) (t : Team) : Except Trap Done := do
  let ty := o.ty.toNat
  let n := memSize ty
  let tag := memTag ty
  let d ← t.vreg h.ixD o.d (regsOf tag) (Tag.wide tag)
  let act := t.active h
  let m ← t.memOperand act o.a o.b o.noOff
  let las := t.laneAddrs act m o.imm.toInt n
  require (!(o.prom && las.any fun x => inWindow x.2)) Code.illegal
  let ps ← s.resolveLanes t .rd n n las
  let s ← s.unwritten t (s.invalidOf n las ps)
  let acq := o.ord == 1
  let s := s.usePlaces t .rd ps
  let s := if o.prom then s.promoteAll t o.scope.toNat ps else s
  let slice := o.nol1 || (wideScope o.scope && (acq || dep))
  let ls := lanesOf act t.lanes
  let manners := ls.map fun l => { slice := slice, taint := t.addrTaint o.a m l, ret := o.ret.toNat : Manner }
  let r := s.readPlaces t n (manners.zip ps)
  let s := if acq && act != 0 then r.2.acquire t o.scope.toNat else r.2
  let val (l : Nat) : Nat := ((ls.zip r.1).find? (·.1 == l)).map (·.2) |>.getD 0
  return .next (s.modTeam t.id fun u =>
    u.writeRegs act d (tagsOfTy tag) (fun l => regsOfVal tag (val l)) (fun l => dep || t.addrTaint o.a m l))

/-- The lane registers a load writes. -/
def loadRegs (h : Hd) (o : Mem) (t : Team) : List Nat := t.operRegs h.ixD o.d (regsOf (memTag o.ty.toNat))

/-- LD (R208). -/
def execLd (h : Hd) (o : Mem) (s : State) : Host.Outcome State Fault Refusal :=
  issueFar s h.fb (hasLane h) (loadRegs h o) noRegs noRegs (loadOp false h o)
/-- LDC (R208, R97). -/
def execLdc (h : Hd) (o : Mem) (s : State) : Host.Outcome State Fault Refusal :=
  issueFar s h.fb (hasLane h) (loadRegs h o) noRegs noRegs (loadOp true h o)

/-- LDS: once per issue, into a scalar register (R208, R211). -/
def ldsOp (o : Mem) (s : State) (t : Team) : Except Trap Done := do
  let ty := o.ty.toNat
  let n := memSize ty
  let m ← t.memOperand 0 o.a o.b true
  let va := t.laneAddr m o.imm.toInt n 0
  let ps ← s.resolveLanes t .rd n n [(none, va)]
  let s ← s.unwritten t (s.invalidOf n [(none, va)] ps)
  let s := s.usePlaces t .rd ps
  let taint := (t.sreg o.a.toNat).taint
  let r := s.readPlaces t n (ps.map fun p => ({ slice := o.nol1, taint := taint, ret := o.ret.toNat }, p))
  return .next (r.2.modTeam t.id fun u => u.setS o.d.toNat (BitVec.ofNat 64 (r.1.headD 0)) (memTag ty) taint)

/-- LDS (R208). -/
def execLds (h : Hd) (o : Mem) (s : State) : Host.Outcome State Fault Refusal := 
  issueFar s h.fb (fun _ => true) noRegs (fun _ => [o.d.toNat]) noRegs (ldsOp o)

/-! ## Stores (R209) -/

/-- Accepted data tags of a store. -/
def storeTags (ty : Nat) : List Tag := if 1 ≤ ty && ty ≤ 11 then [ty, Tag.raw] else Tag.any

/-- Stores at places in ascending lane order: bytes and the value's taint. -/
def State.writePlaces (s : State) (t : Team) (how : Put) (ret : Nat) : List (Place × List Byte × Bool) → State
  | [] => s
  | (p, bs, taint) :: r => (s.teamWrite t how ret p bs taint).writePlaces t how ret r

/-- How a store of an order, a scope and `.nol1` is made. -/
def putOf (rel nol1 : Bool) (scope : BitVec 3) : Put :=
  if nol1 then .direct else if rel && wideScope scope then .through else .plain

/-- ST. -/
def storeOp (h : Hd) (o : Mem) (s : State) (t : Team) : Except Trap Done := do
  let ty := o.ty.toNat
  let n := memSize ty
  let k := if n == 8 then 2 else 1
  let d ← t.vreg h.ixD o.d k (n == 8)
  let act := t.active h
  let m ← t.memOperand act o.a o.b o.noOff
  t.checkTags act d k (storeTags ty)
  let las := t.laneAddrs act m o.imm.toInt n
  let ps ← s.resolveLanes t .wr n n las
  let rel := o.ord == 2 && act != 0
  let s := s.usePlaces t .wr ps
  let s := if rel then s.release t o.scope.toNat else s
  let ls := lanesOf act t.lanes
  let data (l : Nat) : List Byte := leBytes n (if k == 2 then (t.lane64 d l).toNat else (t.lane d l).toNat)
  let taint (l : Nat) : Bool := (regList d k).any fun v => t.vtaint v l
  let s := s.writePlaces t (putOf rel o.nol1 o.scope) o.ret.toNat ((ps.zip ls).map fun (p, l) => (p, data l, taint l))
  return .next (if rel && !wideScope o.scope then s.noticeAll t ps else s)

/-- ST (R209). -/
def execSt (h : Hd) (o : Mem) (s : State) : Host.Outcome State Fault Refusal :=
  issueFar s h.fb (hasLane h) noRegs noRegs noRegs (storeOp h o)

/-- STS: once per issue, from a scalar register (R209, R211). -/
def stsOp (o : Mem) (s : State) (t : Team) : Except Trap Done := do
  let ty := o.ty.toNat
  let n := memSize ty
  let m ← t.memOperand 0 o.a o.b true
  let x ← t.scalar o.d.toNat (storeTags ty)
  let va := t.laneAddr m o.imm.toInt n 0
  let ps ← s.resolveLanes t .wr n n [(none, va)]
  let s := s.usePlaces t .wr ps
  return .next (s.writePlaces t (putOf false o.nol1 0) o.ret.toNat (ps.map fun p => (p, leBytes n x.toNat, false)))

/-- STS (R209). -/
def execSts (h : Hd) (o : Mem) (s : State) : Host.Outcome State Fault Refusal := 
  issueFar s h.fb (fun _ => true) noRegs noRegs noRegs (stsOp o)

/-! ## FENCE (R212) -/

/-- FENCE: release for orders 2 to 4, acquire for orders 1, 3 and 4 (R96). -/
def fenceOp (o : Mem) (s : State) (t : Team) : Except Trap Done :=
  let ord := o.ord.toNat
  let s := if 2 ≤ ord then s.release t o.scope.toNat else s
  .ok (.next (if ord != 2 then s.acquire t o.scope.toNat else s))

/-- FENCE (R212). -/
def execFence (h : Hd) (o : Mem) (s : State) : Host.Outcome State Fault Refusal :=
  issueFar s h.fb (fun _ => true) noRegs noRegs noRegs (fenceOp o)

/-! ## PREF (R213) and CFLUSH (R214) -/

/-- One lane's prefetch: into the L1, or with `.nol1` into the home slice only. An address that would err is dropped. -/
def State.prefetch (s : State) (t : Team) (o : Mem) (la : Option Nat × Nat) : State :=
  let w := t.who (s.ctxOf t) la.1
  match s.resolve w .rd (memSize o.ty.toNat) (memSize o.ty.toNat) la.2 with
  | .ok (.dev x pa) =>
    let s := s.usePlace w .rd (.dev x pa)
    if regionOf pa == .system then s
    else if o.nol1 then s.askHome o.ret.toNat x pa (memSize o.ty.toNat)
    else
      (s.teamRead t { slice := false, taint := false, ret := o.ret.toNat } (.dev x pa) (memSize o.ty.toNat)).2.touchPage
        o.ret.toNat x pa
  | _ => s

/-- PREF. -/
def prefOp (h : Hd) (o : Mem) (s : State) (t : Team) : Except Trap Done := do
  let act := t.active h
  let m ← t.memOperand act o.a o.b o.noOff
  return .next ((t.laneAddrs act m o.imm.toInt (memSize o.ty.toNat)).foldl (fun s la => s.prefetch t o la) s)

/-- PREF (R213). -/
def execPref (h : Hd) (o : Mem) (s : State) : Host.Outcome State Fault Refusal := 
  issueFar s h.fb (hasLane h) noRegs noRegs noRegs (prefOp h o)

/-- One line flushed: written back and out of the cluster's L1; at system scope the slice's copy leaves the slice. A line of
another package is flushed there at pod scope and wider. -/
def State.flushLine (s : State) (t : Team) (scope : Nat) (p : Place) : State :=
  match p with
  | .dev _ pa =>
    if regionOf pa == .system then s
    else
      let s := s.l1Evict t.cluster (pa / 512)
      match regionOf pa with
      | .pod p => if 6 ≤ scope then s.sendOut p .request (.flush pa scope) else s
      | _ => if scope == 7 then s.dropLine (pa / 512) else s
  | _ => s

/-- A lane of CFLUSH translates and faults as a read does, without its alignment; on window memory, where it does nothing,
only the bounds are checked. -/
def State.flushPlace (s : State) (w : Who) (va : Nat) : Except LErr Place :=
  s.resolve w (if inWindow va then .wr else .rd) 1 1 va

/-- CFLUSH. -/
def cflushOp (h : Hd) (o : Mem) (s : State) (t : Team) : Except Trap Done := do
  let act := t.active h
  let m ← t.memOperand act o.a o.b o.noOff
  let las := t.laneAddrs act m o.imm.toInt (memSize o.ty.toNat)
  let ps ← settleLanes .rd (las.map fun x => (x.2, s.flushPlace (t.who (s.ctxOf t) x.1) x.2))
  return .next (ps.foldl (fun s p => s.flushLine t o.scope.toNat p) (s.usePlaces t .rd ps))

/-- CFLUSH (R214). -/
def execCflush (h : Hd) (o : Mem) (s : State) : Host.Outcome State Fault Refusal :=
  issueFar s h.fb (hasLane h) noRegs noRegs noRegs (cflushOp h o)

/-! ## PROBE (R215) -/

/-- The result of PROBE for an address. -/
def State.probe (s : State) (w : Who) (va : Nat) : Nat :=
  if 2 ^ 57 ≤ va then Kind.nonCanon * 2 ^ 24
  else if inWindow va then 2 ^ 28
  else
    match s.findXlat w.agent w.ctx va w.afresh with
    | .error (k, _) => k * 2 ^ 24
    | .ok x =>
      let l := x.leaf
      let b (v : Bool) (i : Nat) : Nat := if v then 2 ^ i else 0
      1 + b l.rd 1 + b l.wr 2 + b l.ex 3 + l.size * 2 ^ 4 + b l.pin 7 + l.grain * 2 ^ 8 + l.ret * 2 ^ 10 + b l.place 12 +
        l.hdie * 2 ^ 13 + l.key * 2 ^ 16 + b ((s.ctx w.ctx).hasKey l.key) 23 + s.xlatKind w.ctx x .rd va * 2 ^ 24

/-- PROBE. -/
def probeOp (o : Mem) (s : State) (t : Team) : Except Trap Done := do
  let m ← t.memOperand 0 o.a o.b true
  let va := t.laneAddr m o.imm.toInt (memSize o.ty.toNat) 0
  return teamDone s (t.setS o.d.toNat (BitVec.ofNat 64 (s.probe (t.who (s.ctxOf t) none) va)) Tag.n32)

/-- PROBE (R215). -/
def execProbe (h : Hd) (o : Mem) (s : State) : Host.Outcome State Fault Refusal :=
  issueLong s h.fb (fun _ => true) (probeOp o)

end Sys2Proof.Machine
end

