-- ==== Sys2Proof/Machine/Thimble.lean ====
section
/-! DEFINITION. Synchronisation words: atomics, waits and wakes (spec/10_sync_word.md R218 to R231), and the states of a
word at its Thimble engine. -/

namespace Sys2Proof.Machine

/-! ## Words at their engine (R220, R221) -/

/-- The die whose Thimble engine holds a word: that of its home slice, or of its segment's slice (R218). -/
def Place.die : Place → Nat
  | .dev x pa => homeSlice x.leaf.place x.leaf.hdie pa / 36
  | .win (.seg a) => a / 2 ^ 20 / 8 / 36
  | _ => 0

/-- The last word of a list that a test accepts is changed or left out. -/
def dropLast (p : ThimbleWord → Bool) (f : ThimbleWord → Option ThimbleWord) (l : List ThimbleWord) :
    Option (List ThimbleWord) :=
  match l.reverse.findIdx? p with
  | none => none
  | some i => some (l.zipIdx.filterMap fun (w, j) => if j + i + 1 == l.length then f w else some w)

/-- The SRAM of a die gives up an entry when all are in use: the least recently used Hot word becomes Cold, else the
least recently used Waited word Spilled (R220). -/
def makeRoom (die : Nat) (l : List ThimbleWord) : List ThimbleWord :=
  if (l.filter fun w => w.die == die && w.st != .spilled).length < 65536 then l
  else
    match dropLast (fun w => w.die == die && w.st == .hot) (fun _ => none) l with
    | some m => m
    | none =>
      (dropLast (fun w => w.die == die && w.st == .waited) (fun w => some { w with st := .spilled }) l).getD l

/-- A request reaches a word: a Cold word becomes Hot, a Spilled one is refilled (R220). -/
def MemSt.touchWord (m : MemSt) (die : Nat) (word : Loc) : MemSt :=
  let rest := m.words.filter (·.word != word)
  match m.words.find? (·.word == word) with
  | none => { m with words := { word := word, die := die, st := .hot } :: makeRoom die rest }
  | some w =>
    if w.st == .spilled then { m with words := { w with st := .waited } :: makeRoom w.die rest }
    else { m with words := w :: rest }

/-- A request at the Thimble engine of a place; window words have none. -/
def State.touchWord (s : State) (p : Place) : State :=
  match p.loc with
  | some l => if homedPlace p then s.withMem fun m => m.touchWord p.die l else s
  | none => s

/-- A wake of a Spilled word refills it first (R220). -/
def MemSt.refill (m : MemSt) (word : Loc) : MemSt :=
  match m.words.find? (·.word == word) with
  | some w => if w.st == .spilled then m.touchWord w.die word else m
  | none => m

/-- Waiter records of a die's engine, in SRAM and in the overflow area. -/
def waiterRecords : Nat := 131072 + 2097152

/-- The engine of a die has a free waiter record (R221). -/
def State.waiterFree (s : State) (die : Nat) : Bool := (s.mem.waiters.filter (·.die == die)).length < waiterRecords

/-- A team registers on a word, which is Waited from then on. -/
def MemSt.addWaiter (m : MemSt) (die : Nat) (word : Loc) (team : Nat) : MemSt :=
  let mark (w : ThimbleWord) : ThimbleWord := if w.word == word then { w with st := .waited } else w
  { m with waiters := m.waiters ++ [{ word := word, die := die, team := team }], words := m.words.map mark }

/-! ## Types and operations of the atomic layout (R222, R224) -/

/-- The tag of a type suffix. -/
def atomTag (ty : Nat) : Tag := if ty == 0 then Tag.i32 else if ty == 1 then Tag.n32 else if ty == 2 then Tag.i64 else Tag.f32

/-- Bytes of a type. -/
def atomSize (ty : Nat) : Nat := if ty == 2 then 8 else 4

/-- The tags a data operand may carry (R223). -/
def atomTags (op ty : Nat) : List Tag := if 3 ≤ op && op ≤ 7 then [atomTag ty, Tag.raw] else [atomTag ty]

/-- The new value of a word and the flags of the update (R224). -/
def atomNew (ftz : Bool) (op ty old v w : Nat) : Nat × Sticky :=
  -- FTZ flushes for min and max, never for add
  let tag := atomTag ty
  let pick (max : Bool) : Nat :=
    if ty == 3 then (Elem.f32.round .rne {} (minMaxNum max (Elem.f32.decode ftz old) (Elem.f32.decode ftz v))).1
    else if max then (if intVal tag v ≤ intVal tag old then old else v)
    else if intVal tag old ≤ intVal tag v then old else v
  match op with
  | 0 => if ty == 3 then FloatOp.add.apply .f32 0 false old v 0
         else (wrapBits tag (intVal tag old + intVal tag v), Sticky.none)
  | 1 => (pick false, Sticky.none)
  | 2 => (pick true, Sticky.none)
  | 3 => (old &&& v, Sticky.none)
  | 4 => (old ||| v, Sticky.none)
  | 5 => (old ^^^ v, Sticky.none)
  | 6 => (v, Sticky.none)
  | 7 => (if old == v then w else old, Sticky.none)
  | _ => (wrapBits tag (intVal tag old + intVal tag v), Sticky.none)

/-- An `.addt` update crosses its threshold upwards (R224). -/
def crosses (op ty old new w : Nat) : Bool :=
  op == 8 && intVal (atomTag ty) old < intVal (atomTag ty) w && intVal (atomTag ty) w ≤ intVal (atomTag ty) new

/-! ## Wake events (R228) -/

/-- A waiter's condition on a value: 0 `.ne`, 1 `.ge`; a NaN is never at or above (R227). -/
def waitMet (cond ty val cmp : Nat) : Bool :=
  if cond == 0 then val != cmp
  else if ty == 3 then
    match NumVal.cmp (Elem.f32.decode false val) (Elem.f32.decode false cmp) with
    | some .lt => false
    | some _ => true
    | none => false
  else intVal (atomTag ty) cmp ≤ intVal (atomTag ty) val

/-- A wait that an event has ended holds its status until the team is Ready: MET when its condition holds on the value
after the event, else WOKEN. -/
def State.wakeTeam (s : State) (t : Nat) : State :=
  s.modTeam t fun u =>
    match u.st with
    | .waiting (.waita word cond ty cmp acq scope dl d none) =>
      let val := s.locNat none word (atomSize ty)
      let st := if waitMet cond ty val (cmp.toNat % 2 ^ (8 * atomSize ty)) then 0 else 1
      { u with st := .waiting (.waita word cond ty cmp acq scope dl d (some st)) }
    | _ => u

/-- The deadline of a waiter has passed before this cycle: its wait has ended with TIMEOUT (R228). -/
def Team.expired (now : Nat) (t : Team) : Bool :=
  match t.st with
  | .waiting (.waita _ _ _ _ _ _ dl _ none) => dl < now
  | _ => false

/-- The team with its wait ended by its deadline. -/
def Team.timeOut (t : Team) : Team :=
  match t.st with
  | .waiting (.waita word cond ty cmp acq scope dl d none) => { t with st := .waiting (.waita word cond ty cmp acq scope dl d (some 2)) }
  | _ => t

/-- The waiters of a word whose deadlines have passed leave its list. -/
def State.expire (s : State) (word : Loc) : State :=
  let gone := ((s.mem.waiters.filter (·.word == word)).map (·.team)).filter fun t => (s.team t).any (Team.expired s.now)
  (gone.foldl (fun s t => s.modTeam t Team.timeOut) s).withMem fun m => m.dropWaiters word fun w => gone.contains w.team

/-- Up to m waiters of a word complete, in registration order: the number, and the state. -/
def State.wakeUpTo (s : State) (word : Loc) (m : Nat) : Nat × State :=
  let s := (s.withMem fun x => x.refill word).expire word
  let ts := ((s.mem.waiters.filter (·.word == word)).take m).map (·.team)
  (ts.length, (ts.foldl State.wakeTeam s).withMem fun x => x.dropWaiters word fun w => ts.contains w.team)

/-- A wake event on a word: every waiter of it completes. -/
def State.wakeEvent (s : State) (word : Loc) : State := (s.wakeUpTo word s.mem.waiters.length).2

/-! ## ATOM and RED.M (R222 to R226) -/

/-- The places an atomic may name (R218): no lane-private window and no system page. -/
def State.atomPlace (s : State) (w : Who) (n va : Nat) : Except LErr Place :=
  let own := inWindow va && (match s.window w va n with | some (.own _ _) => true | _ => false)
  if own then .error (.err Code.access none)
  else
    match s.resolve w .rmw n n va with
    | .ok (.dev x pa) => if regionOf pa == .system then .error (.err Code.access none) else .ok (.dev x pa)
    | r => r

/-- A request at the home of a place meets the slice line with its page's hint (R79). -/
def State.touchHome (s : State) : Place → State
  | .dev x pa => s.touchPage 0 x pa
  | _ => s

/-- The update at this package's execution point. -/
def State.atomAt (s : State) (ftz : Bool) (op ty n : Nat) (p : Place) (l : Loc) (v w : Nat) : (Nat × Sticky) × State :=
  let s := (s.touchWord p).touchHome p
  let old := s.locNat p.slot l n
  let r := atomNew ftz op ty old v w
  let s := s.locWrite p.slot l (leBytes n r.1)
  ((old, r.2), if crosses op ty old r.1 w then s.wakeEvent l else s)

/-- One lane's update at the execution point: the old value and the flags. -/
def State.atomLane (s : State) (ftz : Bool) (op ty lane : Nat) (p : Place) (v w : Nat) : (Nat × Sticky) × State :=
  let n := atomSize ty
  match p.loc with
  | none => ((0, Sticky.none), s)
  | some l =>
    match p with
    | .dev _ pa =>
      match regionOf pa with
      | .pod pkg =>
        -- the other package's answer, and the flags of the update it makes (log entry 13)
        let old := (Config.podWord s.fresh (pa + 2 ^ 56 * lane)).toNat % 2 ^ (8 * n)
        ((old, (atomNew ftz op ty old v w).2),
          s.sendOut pkg .request (.atomic pa op ty ftz (BitVec.ofNat 64 v) (BitVec.ofNat 64 w)))
      | _ => s.atomAt ftz op ty n p l v w
    | _ => s.atomAt ftz op ty n p l v w

/-- The updates of all lanes, ascending: each lane's old value, and the flags together. -/
def State.atomLanes (s : State) (ftz : Bool) (op ty : Nat) : List (Nat × Place × Nat × Nat) → (List (Nat × Nat) × Sticky) × State
  | [] => (([], Sticky.none), s)
  | (l, p, v, w) :: r =>
    let x := s.atomLane ftz op ty l p v w
    let y := x.2.atomLanes ftz op ty r
    (((l, x.1.1) :: y.1.1, x.1.2 ||| y.1.2), y.2)

/-- A lane's data operand of a type, from register c. -/
def Team.atomData (t : Team) (ty c l : Nat) : Nat := t.laneTy (atomTag ty) c l

/-- ATOM and RED.M; `ret` marks ATOM. -/
def atomOp (ret : Bool) (h : Hd) (o : Atm) (s : State) (t : Team) : Except Trap Done := do
  let ty := o.ty.toNat
  let op := o.op.toNat
  let ord := o.ord.toNat
  let n := atomSize ty
  let tag := atomTag ty
  let k := regsOf tag
  let two := op == 7 || op == 8
  let d ← if ret then t.vreg h.ixD o.d k (Tag.wide tag) else .ok 0
  let c ← t.vreg false o.c (if two then 2 * k else k)
  let act := t.active h
  let m ← t.memOperand act o.a o.b o.noOff
  t.checkTags act c (if two then 2 * k else k) (atomTags op ty)
  let las := t.laneAddrs act m 0 n
  require (!(o.prom && las.any fun x => inWindow x.2)) Code.illegal
  let ps ← settleLanes .rmw (las.map fun x => (x.2, s.atomPlace (t.who (s.ctxOf t) x.1) n x.2))
  let s ← s.unwritten t (s.invalidOf n las ps)
  let s := s.usePlaces t .rmw ps
  let any := act != 0
  let s := if any && 2 ≤ ord then s.release t o.scope.toNat else s
  let s := if o.prom then s.promoteAll t o.scope.toNat ps else s
  let s := ps.foldl (fun s p => s.meetHome t.cluster p) s
  let ls := lanesOf act t.lanes
  let lanes := (ls.zip ps).map fun (l, p) => (l, p, t.atomData ty c l, if two then t.atomData ty (c + k) l else 0)
  let r := s.atomLanes t.ftz op ty lanes
  let s := if any && (ord == 1 || 3 ≤ ord) then r.2.acquire t o.scope.toNat else r.2
  let old (l : Nat) : Nat := ((r.1.1.find? (·.1 == l)).map (·.2)).getD 0
  let put (u : Team) : Team :=
    if ret then u.writeRegs act d (tagsOfTy tag) (fun l => regsOfVal tag (old l)) (fun l => t.addrTaint o.a m l) else u
  return .next (s.modTeam t.id fun u => (put u).raiseFlags r.1.2)

/-- ATOM (R224). -/
def execAtom (h : Hd) (o : Atm) (s : State) : Host.Outcome State Fault Refusal :=
  issueFar s h.fb (hasLane h) (fun t => t.operRegs h.ixD o.d (regsOf (atomTag o.ty.toNat))) noRegs noRegs (atomOp true h o)
/-- RED.M (R224). -/
def execRedM (h : Hd) (o : Atm) (s : State) : Host.Outcome State Fault Refusal :=
  issueFar s h.fb (hasLane h) noRegs noRegs noRegs (atomOp false h o)

/-! ## WAITA (R227 to R229) -/

/-- The place of a WAITA or WAKE: ACCESS outside this package's device memory and chip scratchpad (R218). -/
def State.syncPlace (s : State) (t : Team) (a : Access) (n va : Nat) : Except Trap Place := do
  match ← s.resolveLanes t a n n [(none, va)] with
  | [p] => if homedPlace p then return p else raise Code.access
  | _ => raise Code.access

/-- A WAITA of order 1 acquires at every completion (R229). -/
def State.waitAcquire (s : State) (t : Team) (acq : Bool) (scope : Nat) : State := if acq then s.acquire t scope else s

/-- A WAITA completes at once with a status. -/
def waitNow (s : State) (t : Team) (acq : Bool) (scope d status : Nat) : Except Trap Done :=
  .ok (teamDone (s.waitAcquire t acq scope) (t.setStatus d status))

/-- WAITA. -/
def waitaOp (o : Atm) (s : State) (t : Team) : Except Trap Done := do
  let ty := o.ty.toNat
  let n := atomSize ty
  let d := o.d.toNat
  let acq := o.ord == 1
  let scope := o.scope.toNat
  let va ← t.addr o.a.toNat
  let cmp ← t.scalar o.c.toNat Tag.any
  let timeout := clip32 (← t.int (o.c.toNat + 1))
  let p ← s.syncPlace t .rd n va.toNat
  match p.loc with
  | none => raise Code.access
  | some word =>
    let s := (((s.usePlaces t .rd [p]).meetHome t.cluster p).touchWord p).touchHome p
    let cond := o.op.toNat
    if waitMet cond ty (s.locNat p.slot word n) (cmp.toNat % 2 ^ (8 * n)) then waitNow s t acq scope d 0
    else if timeout == 0 then waitNow s t acq scope d 2
    else if !s.waiterFree p.die then waitNow s t acq scope d 3
    else
      let s := s.withMem fun m => m.addWaiter p.die word t.id
      return .hold (s.setTeam { t with st := .waiting (.waita word cond ty cmp acq scope (s.now + timeout) d none) })

/-- WAITA (R228). -/
def execWaita (h : Hd) (o : Atm) (s : State) : Host.Outcome State Fault Refusal := issue s (withRoom h.fb (waitaOp o))

/-- WAITA_TIMEOUT: the deadline of a waiter passes (R228). -/
def execWaitaTimeout (t : Nat) (s : State) : Host.Outcome State Fault Refusal :=
  match s.team t with
  | none => stutter s
  | some u =>
    match u.st with
    | .waiting (.waita word _ _ _ acq scope dl d none) =>
      if dl ≤ s.now then
        let s := (s.withMem fun m => m.dropWaiters word fun w => w.team == t).waitAcquire u acq scope
        .next (s.endWait t fun v => v.setStatus d 2)
      else stutter s
    | _ => stutter s

/-- WAIT_WAKE: a woken waiter becomes Ready with its status (R228, R229). -/
def execWaitWake (t : Nat) (s : State) : Host.Outcome State Fault Refusal :=
  match s.team t with
  | none => stutter s
  | some u =>
    match u.st with
    | .waiting (.waita _ _ _ _ acq scope _ d (some st)) =>
      .next ((s.waitAcquire u acq scope).endWait t fun v => v.setStatus d st)
    | _ => stutter s

/-! ## WAKE (R230) -/

/-- WAKE. -/
def wakeOp (o : Atm) (s : State) (t : Team) : Except Trap Done := do
  let va ← t.addr o.a.toNat
  let m ← t.int o.c.toNat
  require (0 ≤ m) Code.arith
  let p ← s.syncPlace t .wr 4 va.toNat
  match p.loc with
  | none => raise Code.access
  | some word =>
    let s := s.usePlaces t .wr [p]
    let s := if o.ord == 2 then s.release t o.scope.toNat else s
    -- a wake makes no Cold word Hot
    let s := if s.mem.words.any (·.word == word) then s.touchWord p else s
    let r := s.wakeUpTo word (if m == 0 then s.mem.waiters.length else m.toNat)
    return .next (r.2.modTeam t.id fun u => u.setStatus o.d.toNat r.1)

/-- WAKE (R230). -/
def execWake (h : Hd) (o : Atm) (s : State) : Host.Outcome State Fault Refusal :=
  issueFar s h.fb (fun _ => true) noRegs noRegs noRegs (wakeOp o)

/-! ## PROMOTE_PROBE (R98) -/

/-- PROMOTE_PROBE: a cluster named in a narrow-releaser table, here or in another package, writes back every dirty byte of its
L1 and acknowledges, and leaves the entry. -/
def execPromoteProbe (cluster : Nat) (s : State) : Host.Outcome State Fault Refusal :=
  if (s.mem.narrow.any fun e => e.clusters.contains cluster) || s.mem.away.any (·.2 == cluster) then .next (s.probed cluster)
  else stutter s

end Sys2Proof.Machine
end

