-- ==== Sys2Proof/Machine/Barrier.lean ====
section
/-! DEFINITION. Barriers (spec/11_barrier.md R233 to R247). The objects that a cycle's requests reach are tested for completion
at its end (R239, R240). -/

namespace Sys2Proof.Machine

/-! ## The object (R234) -/

/-- The fields of a barrier object. -/
structure Bar where
  pend       : Int
  phase      : Nat
  expect     : Nat
  arrived    : Nat
  next       : Nat
  waiters    : Nat
  state      : Nat
  err        : Nat
  errn       : Nat
  last       : Nat
  detail     : Nat
  lastDetail : Nat
  gen        : Nat
  deriving DecidableEq, Repr

/-- BAR.STATE of an Active object. -/
def barActive : Nat := 1
/-- BAR.STATE of a Closed object. -/
def barClosed : Nat := 2

/-! Result codes of R241. -/
namespace BarCode
def overbyte : Nat := 1
def mxfault : Nat := 2
def engfault : Nat := 3
def dropped : Nat := 4
end BarCode

/-- The fields read from the object's 256 bits. -/
def Bar.ofNat (v : Nat) : Bar :=
  { pend := (BitVec.ofNat 32 v).toInt, phase := bitsOf v 63 32, expect := bitsOf v 79 64, arrived := bitsOf v 95 80,
    next := bitsOf v 111 96, waiters := bitsOf v 127 112, state := bitsOf v 129 128, err := bitsOf v 143 136,
    errn := bitsOf v 151 144, last := bitsOf v 159 152, detail := bitsOf v 175 160, lastDetail := bitsOf v 191 176,
    gen := bitsOf v 207 192 }

/-- The object's 256 bits; the bits no field covers are those of `old`. -/
def Bar.toNat (b : Bar) (old : Nat) : Nat :=
  wrap32 b.pend + b.phase * 2 ^ 32 + b.expect * 2 ^ 64 + b.arrived * 2 ^ 80 + b.next * 2 ^ 96 + b.waiters * 2 ^ 112 +
    b.state * 2 ^ 128 + bitsOf old 135 130 * 2 ^ 130 + b.err * 2 ^ 136 + b.errn * 2 ^ 144 + b.last * 2 ^ 152 +
    b.detail * 2 ^ 160 + b.lastDetail * 2 ^ 176 + b.gen * 2 ^ 192 + bitsOf old 255 208 * 2 ^ 208
where
  /-- A signed 32-bit field. -/
  wrap32 (i : Int) : Nat := (i % 2 ^ 32).toNat

/-- The object at a place. -/
def State.bar (s : State) (obj : Loc) : Bar := Bar.ofNat (s.locNat none obj 32)

/-- The words of an object that an operation changes are written. -/
def State.putBar (s : State) (obj : Loc) (b : Bar) : State :=
  let old := s.locNat none obj 32
  let new := b.toNat old
  (List.range 8).foldl (fun s i =>
    let w := new / 2 ^ (32 * i) % 2 ^ 32
    if w == old / 2 ^ (32 * i) % 2 ^ 32 then s else s.locWrite none (obj.add (4 * i)) (leBytes 4 w)) s

/-- `record` of R241. -/
def Bar.record (b : Bar) (code detail : Nat) : Bar :=
  { b with
    errn := min 255 (b.errn + 1)
    err := if b.err == 0 then code else b.err
    detail := if b.err == 0 then detail % 2 ^ 16 else b.detail }

/-- The end-of-cycle test (R240). -/
def Bar.completes (b : Bar) : Bool := b.state == barActive && b.arrived == b.expect && b.pend ≤ 0

/-- A phase completes (R240). -/
def Bar.complete (b : Bar) : Bar :=
  let b := if b.pend < 0 then b.record BarCode.overbyte 0 else b
  { b with
    last := b.err, lastDetail := b.detail, err := 0, errn := 0, detail := 0, pend := 0, arrived := 0, expect := b.next
    phase := (b.phase + 1) % 2 ^ 32, state := if b.next == 0 then barClosed else b.state }

/-- Phase p has completed (R245). -/
def Bar.past (b : Bar) (p : Nat) : Bool := 0 < (BitVec.ofNat 32 b.phase - BitVec.ofNat 32 p).toInt

/-- The status word of BWAIT and BTEST (R245). -/
def Bar.status (b : Bar) (p : Nat) : Nat :=
  if !b.past p then 0
  else if b.phase != (p + 1) % 2 ^ 32 then 3
  else 1 + b.last * 2 ^ 2 + b.lastDetail * 2 ^ 16

/-- The phase a team waits for at an object, not yet completed. -/
def Team.barPhase (t : Team) (obj : Loc) : Option Nat :=
  match t.st with
  | .waiting (.bwait o p _ none) => if o == obj then some p else none
  | _ => none

/-- A waiter whose phase has completed keeps its status until it is Ready. -/
def Team.barWake (t : Team) (obj : Loc) (b : Bar) : Team :=
  match t.st with
  | .waiting (.bwait o p d none) =>
    if o == obj && b.past p then { t with st := .waiting (.bwait o p d (some (b.status p))) } else t
  | _ => t

/-- An object had a request in this cycle (R239). -/
def State.noteBar (s : State) (obj : Loc) : State :=
  if s.cyc.bars.contains obj then s else { s with cyc := { s.cyc with bars := s.cyc.bars ++ [obj] } }

/-- An object after a request. -/
def State.barEnd (s : State) (obj : Loc) (b : Bar) : State := (s.putBar obj b).noteBar obj

/-- The test of an object at the end of a cycle: a phase completes, and the teams that wait for it keep its status until they
are Ready (R240, R245). -/
def State.barTest (s : State) (obj : Loc) : State :=
  let b := s.bar obj
  if b.completes then
    (((s.mem.bwaits.filter (·.obj == obj)).map (·.team)).foldl (fun s t => s.modTeam t fun u => u.barWake obj b.complete)
      (s.putBar obj b.complete))
  else s

/-- The tests of all objects that had requests in the cycle that ends. -/
def State.closeBars (s : State) : State :=
  { s.cyc.bars.foldl State.barTest s with cyc := { s.cyc with bars := [] } }

/-! ## Arrivals of engines and word-ops (R235, R238) -/

/-- A STRAY item with the signed amount the arrival adds (R454). -/
def State.errStray (s : State) (ctx core va : Nat) (amount : Int) (source : Nat) : State :=
  s.errItem ctx 9 Code.barrier core (leBytes 8 va ++ leBytes 8 ((amount % 2 ^ 32).toNat + source * 2 ^ 32))

/-- An arrival subtracts n; past -2^31 it saturates and records OVERBYTE. -/
def Bar.arrive (b : Bar) (n : Nat) : Bar :=
  if b.pend - n < -2 ^ 31 then { b with pend := -2 ^ 31 }.record BarCode.overbyte 0 else { b with pend := b.pend - n }

/-- An engine or word-op arrival on an object, with an error to record; at an object that is not Active it leaves a
STRAY item. `source` is the engine number, 0xFFFF for a word-op. -/
def State.barArrive (s : State) (ctx core : Nat) (obj : Loc) (va n source : Nat) (err : Option (Nat × Nat)) : State :=
  let b := s.bar obj
  if b.state != barActive then s.errStray ctx core va (-n) source
  else
    let b := match err with | some e => b.record e.1 e.2 | none => b
    s.barEnd obj (b.arrive n)

/-! ## A team's requests (R235, R242) -/

/-- The object a team names: ACCESS outside scratchpad, cluster memory and chip scratchpad, ALIGN when misaligned
(R233). -/
def State.barPlace (s : State) (t : Team) (va : Nat) : Except Trap Loc := do
  require (2 ^ 57 ≤ va || inWindow va) Code.access
  match ← s.resolveLanes t .rmw 32 32 [(none, va)] with
  | [.win l] => return l
  | _ => raise Code.access

/-- A request of a team but BINIT: the object's place, the state after the check of R82, and the object's fields. -/
def State.barRead (s : State) (t : Team) (a : BitVec 8) : Except Trap (State × Loc × Nat) := do
  let va := (← t.addr a.toNat).toNat
  let obj ← s.barPlace t va
  let s ← s.unwritten t (s.invalidWords va 32 (.win obj))
  return (s, obj, va)

/-- The object is Active, or BARRIER. -/
def Bar.active (b : Bar) : Except Trap Unit := require (b.state == barActive) Code.barrier

/-- Device scope for chip scratchpad; group or gang scope otherwise (R233). -/
def barScope (obj : Loc) : Nat :=
  match obj with
  | .seg _ => 5
  | _ => 1

/-- The entry of a team for an object, when not stale (R236). -/
def Team.barEntry (t : Team) (obj : Loc) (gen : Nat) : Option BarReg := t.bars.find? fun e => e.obj == obj && e.gen == gen

/-- The team's table with an object's entry replaced; none when it is full of valid entries. -/
def State.barTable (s : State) (t : Team) (e : BarReg) : Option (List BarReg) :=
  if t.bars.any (·.obj == e.obj) then some (t.bars.map fun x => if x.obj == e.obj then e else x)
  else if t.bars.length < 8 then some (t.bars ++ [e])
  else
    match t.bars.findIdx? fun x => (s.bar x.obj).gen != x.gen with
    | some i => some (t.bars.set i e)
    | none => none

/-- A count of 16 bits and one more. -/
def more16 (n : Nat) : Nat := (n + 1) % 65536

/-- A count of 16 bits less one. -/
def less16 (n : Nat) : Nat := (n + 65535) % 65536

/-! ## BINIT (R243) -/

/-- BINIT. -/
def binitOp (o : Rrr) (s : State) (t : Team) : Except Trap Done := do
  let va := (← t.addr o.a.toNat).toNat
  let n ← t.int o.b.toNat
  let obj ← s.barPlace t va
  let old := s.bar obj
  require (1 ≤ n && n ≤ 65535 && old.waiters == 0) Code.barrier
  let b : Bar :=
    { pend := 0, phase := 0, expect := n.toNat, arrived := 0, next := n.toNat, waiters := 0, state := barActive, err := 0,
      errn := 0, last := 0, detail := 0, lastDetail := 0, gen := (old.gen + 1) % 2 ^ 16 }
  let s := s.release t (barScope obj)
  return .next ((s.locWrite none obj (leBytes 32 (b.toNat 0))).noteBar obj)

/-- BINIT (R243). -/
def execBinit (h : Hd) (o : Rrr) (s : State) : Host.Outcome State Fault Refusal :=
  issueLong s h.fb (fun _ => true) (binitOp o)

/-! ## BREG (R236, R237) -/

/-- BREG. -/
def bregOp (o : Rrr) (s : State) (t : Team) : Except Trap Done := do
  let (s, obj, va) ← s.barRead t o.a
  s.orTrap do
    let b := s.bar obj
    b.active
    let sig := o.e.getLsbD 0
    let wait := o.e.getLsbD 1
    let init := o.e.getLsbD 2
    let old := t.barEntry obj b.gen
    let had := (old.map (·.sig)).getD false
    if !sig && !wait then
      let b := if had then { b with next := less16 b.next } else b
      let s := s.modTeam t.id fun u => { u with bars := u.bars.filter fun e => !(e.obj == obj && e.gen == b.gen) }
      return .next (s.barEnd obj b)
    else
      let adds := sig && !had
      require (!(adds && !init && b.next == 65535)) Code.barrier
      let fresh := if init then (b.phase + 2 ^ 32 - 1) % 2 ^ 32 else b.phase
      let last := match old with | some e => if adds then fresh else e.last | none => fresh
      let e : BarReg := { addr := va, obj := obj, gen := b.gen, sig := sig, wait := wait, last := last }
      match s.barTable t e with
      | none => raise Code.barrier
      | some l =>
        let next := if adds && !init then b.next + 1 else if had && !sig then less16 b.next else b.next
        return .next ((s.modTeam t.id fun u => { u with bars := l }).barEnd obj { b with next := next })

/-- BREG (R237). -/
def execBreg (h : Hd) (o : Rrr) (s : State) : Host.Outcome State Fault Refusal :=
  issueLong s h.fb (fun _ => true) (bregOp o)

/-! ## BARR, BARRD (R244) -/

/-- The team's table after an arrival; under `drop` the signaller role is gone. -/
def barArrived (l : List BarReg) (e : BarReg) (drop : Bool) (phase : Nat) : List BarReg :=
  l.filterMap fun x =>
    if x == e then (if drop && !e.wait then none else some { e with last := phase, sig := !drop }) else some x

/-- BARR, and under `drop` BARRD. -/
def barrOp (drop : Bool) (o : Rrr) (s : State) (t : Team) : Except Trap Done := do
  let (s, obj, _) ← s.barRead t o.a
  s.orTrap do
    let b := s.bar obj
    b.active
    match t.barEntry obj b.gen with
    | none => raise Code.barrier
    | some e =>
      require (e.sig && e.last != b.phase && b.arrived != b.expect) Code.barrier
      let s := s.release t (barScope obj)
      let s := s.modTeam t.id fun u =>
        { u.setStatus o.d.toNat b.phase with bars := barArrived u.bars e drop b.phase }
      return .next (s.barEnd obj
        { b with arrived := more16 b.arrived, next := if drop then less16 b.next else b.next })

/-- BARR (R244). -/
def execBarr (h : Hd) (o : Rrr) (s : State) : Host.Outcome State Fault Refusal :=
  issueLong s h.fb (fun _ => true) (barrOp false o)
/-- BARRD (R244). -/
def execBarrd (h : Hd) (o : Rrr) (s : State) : Host.Outcome State Fault Refusal :=
  issueLong s h.fb (fun _ => true) (barrOp true o)

/-! ## BEXP (R246) -/

/-- BEXP. -/
def bexpOp (o : Rrr) (s : State) (t : Team) : Except Trap Done := do
  let n ← t.int o.b.toNat
  let (s, obj, _) ← s.barRead t o.a
  s.orTrap do
    let b := s.bar obj
    b.active
    require ((t.barEntry obj b.gen).isSome && -2 ^ 31 ≤ b.pend + n && b.pend + n < 2 ^ 31) Code.barrier
    return .next (s.barEnd obj { b with pend := b.pend + n })

/-- BEXP (R246). -/
def execBexp (h : Hd) (o : Rrr) (s : State) : Host.Outcome State Fault Refusal :=
  issueLong s h.fb (fun _ => true) (bexpOp o)

/-! ## BWAIT, BTEST (R245) -/

/-- The phase operand: its low 32 bits. -/
def Team.phaseArg (t : Team) (r : BitVec 8) : Except Trap Nat := do return ((← t.int r.toNat) % 2 ^ 32).toNat

/-- A status is written; with bit 0 set it is an acquire at the object's scope. -/
def State.barStatus (s : State) (t : Team) (obj : Loc) (status : Nat) : State :=
  if status.testBit 0 then s.acquire t (barScope obj) else s

/-- BWAIT. -/
def bwaitOp (o : Rrr) (s : State) (t : Team) : Except Trap Done := do
  let p ← t.phaseArg o.b
  let (s, obj, _) ← s.barRead t o.a
  s.orTrap do
    let b := s.bar obj
    b.active
    require (((t.barEntry obj b.gen).map (·.wait)).getD false) Code.barrier
    if b.past p then
      let s := s.barEnd obj b
      return .next ((s.barStatus t obj (b.status p)).modTeam t.id fun u => u.setStatus o.d.toNat (b.status p))
    else
      let s := s.setTeam { t with st := .waiting (.bwait obj p o.d.toNat none) }
      let s := s.withMem fun m => { m with bwaits := m.bwaits ++ [{ obj := obj, team := t.id }] }
      return .hold (s.barEnd obj { b with waiters := more16 b.waiters })

/-- BWAIT (R245). -/
def execBwait (h : Hd) (o : Rrr) (s : State) : Host.Outcome State Fault Refusal := issue s (withRoom h.fb (bwaitOp o))

/-- BTEST: the test once, without a registration. -/
def btestOp (o : Rrr) (s : State) (t : Team) : Except Trap Done := do
  let p ← t.phaseArg o.b
  let (s, obj, _) ← s.barRead t o.a
  let b := s.bar obj
  let s := s.barEnd obj b
  return .next ((s.barStatus t obj (b.status p)).modTeam t.id fun u => u.setStatus o.d.toNat (b.status p))

/-- BTEST (R245). -/
def execBtest (h : Hd) (o : Rrr) (s : State) : Host.Outcome State Fault Refusal :=
  issueLong s h.fb (fun _ => true) (btestOp o)

/-- BWAIT_WAKE: a waiter whose phase has completed becomes Ready with its status (R245). -/
def execBwaitWake (t : Nat) (s : State) : Host.Outcome State Fault Refusal :=
  match s.team t with
  | none => stutter s
  | some u =>
    match u.st with
    | .waiting (.bwait obj _ d (some st)) =>
      .next (((s.barLeaves t obj).barStatus u obj st).endWait t fun v => v.setStatus d st)
    | _ => stutter s

/-! ## Registrations of a team that ends (R237) -/

/-- One entry of a team that ends by EXIT or, with `killed`, by a kill. -/
def State.barLeave (s : State) (t : Team) (killed : Bool) (e : BarReg) : State :=
  let b := s.bar e.obj
  if e.sig && b.gen == e.gen then
    let b := { b with next := less16 b.next, arrived := if e.last == b.phase then b.arrived else more16 b.arrived }
    s.barEnd e.obj (if killed then b.record BarCode.dropped (slotField t.slot + t.group * 2 ^ 5) else b)
  else s

/-- A team's registration table is discarded. -/
def State.leaveBars (s : State) (t : Team) (killed : Bool) : State :=
  (t.bars.foldl (fun s e => s.barLeave t killed e) s).modTeam t.id fun u => { u with bars := [] }

end Sys2Proof.Machine
end

