-- ==== Sys2Proof/Machine/Acc.lean ====
section
/-! DEFINITION. Accumulator registers: their words, the scoreboard of pending word-ops, and the instructions that move them
(spec/12_tile.md R249 to R251, R267 to R271). -/

namespace Sys2Proof.Machine

/-! ## Words, elements, void bits (R249, R250) -/

/-- The tag of word w of an accumulator; none is Empty. -/
def Team.accTag (t : Team) (c w : Nat) : Option AccTag := FMap.look t.acc.tags (c * 32 + w)

/-- Element j of lane l. -/
def Team.accElem (t : Team) (c l j : Nat) : Word := FMap.lookD t.acc.elems ((c * 1024 + l) * 32 + j) 0

/-- The void bit of lane l. -/
def Team.accVoid (t : Team) (c l : Nat) : Bool := (FMap.lookD t.acc.void c 0).getLsbD l

/-- The rank state of lane l. -/
def Team.accRank (t : Team) (c l : Nat) : RankLane := FMap.lookD t.acc.rank (c * 1024 + l) { len := 0, k := 0, nan := false }

/-- Words of an accumulator take a tag; a word that leaves Empty holds +0 everywhere, its void bits clear (R249). -/
def Accs.retag (a : Accs) (ws : List Nat) (c : Nat) (tag : AccTag) : Accs :=
  ws.foldl (fun a w =>
    let a := match FMap.look a.tags (c * 32 + w) with
      | none =>
        { a with elems := a.elems.filter fun e => e.1 / 1024 != c * 32 + w
                 void := FMap.putD a.void c
                   (FMap.lookD a.void c 0 &&& ~~~((BitVec.allOnes 32).setWidth 1024 <<< (32 * w))) 0 }
      | some _ => a
    { a with tags := FMap.put a.tags (c * 32 + w) tag }) a

/-- The elements of one lane, from column j on. -/
def Accs.setRow (a : Accs) (c l : Nat) (vs : List (Nat × Word)) : Accs :=
  { a with elems := vs.foldl (fun m v => FMap.putD m ((c * 1024 + l) * 32 + v.1) v.2 0) a.elems }

/-- Elements of several lanes. -/
def Accs.setRows (a : Accs) (c : Nat) (ls : List Nat) (f : Nat → List (Nat × Word)) : Accs :=
  ls.foldl (fun a l => a.setRow c l (f l)) a

/-- Void bits of lanes set or cleared. -/
def Accs.setVoid (a : Accs) (c : Nat) (m : Mask) (v : Bool) : Accs :=
  let old := FMap.lookD a.void c 0
  { a with void := FMap.putD a.void c (if v then old ||| m else old &&& ~~~m) 0 }

/-- The 32 columns with one value. -/
def allColumns (v : Word) : List (Nat × Word) := (List.range 32).map fun j => (j, v)

/-! ## The scoreboard (R251) -/

/-- Word-ops of a core, queued and still to enter. -/
def Core.ops (c : Core) : List WordOp := c.queue ++ c.sweep

/-- A word-op of the team on an accumulator is pending. -/
def State.accPending (s : State) (t : Team) (c : Nat) : Bool := (s.core t.core).ops.any fun w => w.team == t.id && w.acc == c

/-- A word-op of the team on a word of an accumulator is pending. -/
def State.accPendingWord (s : State) (t : Team) (c w : Nat) : Bool :=
  (s.core t.core).ops.any fun x => x.team == t.id && x.acc == c && x.word == w

/-- An instruction other than MMA waits for the pending word-ops of its accumulators. -/
def State.accReady (s : State) (t : Team) (cs : List Nat) : Except Trap Unit :=
  if cs.any (s.accPending t) then .error .stall else .ok ()

/-- The active words of an accumulator are in an accepted state, or FORMAT (R250). -/
def Team.accNeed (t : Team) (act : Mask) (c : Nat) (ok : Option AccTag → Bool) : Except Trap Unit :=
  require ((wordsOf act t.lanes).all fun w => ok (t.accTag c w)) Code.format

/-- Empty or Sum. -/
def accEmptyOrSum (x : Option AccTag) : Bool := x == none || x == some .a64
/-- Sum. -/
def accSum (x : Option AccTag) : Bool := x == some .a64
/-- Rank. -/
def accRankTag (x : Option AccTag) : Bool := x == some .rank

/-! ## CZERO (R267) -/

/-- CZERO. -/
def czeroOp (h : Hd) (o : Mx) (s : State) (t : Team) : Except Trap Done := do
  let c ← t.creg o.d.toNat
  s.accReady t [c]
  let act := t.active h
  let a := t.acc.retag (wordsOf act t.lanes) c .a64
  let a := (a.setRows c (lanesOf act t.lanes) fun _ => allColumns 0).setVoid c act false
  return teamDone s { t with acc := a }

/-- CZERO (R267). -/
def execCzero (h : Hd) (o : Mx) (s : State) : Host.Outcome State Fault Refusal :=
  issueLong s h.fb (hasLane h) (czeroOp h o)

/-! ## CRD, CWR (R268) -/

/-- Columns moved between an accumulator and lane registers. -/
structure ColSel where
  j0  : Nat
  m   : Nat
  fmt : Nat
  reg : Nat
  deriving DecidableEq, Repr

/-- Registers a column range takes. -/
def ColSel.regs (x : ColSel) : Nat := if x.fmt == 0 then x.m else if x.fmt == 1 then x.m / 2 else 2 * x.m

/-- The tag of the lane registers. -/
def ColSel.tag (x : ColSel) : Tag := if x.fmt == 0 then Tag.f32 else if x.fmt == 1 then Tag.b16x2 else Tag.f64

/-- Lane register E of CRD and CWR; REGBOUND at or above V, before any tag is checked (R137, R266). -/
def Team.selReg (t : Team) (o : Mx) : Except Trap Nat := do
  let e := bitsOf o.m.toNat 13 6
  require (e < t.vregs) Code.regbound
  return e

/-- The columns a selection value names. -/
def ColSel.of (v : Int) (e : Nat) : ColSel :=
  { j0 := bitsOf v.toNat 4 0, m := bitsOf v.toNat 13 8, fmt := bitsOf v.toNat 17 16, reg := e }

/-- The checks of a selection, after those of R137: ARITH outside its limits, REGBOUND past the team's registers. -/
def ColSel.check (x : ColSel) (v : Int) (t : Team) : Except Trap Unit := do
  let clean := 0 ≤ v && v.toNat == x.j0 + x.m * 2 ^ 8 + x.fmt * 2 ^ 16
  require (clean && 1 ≤ x.m && x.j0 + x.m ≤ 32 && x.fmt != 3 && !(x.fmt == 1 && x.m % 2 == 1) &&
    !(x.fmt == 2 && x.reg % 2 == 1)) Code.arith
  require (x.reg + x.regs ≤ min t.vregs 256) Code.regbound

/-- The lane's registers that hold its columns, and the flags of their conversion. -/
def ColSel.read (x : ColSel) (t : Team) (c l : Nat) : List Lane32 × Sticky :=
  let conv (e : Elem) (i : Nat) : Nat × Sticky :=
    e.round .rne {} (decodeFloat Fmt.f64 false (t.accElem c l (x.j0 + i)).toNat)
  let cols := List.range x.m
  if x.fmt == 0 then
    (cols.map fun i => BitVec.ofNat 32 (conv .f32 i).1, cols.foldl (fun f i => f ||| (conv .f32 i).2) Sticky.none)
  else if x.fmt == 1 then
    ((List.range (x.m / 2)).map fun i => BitVec.ofNat 32 ((conv .bf16 (2 * i)).1 + (conv .bf16 (2 * i + 1)).1 * 2 ^ 16),
      cols.foldl (fun f i => f ||| (conv .bf16 i).2) Sticky.none)
  else (cols.flatMap fun i => halves (t.accElem c l (x.j0 + i)), Sticky.none)

/-- The columns a lane's registers give an accumulator: exact widening, a NaN canonical. -/
def ColSel.write (x : ColSel) (t : Team) (l : Nat) : List (Nat × Word) :=
  let widen (f : Fmt) (b : Nat) : Word := BitVec.ofNat 64 (rne64 (decodeFloat f false b)).1
  (List.range x.m).map fun i =>
    (x.j0 + i,
      if x.fmt == 0 then widen Fmt.f32 (t.lane (x.reg + i) l).toNat
      else if x.fmt == 1 then widen Fmt.bf16 (elemBits 2 (t.lane (x.reg + i / 2) l).toNat (i % 2))
      else widen Fmt.f64 (t.lane64 (x.reg + 2 * i) l).toNat)

/-- CRD. -/
def crdOp (h : Hd) (o : Mx) (s : State) (t : Team) : Except Trap Done := do
  let c ← t.creg o.d.toNat
  let e ← t.selReg o
  s.accReady t [c]
  let act := t.active h
  let v ← t.int o.a.toNat
  let x := ColSel.of v e
  t.accNeed act c accSum
  x.check v t
  return teamDone s (t.laneResult act x.reg (List.replicate x.regs x.tag) [] fun l => x.read t c l)

/-- CRD (R268). -/
def execCrd (h : Hd) (o : Mx) (s : State) : Host.Outcome State Fault Refusal := issueLong s h.fb (hasLane h) (crdOp h o)

/-- CWR. -/
def cwrOp (h : Hd) (o : Mx) (s : State) (t : Team) : Except Trap Done := do
  let c ← t.creg o.d.toNat
  let e ← t.selReg o
  s.accReady t [c]
  let act := t.active h
  let v ← t.int o.a.toNat
  let x := ColSel.of v e
  t.accNeed act c accEmptyOrSum
  -- the source tags are a check of R137: those of the named registers that the team has
  t.checkTags act x.reg (if x.fmt == 3 then 0 else min x.regs (t.vregs - e)) [x.tag]
  x.check v t
  let a := t.acc.retag (wordsOf act t.lanes) c .a64
  return teamDone s { t with acc := (a.setRows c (lanesOf act t.lanes) (x.write t)).setVoid c act false }

/-- CWR (R268). -/
def execCwr (h : Hd) (o : Mx) (s : State) : Host.Outcome State Fault Refusal := issueLong s h.fb (hasLane h) (cwrOp h o)

/-! ## CMOV (R269) -/

/-- CMOV. -/
def cmovOp (h : Hd) (o : Mx) (s : State) (t : Team) : Except Trap Done := do
  let d ← t.creg o.d.toNat
  let c ← t.creg (bitsOf o.m.toNat 9 6)
  s.accReady t [d, c]
  let act := t.active h
  t.accNeed act c Option.isSome
  let ls := lanesOf act t.lanes
  let a := (wordsOf act t.lanes).foldl (fun a w => a.retag [w] d ((t.accTag c w).getD .a64)) t.acc
  let a := a.setRows d ls fun l => (List.range 32).map fun j => (j, t.accElem c l j)
  let voids := maskOf act t.lanes (t.accVoid c)
  let a := (a.setVoid d act false).setVoid d voids true
  let a := { a with rank := ls.foldl (fun m l => FMap.put m (d * 1024 + l) (t.accRank c l)) a.rank }
  return teamDone s { t with acc := a }

/-- CMOV (R269). -/
def execCmov (h : Hd) (o : Mx) (s : State) : Host.Outcome State Fault Refusal := issueLong s h.fb (hasLane h) (cmovOp h o)

/-! ## MMASK (R270), MBUD (R271) -/

/-- A scalar N32, or I64 within 0 to 2^32 - 1, or ARITH. -/
def Team.unsigned32 (t : Team) (r : Nat) : Except Trap Nat := do
  require ([Tag.n32, Tag.i64].contains (t.sreg r).tag) Code.format
  require (0 ≤ (t.sreg r).int && (t.sreg r).int < 2 ^ 32) Code.arith
  return (t.sreg r).int.toNat

/-- MMASK. -/
def mmaskOp (h : Hd) (o : Mx) (s : State) (t : Team) : Except Trap Done := do
  require ([Tag.n32, Tag.i64].contains (t.sreg o.a.toNat).tag) Code.format
  let n ← t.int o.b.toNat
  let p ← t.unsigned32 o.a.toNat
  require (0 ≤ n && n ≤ 16) Code.arith
  let k := bitsOf o.m.toNat 8 6
  let vecs := (lanesOf (t.active h) t.lanes).foldl (fun m l => FMap.putD m l (t.kreg k l) 0) []
  return teamDone s { t with prick := { p := p, n := n.toNat, vecs := vecs } }

/-- MMASK (R270). -/
def execMmask (h : Hd) (o : Mx) (s : State) : Host.Outcome State Fault Refusal :=
  issueLong s h.fb (fun _ => true) (mmaskOp h o)

/-- The budget word of a core (R271). -/
def Core.budget (c : Core) : Nat :=
  let level := c.level / 16
  level + c.rate * 2 ^ 14 + (if level < 2048 then 2 ^ 22 else 0) + c.stalls * 2 ^ 32

/-- MBUD. -/
def mbudOp (o : Mx) (s : State) (t : Team) : Except Trap Done :=
  .ok (teamDone s (t.setS o.a.toNat (BitVec.ofNat 64 (s.core t.core).budget) Tag.i64))

/-- MBUD (R271). -/
def execMbud (h : Hd) (o : Mx) (s : State) : Host.Outcome State Fault Refusal :=
  issueLong s h.fb (fun _ => true) (mbudOp o)

end Sys2Proof.Machine
end

