-- ==== Sys2Proof/Machine/Matrix.lean ====
section
/-! DEFINITION. Matrix products: MMA, its word-ops, the arithmetic of a chunk, their faults and the power budget
(spec/12_tile.md R252 to R265, spec/02_formats.md R40 to R42). Operands are fetched when the MMA issues; the accumulators
are read and written when a word-op completes (log entry 8). -/

namespace Sys2Proof.Machine

/-! ## Chunk arithmetic (R40, R41, R253) -/

/-- The INT4 codes of bytes. -/
def nibbles (l : List Byte) : List Nat := l.flatMap fun b => [b.toNat % 16, b.toNat / 16]

/-- The 16-bit values of bytes. -/
def halfWords : List Byte → List Nat
  | a :: b :: r => (a.toNat + 256 * b.toNat) :: halfWords r
  | _ => []

/-- The elements of a chunk row or column. -/
def chunkElems (form : Nat) (l : List Byte) : List NumVal :=
  match form with
  | 0 => l.map fun b => Elem.e4m3.decode false b.toNat
  | 1 => l.map fun b => Elem.i8.decode false b.toNat
  | 2 => (nibbles l).map (Elem.i4.decode false)
  | 3 => (halfWords l).map (Elem.bf16.decode false)
  | _ => (halfWords l).map (Elem.f16.decode false)

/-- `chunk_sum` (R40): the exact sum of the products, with the special values of R41. -/
def chunkSum (a b : List NumVal) : NumVal × Sticky :=
  let s := (a.zip b).foldl (fun s p => NumVal.add false s (NumVal.mul p.1 p.2)) (NumVal.zero false)
  (s, if s.isNan && !a.any NumVal.isNan && !b.any NumVal.isNan then Sticky.inv else Sticky.none)

/-- What is added to the accumulator: S, or S * sA * sB in .e4m3 (R40, R41 rules 1 and 4). A zero is +0. -/
def chunkAddend (form : Nat) (s sa sb : NumVal) : NumVal × Sticky :=
  if form != 0 then (s, Sticky.none)
  else if s.isNan || sa.isNan || sb.isNan then (.nan, Sticky.none)
  else if sa.isInf || sb.isInf then
    if s.isZero then (.nan, Sticky.inv) else (.inf ((s.neg != sa.neg) != sb.neg), Sticky.none)
  else
    let x := NumVal.mul (NumVal.mul s sa) sb
    (if x.isZero then NumVal.zero false else x, Sticky.none)

/-- `merge` (R40, R41): one rounding into A64. -/
def chunkMerge (acc x : NumVal) : Nat × Sticky :=
  let e := NumVal.add false acc x
  let inv := if e.isNan && !acc.isNan && !x.isNan then Sticky.inv else Sticky.none
  ((rne64 e).1, (rne64 e).2 ||| inv)

/-! ## Operands (R253, R254, R261) -/

/-- The fault of an operand's address: cause, kind and level. -/
def LErr.operFault : LErr → Nat × Nat × Nat
  | .err c none => if c == Code.align then (1, 0, 0) else (2, 0, 0)
  | .err _ (some (k, l)) => (0, k, l)
  | .park k l => (0, k, l)
  | .unreachable => (2, 0, 0)

/-- The slice that holds a place of chip scratchpad (R72). -/
def segSlice : Loc → Option Nat
  | .seg a => some (a / 2 ^ 20 / 8)
  | _ => none

/-- An operand fetched for a team: n bytes aligned to n, in group scratchpad, cluster memory, chip scratchpad or this
package's device memory. -/
def State.fetchOper (s : State) (t : Team) (taint : Bool) (n va : Nat) : Oper × State :=
  let bad (f : Nat × Nat × Nat) : Oper := { va := va, loc := none, home := none, bytes := [], fault := some f, low := none }
  let w := t.who (s.ctxOf t) none
  match s.resolve w .rd n n va with
  | .error e => (bad e.operFault, s)
  | .ok p =>
    match p with
    | .own _ _ => (bad (2, 0, 0), s)
    | .dev x pa =>
      if regionOf pa != .local then (bad (2, 0, 0), s)
      else
        let r := (s.usePlace w .rd p).teamRead t { slice := false, taint := taint, ret := 0 } p n
        ({ va := va, loc := p.loc, home := some (homeSlice x.leaf.place x.leaf.hdie pa), bytes := r.1, fault := none, low := none },
          r.2)
    | .win l =>
      let low := leastOf (s.invalidWords va n p)
      if t.unwtrap && low.isSome then (bad (3, 0, 0), s)
      else
        ({ va := va, loc := p.loc, home := segSlice l, bytes := (s.teamRead t { slice := false, taint := false, ret := 0 } p n).1
           fault := none, low := low }, s)

/-- Operands at several addresses, in order. -/
def State.fetchOpers (s : State) (t : Team) (taint : Bool) (n : Nat) : List (Nat × Nat) → FMap Oper × State
  | [] => ([], s)
  | (i, va) :: r =>
    let x := s.fetchOper t taint n va
    let y := x.2.fetchOpers t taint n r
    ((i, x.1) :: y.1, y.2)

/-- The operand holds INT4 code 1000b. -/
def Oper.reserved (o : Oper) : Bool := (nibbles o.bytes).any (· == 8)

/-- The operand's fault, INT4 code 1000b under the trap mode included (R261). -/
def Oper.faultOf (i4 : Bool) (o : Oper) : Option (Nat × Nat × Nat) :=
  match o.fault with
  | some f => some f
  | none => if i4 && o.reserved then some (4, 0, 0) else none

/-! ## A word-op (R258) -/

/-- Its rows: the active lanes at issue, without `.first` less those whose void bit is set. -/
def WordOp.liveRows (w : WordOp) (t : Team) : List Nat :=
  (lanesOf w.rows t.lanes).filter fun l => w.first || !t.accVoid w.acc l

/-- The operands it reads, in the order of R261, with their operand code. -/
def WordOp.opers (w : WordOp) (t : Team) : List (Nat × Oper) :=
  let rows := w.liveRows t
  (rows.filterMap fun l => (FMap.look w.a l).map fun o => (0, o)) ++
    (rows.filterMap fun l => (FMap.look w.scales l).map fun o => (1, o)) ++ w.b.map fun o => (2, o)

/-- Its first fault: the operand code, the operand and the fault. -/
def WordOp.fault (w : WordOp) (t : Team) : Option (Nat × Oper × (Nat × Nat × Nat)) :=
  (w.opers t).findSome? fun x => (x.2.faultOf (w.form == 2 && t.i4trap)).map fun f => (x.1, x.2, f)

/-- The void bit that a lane will have when the pending word-ops of its accumulator word have ended: a skipped one sets those
of its rows, one of `.first` that no operand faults clears them (R250). -/
def State.willVoid (s : State) (t : Team) (c l : Nat) : Bool :=
  ((s.core t.core).ops.filter fun w => w.team == t.id && w.acc == c && w.rows.getLsbD l).foldl
    (fun v w => if w.skip then true else if w.first && (w.fault t).isNone then false else v) (t.accVoid c l)

/-- It needs no cycle of the matrix unit: skipped, all rows void, or faulted. -/
def WordOp.direct (w : WordOp) (t : Team) : Bool := w.skip || (w.liveRows t).isEmpty || (w.fault t).isSome

/-- The element is masked by the Pricking block (R259). -/
def pricked (p : Option (Prick × Nat)) (l j : Nat) : Bool :=
  match p with
  | none => false
  | some (b, base) =>
    let c := base + j
    b.p ≤ c && !(c < b.p + b.n && (FMap.lookD b.vecs l 0).getLsbD (c - b.p))

/-- The bits of minus infinity. -/
def minusInf : Word := 0xFFF0000000000000

/-- The element an accumulator holds before a merge: +0 under `.first`; a free value in a word never written. -/
def WordOp.before (w : WordOp) (t : Team) (fresh l j : Nat) : NumVal :=
  if w.first then NumVal.zero false
  else if (t.accTag w.acc w.word).isNone then decodeFloat Fmt.f64 false (Config.emptyElem fresh (l * 32 + j)).toNat
  else decodeFloat Fmt.f64 false (t.accElem w.acc l j).toNat

/-- One row of the product: the elements and their flags. -/
def WordOp.row (w : WordOp) (t : Team) (fresh l : Nat) : List (Nat × Word) × Sticky :=
  let bytes (m : FMap Oper) : List Byte := ((FMap.look m l).map (·.bytes)).getD []
  let a := chunkElems w.form (bytes w.a)
  let ra := w.form == 2 && ((FMap.look w.a l).map Oper.reserved).getD false
  let sa := Elem.f32.decode false (leNat (bytes w.scales))
  let sb := Elem.f32.decode false w.bscale
  let cell (j : Nat) (o : Oper) : (Nat × Word) × Sticky :=
    if pricked w.prick l j then ((j, minusInf), Sticky.none)
    else
      let s := chunkSum a (chunkElems w.form o.bytes)
      let x := chunkAddend w.form s.1 sa sb
      let m := chunkMerge (w.before t fresh l j) x.1
      let r := if ra || (w.form == 2 && o.reserved) then Sticky.rsv4 else Sticky.none
      ((j, BitVec.ofNat 64 m.1), s.2 ||| x.2 ||| m.2 ||| r)
  let cells := w.b.zipIdx.map fun x => cell x.2 x.1
  (cells.map (·.1), cells.foldl (fun f c => f ||| c.2) Sticky.none)

/-- The accumulators after a word-op that is performed, and its flags. -/
def WordOp.perform (w : WordOp) (t : Team) (fresh : Nat) : Team :=
  let rows := w.liveRows t
  let out := rows.map fun l => (l, w.row t fresh l)
  let a := t.acc.retag [w.word] w.acc .a64
  let a := out.foldl (fun a x => a.setRow w.acc x.1 x.2.1) a
  let a := if w.first then a.setVoid w.acc w.rows false else a
  ({ t with acc := a } : Team).raiseFlags (out.foldl (fun f x => f ||| x.2.2) Sticky.none)

/-- The accumulators after a skipped word-op (R260). -/
def WordOp.skipped (w : WordOp) (t : Team) : Team :=
  let a := t.acc.retag [w.word] w.acc .a64
  { t with acc := (a.setRows w.acc (lanesOf w.rows t.lanes) fun _ => allColumns 0).setVoid w.acc w.rows true }

/-! ## Arrivals and faults of word-ops (R258, R261, R262) -/

/-- A word-op leaves its core; the sweep's next word-op of the pipe enters the queue (R255). -/
def Core.refill (now : Nat) (c : Core) : Core :=
  c.sweep.foldl (fun c w =>
    if (c.queue.filter fun x => x.pipe == w.pipe && !x.started).length < 16 then
      { c with queue := c.queue ++ [{ w with entered := now }], sweep := c.sweep.filter (·.id != w.id) }
    else c) c

/-- A word-op is gone from its core. -/
def State.dropOp (s : State) (core id : Nat) : State :=
  s.modCore core fun c =>
    { c with queue := c.queue.filter (·.id != id), pass := c.pass.filter (· != id) }.refill s.now

/-- A word-op arrives on its barrier, with an error to record (R262). -/
def State.opArrive (s : State) (t : Team) (w : WordOp) (detail : Option Nat) : State :=
  s.barArrive (s.ctxOf t) t.core w.bar w.barVa 1 0xFFFF (detail.map fun d => (BarCode.mxfault, d))

/-- The MXFAULT detail (R261). -/
def mxDetail (kind cause operand word : Nat) : Nat :=
  (if cause == 0 then kind else 0) + cause * 2 ^ 4 + operand * 2 ^ 8 + word * 2 ^ 10

/-- The record of a fault a word-op meets (R204, R261): access 0. -/
def WordOp.xrec (w : WordOp) (t : Team) (va kind level : Nat) : XRec :=
  { va := va, kind := kind, access := 0, level := level, lanes := 1, core := t.core, slot := t.slot, group := t.group,
    pc := w.pc }

/-- The one warning of an MMA whose word-op read invalid words (R83). -/
def State.opWarn (s : State) (t : Team) (w : WordOp) (os : List (Nat × Oper)) : State :=
  match leastOf (os.filterMap fun o => o.2.low) with
  | none => s
  | some va =>
    if w.warned then s
    else
      let mark (l : List WordOp) : List WordOp := l.map fun x => if x.mma == w.mma then { x with warned := true } else x
      let s := s.modCore t.core fun c => { c with queue := mark c.queue, sweep := mark c.sweep }
      s.errItem (s.ctxOf t) 1 4 t.core ({ t with pc := w.pc }.unwrBytes va)

/-- A word-op faults with a detail: its rows and the flags stay, it arrives. -/
def State.opFault (s : State) (t : Team) (w : WordOp) (detail : Nat) : State :=
  (s.dropOp t.core w.id).opArrive t w (some detail)

/-- The operands that a word-op with a fault has met: those before it, and the operand itself where its bytes were read
(R83; log entry 22). -/
def WordOp.met (w : WordOp) (t : Team) (o : Oper) (cause : Nat) : List (Nat × Oper) :=
  ((w.opers t).takeWhile fun x => x.2 != o) ++ (if cause == 4 then [(0, o)] else [])

/-- A word-op ends: skipped, void, faulted or performed (R258). -/
def State.opEnd (s : State) (t : Team) (w : WordOp) : State :=
  if w.skip then ((s.setTeam (w.skipped t)).dropOp t.core w.id).opArrive t w none
  else if (w.liveRows t).isEmpty then (s.dropOp t.core w.id).opArrive t w none
  else
    match w.fault t with
    | some (operand, o, (cause, kind, level)) =>
      let s := s.opWarn t w (w.met t o cause)
      let s := if cause == 0 then s.errXlate (s.ctxOf t) (w.xrec t o.va kind level) else s
      s.opFault t w (mxDetail kind cause operand w.word)
    | none =>
      let s := s.opWarn t w (w.opers t)
      ((s.setTeam (w.perform t s.fresh)).dropOp t.core w.id).opArrive t w none

/-! ## The arbiter and the budget (R264, R265) -/

/-- Bits set in a byte. -/
def bitCount (b : Byte) : Nat := (List.range 8).foldl (fun n i => if b.getLsbD i then n + 1 else n) 0

/-- Differing bits over the consecutive pairs of 128-byte values. -/
def toggles : List (List Byte) → Nat
  | a :: b :: r => ((a.zip b).map fun p => bitCount (p.1 ^^^ p.2)).foldl (· + ·) 0 + toggles (b :: r)
  | _ => 0

/-- The units a word-op costs (R264). -/
def WordOp.cost (w : WordOp) (t : Team) : Nat :=
  let rows := w.liveRows t
  let sample (i : Nat) : List Byte :=
    let l := 32 * w.word + 8 * i
    if rows.contains l then ((FMap.look w.a l).map (·.bytes)).getD (List.replicate 128 0) else List.replicate 128 0
  let cols := (List.range 4).map fun i => ((w.b[8 * i]?).map (·.bytes)).getD []
  32 + (toggles ((List.range 4).map sample) + toggles cols) / 16

/-- The head of each pipe's queue: its first word-op not started. -/
def Core.heads (c : Core) : List WordOp :=
  let waiting := c.queue.filter (!·.started)
  waiting.filter fun w => (waiting.find? (·.pipe == w.pipe)).map (·.id) == some w.id

/-- The least of a list under a measure; the first on a tie. -/
def leastBy (f : WordOp → Nat) : List WordOp → Option WordOp
  | [] => none
  | w :: r =>
    match leastBy f r with
    | none => some w
    | some x => if f x < f w then some x else some w

/-- The units of a word-op in this state. -/
def State.opCost (s : State) (w : WordOp) : Nat := ((s.team w.team).map w.cost).getD 32

/-- The head the arbiter takes: the oldest, or below 2,048 units the one of least cost, the lowest pipe on a tie (R265).
Heads that need no cycle of the unit take no part. -/
def State.arbiter (s : State) (c : Core) : Option WordOp :=
  let hs := c.heads.filter fun w => !(((s.team w.team).map w.direct).getD true)
  if 2048 ≤ c.level / 16 then leastBy (·.id) hs else leastBy (fun w => s.opCost w * 4 + w.pipe % 4) hs

/-- What a word-op reads for its sub-tile, with the rest of its fusion key: the context, the place and the bytes of each
column, the form and the bits of the B scale (R255). -/
def State.fuseKey (s : State) (w : WordOp) : Nat × List (Option Loc × List Byte) × Nat × Nat :=
  (((s.team w.team).map s.ctxOf).getD 0, w.b.map (fun o => (o.loc, o.bytes)), w.form, w.bscale)

/-- A queued word-op may run before those that entered earlier: none of them writes its accumulator word (R251). -/
def Core.unblocked (c : Core) (taken : List Nat) (x : WordOp) : Bool :=
  !c.queue.any fun y => y.team == x.team && y.acc == x.acc && y.word == x.word && y.id < x.id && !taken.contains y.id

/-- The word-ops that a fused pass begun with a word-op runs after it: queued ones of its key that entered within 64 cycles
of it and need the unit, in the order of their entry (R255; log entry 8). -/
def State.passOf (s : State) (c : Core) (w : WordOp) : List Nat :=
  (c.queue.filter fun x => !x.started && x.id != w.id && w.entered ≤ x.entered && x.entered ≤ w.entered + 64 &&
      !(((s.team x.team).map x.direct).getD true) && s.fuseKey x == s.fuseKey w).foldl
    (fun p x => if c.unblocked (w.id :: p) x then p ++ [x.id] else p) []

/-- The word-op the unit is about to start: the next of the pass in progress, else the arbiter's choice (R265). -/
def State.unitNext (s : State) (c : Core) : Option WordOp :=
  match c.pass.findSome? fun i => c.queue.find? (·.id == i) with
  | some w => some w
  | none => s.arbiter c

/-- The units the matrix unit waits for while it is free. -/
def State.unitWaits (s : State) (c : Core) : Option Nat :=
  if c.queue.any (·.started) then none else (s.unitNext c).map s.opCost

/-- Cycles, of n, that start with the level below u units. -/
def stallCycles (level rate u n : Nat) : Nat :=
  if u * 16 ≤ level then 0 else if rate == 0 then n else min n ((u * 16 - level + rate - 1) / rate)

/-- Cycles pass for a core: its level rises by RATE / 16 units a cycle up to 16,383, and its stalls count (R264, R265). -/
def Core.charge (c : Core) (waits : Option Nat) (n : Nat) : Core :=
  { c with
    level := min (16383 * 16) (c.level + c.rate * n)
    stalls := match waits with
      | none => c.stalls
      | some u => min (2 ^ 32 - 1) (c.stalls + stallCycles c.level c.rate u n) }

/-- WORD_OP_START: the free matrix unit takes the next word-op of the pass in progress, or the arbiter's head with the pass it
begins, once the level reaches its cost, which it charges (R255, R265). -/
def execWordOpStart (core : Nat) (s : State) : Host.Outcome State Fault Refusal :=
  let c := s.core core
  if c.queue.any (·.started) then stutter s
  else
    match s.unitNext c with
    | none => stutter s
    | some w =>
      let u := s.opCost w
      let pass := if c.pass.contains w.id then c.pass.filter (· != w.id) else s.passOf c w
      if c.level < u * 16 then stutter s
      else
        .next (s.modCore core fun c =>
          Core.refill s.now { c with
            level := c.level - u * 16
            pass := pass
            queue := c.queue.map fun x => if x.id == w.id then { x with started := true } else x })

/-- WORD_OP_COMPLETE: the word-op the unit works on, or a head that needs no cycle of it, ends (R258). -/
def execWordOpComplete (core id : Nat) (s : State) : Host.Outcome State Fault Refusal :=
  let c := s.core core
  match c.queue.find? (·.id == id) with
  | none => stutter s
  | some w =>
    match s.team w.team with
    | none => stutter s
    | some t =>
      let first := !c.queue.any fun x => x.pipe == w.pipe && x.id < w.id
      if w.started || (first && w.direct t) then .next (s.opEnd t w) else stutter s

/-- The islands that a word-op's operands may wait on (R415). -/
def WordOp.islands (w : WordOp) (t : Team) : List Nat := ((w.opers t).filterMap (·.2.home)).flatMap (sliceIslands t.die)

/-- OPERAND_TIMEOUT: an operand not delivered within 65,536 cycles faults the word-op (R261). -/
def execOperandTimeout (core id : Nat) (s : State) : Host.Outcome State Fault Refusal :=
  match (s.core core).queue.find? (·.id == id) with
  | none => stutter s
  | some w =>
    match s.team w.team with
    | none => stutter s
    | some t =>
      if !w.started && 65536 ≤ s.waited (w.islands t) w.entered && !w.direct t then
        .next ((s.opWarn t w (w.opers t)).opFault t w (mxDetail 0 6 (Config.lateOperand s.fresh).val w.word))
      else stutter s

/-- A residue mismatch that persists faults the word-op the unit works on, with cause 5 and operand code 0 (log entry 22), and
gives a SOFT item of the team's core (R261, R383, R454). -/
def State.residueFault (s : State) (core id addr : Nat) : State :=
  match (s.core core).queue.find? (·.id == id) with
  | none => s
  | some w =>
    match s.team w.team with
    | none => s
    | some t =>
      if w.started then
        ((s.opWarn t w (w.opers t)).softItem (some (s.ctxOf t)) 7 addr t.gang t.core).opFault t w (mxDetail 0 5 0 w.word)
      else s

/-! ## MMA (R256, R257, R258) -/

/-- The fields of MMA's modifiers (R128). -/
structure MmaMods where
  form    : Nat
  first   : Bool
  pricked : Bool
  skip    : Bool
  sub     : Nat
  deriving DecidableEq, Repr

/-- The modifiers of a word. -/
def MmaMods.of (o : Mx) : MmaMods :=
  { form := bitsOf o.m.toNat 13 11, first := o.m.getLsbD 10, pricked := o.m.getLsbD 9, skip := o.m.getLsbD 8,
    sub := bitsOf o.m.toNat 7 6 }

/-- The floor of a full list, else minus infinity (R274), as FP32 bits. -/
def Team.rankFloor (t : Team) (c l : Nat) : Lane32 :=
  let r := t.accRank c l
  if r.len == r.k && r.k != 0 then (t.accElem c l (r.k - 1)).truncate 32 else 0xFF800000

/-- Rank-skip of a word's rows (R260): the exact product of bound and block bound lies strictly below the floor in every
row. -/
def Team.rankSkips (t : Team) (rows : Mask) (u r : Nat) (bb : NumVal) : Bool :=
  (lanesOf rows t.lanes).all fun l =>
    NumVal.cmp (NumVal.mul (Elem.f32.decode false (t.lane u l).toNat) bb)
      (Elem.f32.decode false (t.rankFloor r l).toNat) == some .lt

/-- What MMA reads of its scalar blocks, checked by steps 1 to 3 of R257. -/
structure MmaArgs where
  acc     : Nat
  sa      : Nat
  stride  : Int
  scale   : Nat
  sb      : Nat
  bscale  : Nat
  bar     : Nat
  colbase : Nat
  bound   : NumVal
  u       : Nat
  r       : Nat
  /-- Taint of the scalars that address the A rows, the A scales and the tile (R254). -/
  taintA  : Bool
  taintS  : Bool
  taintB  : Bool
  deriving DecidableEq, Repr

/-- The active words of an accumulator are in a state that MMA accepts, or FORMAT (R250): without `.first` a word with a
word-op of its own pending counts as Sum, for MMA does not wait for it (R251). -/
def State.mmaAccepts (s : State) (t : Team) (act : Mask) (c : Nat) (first : Bool) : Except Trap Unit :=
  require ((wordsOf act t.lanes).all fun w =>
    if first then accEmptyOrSum (t.accTag c w)
    else accSum (t.accTag c w) || (s.accPendingWord t c w && t.accTag c w == none)) Code.format

/-- Steps 1 to 3 of R257. -/
def mmaArgs (s : State) (t : Team) (h : Hd) (o : Mx) (m : MmaMods) : Except Trap MmaArgs := do
  let a := o.a.toNat
  let b := o.b.toNat
  let c := o.c.toNat
  let act := t.active h
  let d ← t.creg o.d.toNat
  let skipWord := (t.sreg (c + 3)).bits.toNat
  let u := bitsOf skipWord 7 0
  let r := bitsOf skipWord 11 8
  require (!m.skip || (u < t.vregs && r < t.accs)) Code.regbound
  if m.skip then s.accReady t [r]
  let sa ← t.addr a
  let stride ← t.int (a + 1)
  let scale ← if m.form == 0 then t.addr (a + 2) else .ok 0
  let sb ← t.addr b
  let bscale ← if m.form == 0 then t.scalar (b + 1) [Tag.f32] else .ok 0
  let bar ← if act != 0 then t.addr c else .ok 0
  require (!m.pricked || [Tag.n32, Tag.i64].contains (t.sreg (c + 1)).tag) Code.format
  let bound ← if m.skip then t.scalar (c + 2) [Tag.f32] else .ok 0
  require (!m.skip || (t.sreg (c + 3)).tag == Tag.n32) Code.format
  s.mmaAccepts t act d m.first
  if m.skip then
    t.checkTag act u [Tag.f32]
    t.accNeed act r accRankTag
  let colbase ← if m.pricked then t.unsigned32 (c + 1) else .ok 0
  require (!m.skip || skipWord % 2 ^ 32 < 2 ^ 12) Code.arith
  return { acc := d, sa := sa.toNat, stride := stride, scale := scale.toNat, sb := sb.toNat, bscale := bscale.toNat,
           bar := bar.toNat, colbase := colbase, bound := Elem.f32.decode false bound.toNat, u := u, r := r,
           taintA := (t.sreg a).taint || (t.sreg (a + 1)).taint, taintS := (t.sreg (a + 2)).taint,
           taintB := (t.sreg b).taint }

/-- Addresses of the A rows of lanes (R253). -/
def MmaArgs.rowsOf (x : MmaArgs) (ls : List Nat) : List (Nat × Nat) :=
  ls.map fun l => (l, (((x.sa : Int) + l * x.stride) % 2 ^ 64).toNat)

/-- Addresses of the A scales of lanes. -/
def MmaArgs.scalesOf (x : MmaArgs) (ls : List Nat) : List (Nat × Nat) := ls.map fun l => (l, (x.scale + 4 * l) % 2 ^ 64)

/-- Addresses of the sub-tile's columns. -/
def MmaArgs.colsOf (x : MmaArgs) (sub : Nat) : List (Nat × Nat) :=
  (List.range 32).map fun j => (j, (x.sb + 4096 * sub + 128 * j) % 2 ^ 64)

/-- The word-op of one active word, its operands fetched; a skipped one fetches nothing. -/
def State.makeOp (s : State) (t : Team) (m : MmaMods) (x : MmaArgs) (act : Mask) (mma : Nat) (bar : Loc) (id w : Nat) :
    WordOp × State :=
  let rows : Mask := act &&& ((BitVec.allOnes 32).setWidth 1024 <<< (32 * w))
  let skip := m.skip && t.rankSkips rows x.u x.r x.bound
  let live := (lanesOf rows t.lanes).filter fun l => m.first || !s.willVoid t x.acc l
  let ls := if skip then [] else live
  let a := s.fetchOpers t x.taintA 128 (x.rowsOf ls)
  let sc := a.2.fetchOpers t x.taintS 4 (if m.form == 0 then x.scalesOf ls else [])
  let b := sc.2.fetchOpers t x.taintB 128 (if ls.isEmpty then [] else x.colsOf m.sub)
  ({ id := id, mma := mma, team := t.id, pipe := t.pipe, word := w, acc := x.acc, form := m.form, first := m.first
     prick := if m.pricked then some (t.prick, x.colbase + 32 * m.sub) else none
     skip := skip, rows := rows, a := a.1, scales := sc.1, b := b.1.map (·.2), bscale := x.bscale, bar := bar
     barVa := x.bar, pc := t.pc, warned := false, entered := 0, started := false }, b.2)

/-- The word-ops of the active words, in ascending order. -/
def State.makeOps (s : State) (t : Team) (m : MmaMods) (x : MmaArgs) (act : Mask) (mma : Nat) (bar : Loc) :
    List Nat → List WordOp × State
  | [] => ([], s)
  | w :: r =>
    let n := s.newId
    let y := n.2.makeOp t m x act mma bar n.1 w
    let z := y.2.makeOps t m x act mma bar r
    (y.1 :: z.1, z.2)

/-- MMA: step 4 of R257 (the object checked, the count of active words added), then the word-ops queued. -/
def mmaOp (h : Hd) (o : Mx) (s : State) (t : Team) : Except Trap Done := do
  let m := MmaMods.of o
  let x ← mmaArgs s t h o m
  let act := t.active h
  let ws := wordsOf act t.lanes
  if ws.isEmpty then return .next s
  else
    let obj ← s.barPlace t x.bar
    let s ← s.unwritten t (s.invalidWords x.bar 32 (.win obj))
    s.orTrap do
      let b := s.bar obj
      b.active
      require (b.pend + ws.length < 2 ^ 31) Code.barrier
      let n := (s.barEnd obj { b with pend := b.pend + ws.length }).newId
      let y := n.2.makeOps t m x act n.1 obj ws
      let s := y.2.modCore t.core fun c => { c with sweep := c.sweep ++ y.1 }.refill s.now
      return .next (s.modTeam t.id (Team.count h.fb (some n.1)))

/-- MMA (R258). -/
def execMma (h : Hd) (o : Mx) (s : State) : Host.Outcome State Fault Refusal := issue s (withRoom h.fb (mmaOp h o))

end Sys2Proof.Machine
end

