-- ==== Sys2Proof/Machine/Ranked.lean ====
section
/-! DEFINITION. Ranked lists: the order, the offer, the memory format and the rank instructions (spec/13_ranked_list.md
R274 to R287). -/

namespace Sys2Proof.Machine

/-! ## The list of a lane (R274, R275) -/

/-- A list as it is worked on: capacity, entries (FP32 bits and index) from the highest, and the sticky bits. -/
structure RankList where
  k       : Nat
  entries : List (Nat × Nat)
  nan     : Bool
  void    : Bool
  deriving DecidableEq, Repr

/-- The list of lane l of an accumulator. -/
def Team.rankList (t : Team) (c l : Nat) : RankList :=
  let r := t.accRank c l
  { k := r.k, nan := r.nan, void := t.accVoid c l
    entries := (List.range r.len).map fun e => ((t.accElem c l e).toNat % 2 ^ 32, (t.accElem c l e).toNat / 2 ^ 32) }

/-- A list written to lane l: bytes past its entries are zero. -/
def Accs.setRank (a : Accs) (c l : Nat) (x : RankList) : Accs :=
  let ent (e : Nat) : Word := match x.entries[e]? with | some p => BitVec.ofNat 64 (p.1 + p.2 * 2 ^ 32) | none => 0
  let a := a.setRow c l ((List.range 32).map fun e => (e, ent e))
  { a.setVoid c (1#1024 <<< l) x.void with
    rank := FMap.put a.rank (c * 1024 + l) { len := x.entries.length, k := x.k, nan := x.nan } }

/-- Entry (v, i) ranks above entry (w, j) (R275). -/
def ranksAbove (a b : Nat × Nat) : Bool :=
  match NumVal.cmp (Elem.f32.decode false a.1) (Elem.f32.decode false b.1) with
  | some .gt => true
  | some .eq => a.2 < b.2
  | _ => false

/-- A pair placed in order. -/
def rankPlace (p : Nat × Nat) : List (Nat × Nat) → List (Nat × Nat)
  | [] => [p]
  | q :: r => if ranksAbove p q then p :: q :: r else q :: rankPlace p r

/-- `offer(L, v, i)` (R275). A pair that ranks below entry k - 1 of a full list is placed last and cut off. -/
def RankList.offer (x : RankList) (v i : Nat) : RankList :=
  if (Elem.f32.decode false v).isNan then { x with nan := true }
  else
    let p : Nat × Nat := (if v == 2 ^ 31 then 0 else v, i)
    if x.entries.contains p then x else { x with entries := (rankPlace p x.entries).take x.k }

/-- Several pairs offered in turn. -/
def RankList.offers (x : RankList) (ps : List (Nat × Nat)) : RankList := ps.foldl (fun x p => x.offer p.1 p.2) x

/-- The lists of lanes replaced. -/
def Accs.setRanks (a : Accs) (c : Nat) (ls : List Nat) (f : Nat → RankList) : Accs :=
  ls.foldl (fun a l => a.setRank c l (f l)) a

/-! ## CRANK, RKINS, RKFOLD, RKFLOOR (R281 to R283, R286) -/

/-- CRANK: every lane of an active word gets an empty list. -/
def crankOp (h : Hd) (o : Mx) (s : State) (t : Team) : Except Trap Done := do
  let c ← t.creg o.d.toNat
  s.accReady t [c]
  let k := bitsOf o.m.toNat 10 6 + 1
  let ws := wordsOf (t.active h) t.lanes
  let lanes := ws.flatMap fun w => (List.range 32).map (32 * w + ·)
  let a := (t.acc.retag ws c .rank).setRanks c lanes fun _ => { k := k, entries := [], nan := false, void := false }
  return teamDone s { t with acc := a }

/-- CRANK (R281). -/
def execCrank (h : Hd) (o : Mx) (s : State) : Host.Outcome State Fault Refusal :=
  issueLong s h.fb (hasLane h) (crankOp h o)

/-- RKINS. -/
def rkinsOp (h : Hd) (o : Mx) (s : State) (t : Team) : Except Trap Done := do
  let c ← t.creg o.d.toNat
  let v ← t.vreg false (BitVec.ofNat 8 (bitsOf o.m.toNat 13 6)) 2
  s.accReady t [c]
  let act := t.active h
  t.checkTag act v [Tag.f32]
  t.checkTag act (v + 1) [Tag.i32, Tag.n32]
  t.accNeed act c accRankTag
  let offered (l : Nat) : RankList := (t.rankList c l).offer (t.lane v l).toNat (t.lane (v + 1) l).toNat
  return teamDone s { t with acc := t.acc.setRanks c (lanesOf act t.lanes) offered }

/-- RKINS (R282). -/
def execRkins (h : Hd) (o : Mx) (s : State) : Host.Outcome State Fault Refusal :=
  issueLong s h.fb (hasLane h) (rkinsOp h o)

/-- A column's value for a fold: rounded toward minus infinity (R283). -/
def foldValue (x : Word) : Nat × Sticky := Elem.f32.round .rd {} (decodeFloat Fmt.f64 false x.toNat)

/-- RKFOLD. -/
def rkfoldOp (h : Hd) (o : Mx) (s : State) (t : Team) : Except Trap Done := do
  let d ← t.creg o.d.toNat
  let c ← t.creg (bitsOf o.m.toNat 9 6)
  s.accReady t [d, c]
  let act := t.active h
  t.accNeed act d accRankTag
  t.accNeed act c accSum
  let b ← t.unsigned32 o.a.toNat
  require (b ≤ 2 ^ 32 - 32) Code.arith
  let ls := lanesOf act t.lanes
  let pairs (l : Nat) : List (Nat × Nat) := (List.range 32).map fun j => ((foldValue (t.accElem c l j)).1, b + j)
  let folded (l : Nat) : RankList :=
    if t.accVoid c l then { t.rankList d l with void := true } else (t.rankList d l).offers (pairs l)
  let a := t.acc.setRanks d ls folded
  let a := (a.setRows c ls fun _ => allColumns 0).setVoid c act false
  let flags (l : Nat) : Sticky :=
    if t.accVoid c l then Sticky.none
    else (List.range 32).foldl (fun f j => f ||| (foldValue (t.accElem c l j)).2) Sticky.none
  return teamDone s (({ t with acc := a } : Team).raiseFlags (flagsOf act t.lanes flags))

/-- RKFOLD (R283). -/
def execRkfold (h : Hd) (o : Mx) (s : State) : Host.Outcome State Fault Refusal :=
  issueLong s h.fb (hasLane h) (rkfoldOp h o)

/-- RKFLOOR. -/
def rkfloorOp (h : Hd) (o : Mx) (s : State) (t : Team) : Except Trap Done := do
  let c ← t.creg o.d.toNat
  let v ← t.vreg false (BitVec.ofNat 8 (bitsOf o.m.toNat 13 6)) 1
  s.accReady t [c]
  let act := t.active h
  t.accNeed act c accRankTag
  return teamDone s (t.laneResult act v [Tag.f32] [] fun l => ([t.rankFloor c l], Sticky.none))

/-- RKFLOOR (R286). -/
def execRkfloor (h : Hd) (o : Mx) (s : State) : Host.Outcome State Fault Refusal :=
  issueLong s h.fb (hasLane h) (rkfloorOp h o)

/-! ## Rows in memory (R278, R279) -/

/-- The row addresses of lanes. -/
def Team.rankRows (t : Team) (a : Nat) (ls : List Nat) : Except Trap (List (Nat × Nat)) := do
  let base ← t.addr a
  let stride ← t.int (a + 1)
  return ls.map fun l => (l, (((base.toNat : Int) + l * stride) % 2 ^ 64).toNat)

/-- One 8-byte piece of a row: ACCESS in the lane-private window. -/
def State.rankPiece (s : State) (w : Who) (a : Access) (va : Nat) : Except LErr Place :=
  let own := inWindow va && (match s.window w va 8 with | some (.own _ _) => true | _ => false)
  if own then .error (.err Code.access none) else s.resolve w a 8 8 va

/-- The addresses of n pieces of a row from an offset. -/
def rowPieces (va first n : Nat) : List Nat := (List.range n).map fun i => (va + 8 * (first + i)) % 2 ^ 64

/-- The place of a fault among steps 4 and 5 of R203: NOTPRESENT and MALFORMED by level from the root, the permission kinds,
UNPOPULATED, KEYSLOT, then the reach of R400. -/
def LErr.order : LErr → Nat
  | .park k l => if k == Kind.notPresent then 3 - l else 4
  | .err _ (some (k, l)) => if k == Kind.malformed then 3 - l else if k == Kind.unpopulated then 5 else if k == Kind.keySlot then 6 else 4
  | .err _ none => 4
  | .unreachable => 7

/-- The failing piece of a row that comes first in the order of R203; the lower one on a tie. -/
def firstPiece : List (Nat × Except LErr Place) → Option (Nat × LErr)
  | [] => none
  | (va, .error e) :: r =>
    match firstPiece r with
    | some (va', e') => if e'.order < e.order then some (va', e') else some (va, e)
    | none => some (va, e)
  | (_, .ok _) :: r => firstPiece r

/-- A row whose pieces lie at addresses `vas` keeps within one window or within device memory (R70, R279). -/
def State.rowBounds (s : State) (w : Who) (vas : List Nat) : Bool :=
  let va := vas.headD 0
  let n := 8 * vas.length
  if inWindow va then (match s.window w va n with | some (.own _ _) => false | some _ => true | none => false)
  else va + n ≤ winBase

/-- What a row's check ends in, by the steps of R203 over the whole row: the address form, the window bounds, the alignment,
then translation, permission and key of its pieces. -/
def State.rankRow (s : State) (t : Team) (a : Access) (lane : Nat) (vas : List Nat) : Nat × Except LErr Place :=
  let w := t.who (s.ctxOf t) (some lane)
  let va := vas.headD 0
  match vas.find? (2 ^ 57 ≤ ·) with
  | some x => (x, s.resolve w a 8 8 x)
  | none =>
    if !s.rowBounds w vas then (va, .error (.err Code.access none))
    else if va % 8 != 0 then (va, .error (.err Code.align none))
    else
      match firstPiece (vas.map fun x => (x, s.resolve w a 8 8 x)) with
      | some (x, e) => (x, .error e)
      | none => (va, s.resolve w a 8 8 va)

/-- The pieces of all rows checked, lane by lane (R203): their lanes, addresses and places. -/
def State.rankCheck (s : State) (t : Team) (a : Access) (rows : List (Nat × List Nat)) :
    Except Trap (List (Nat × Nat × Place)) := do
  let rows := rows.filter fun r => !r.2.isEmpty
  let _ ← settleLanes a (rows.map fun r => s.rankRow t a r.1 r.2)
  return rows.flatMap fun r => r.2.filterMap fun va =>
    match s.rankPiece (t.who (s.ctxOf t) (some r.1)) a va with
    | .ok p => some (r.1, va, p)
    | .error _ => none

/-- The words of pieces read in order, with the lane of each. -/
def State.rankRead (s : State) (t : Team) (taint : Bool) (ps : List (Nat × Nat × Place)) : List (Nat × Nat) × State :=
  let m : Manner := { slice := false, taint := taint, ret := 0 }
  let r := s.readPlaces t 8 (ps.map fun p => (m, p.2.2))
  ((ps.map (·.1)).zip r.1, r.2)

/-- The words of one lane. -/
def laneWords (l : Nat) (ws : List (Nat × Nat)) : List Nat := (ws.filter (·.1 == l)).map (·.2)

/-- A header is good (R284). -/
def rankHeader (w : Nat) : Bool :=
  let len := bitsOf w 15 0
  let k := bitsOf w 31 16
  bitsOf w 63 34 == 0 && 1 ≤ k && k ≤ 32 && len ≤ k

/-- The invalid words that pieces touch. -/
def State.rankInvalid (s : State) (ps : List (Nat × Nat × Place)) : List Nat :=
  ps.flatMap fun p => s.invalidWords p.2.1 8 p.2.2

/-- RKMERGE. -/
def rkmergeOp (h : Hd) (o : Mx) (s : State) (t : Team) : Except Trap Done := do
  let c ← t.creg o.d.toNat
  s.accReady t [c]
  let act := t.active h
  let ls := lanesOf act t.lanes
  let rows ← t.rankRows o.a.toNat ls
  t.accNeed act c accRankTag
  let taint := (t.sreg o.a.toNat).taint || (t.sreg (o.a.toNat + 1)).taint
  let hp ← s.rankCheck t .rd (rows.map fun r => (r.1, rowPieces r.2 0 1))
  let bad := s.rankInvalid hp
  let hr := (s.usePlaces t .rd (hp.map (·.2.2))).rankRead t taint hp
  let s ← hr.2.unwritten t bad
  s.orTrap do
    let head (l : Nat) : Nat := (laneWords l hr.1).headD 0
    require (ls.all fun l => rankHeader (head l)) Code.arith
    let s := hr.2
    let ep ← s.rankCheck t .rd (rows.map fun r => (r.1, rowPieces r.2 1 (bitsOf (head r.1) 15 0)))
    let s ← s.unwritten t (bad ++ s.rankInvalid ep)
    let er := (s.usePlaces t .rd (ep.map (·.2.2))).rankRead t taint ep
    let merged (l : Nat) : RankList :=
      let x := (t.rankList c l).offers ((laneWords l er.1).map fun w => (w % 2 ^ 32, w / 2 ^ 32))
      { x with nan := x.nan || (head l).testBit 32, void := x.void || (head l).testBit 33 }
    return .next (er.2.modTeam t.id fun u => { u with acc := u.acc.setRanks c ls merged })

/-- RKMERGE (R284). -/
def execRkmerge (h : Hd) (o : Mx) (s : State) : Host.Outcome State Fault Refusal :=
  issueFar s h.fb (hasLane h) noRegs noRegs (fun _ => [o.d.toNat]) (rkmergeOp h o)

/-- The row of a list: header and entries (R278). -/
def RankList.row (x : RankList) : List Nat :=
  (x.entries.length + x.k * 2 ^ 16 + (if x.nan then 2 ^ 32 else 0) + (if x.void then 2 ^ 33 else 0)) ::
    x.entries.map fun p => p.1 + p.2 * 2 ^ 32

/-- RKOUT. -/
def rkoutOp (h : Hd) (o : Mx) (s : State) (t : Team) : Except Trap Done := do
  let c ← t.creg o.d.toNat
  s.accReady t [c]
  let act := t.active h
  let rows ← t.rankRows o.a.toNat (lanesOf act t.lanes)
  t.accNeed act c accRankTag
  let data (l : Nat) : List Nat := (t.rankList c l).row
  let ps ← s.rankCheck t .wr (rows.map fun r => (r.1, rowPieces r.2 0 (data r.1).length))
  let s := s.usePlaces t .wr (ps.map (·.2.2))
  let words := rows.flatMap fun r => data r.1
  return .next (s.writePlaces t .plain 0 ((ps.zip words).map fun (p, w) => (p.2.2, leBytes 8 w, false)))

/-- RKOUT (R285). -/
def execRkout (h : Hd) (o : Mx) (s : State) : Host.Outcome State Fault Refusal :=
  issueFar s h.fb (hasLane h) noRegs noRegs noRegs (rkoutOp h o)

end Sys2Proof.Machine
end

