-- ==== Sys2Proof/Machine/Queue.lean ====
section
/-! DEFINITION. Queues: the control block, records and the visible tail, row faults, agents that cannot reach a block, and
the queue instructions (spec/15_queue.md R312 to R318, R325 to R330, R332, R453). -/

namespace Sys2Proof.Machine

/-! ## The control block (R313, R314) -/

/-- The fields of a queue control block. -/
structure Qcb where
  kind   : Nat
  rsize  : Nat
  rcap   : Nat
  engine : Nat
  timer  : Nat
  base   : Nat
  resv   : Nat
  tail   : Nat
  claim  : Nat
  head   : Nat
  done   : Nat
  retry  : Nat
  flreq  : Bool
  broken : Bool
  deriving DecidableEq, Repr

/-- The kinds of R312. -/
def kindLaunch : Nat := 0
def kindRecord : Nat := 1
def kindToken : Nat := 2
def kindChain : Nat := 3
def kindRetire : Nat := 4
def kindSyscall : Nat := 5

/-- The fields read from the block's 512 bits. -/
def Qcb.ofNat (v : Nat) : Qcb :=
  { kind := bitsOf v 3 0, rsize := bitsOf v 7 4, rcap := bitsOf v 12 8, engine := bitsOf v 31 16, timer := bitsOf v 63 32
    base := bitsOf v 127 64, resv := bitsOf v 191 128, tail := bitsOf v 255 192, claim := bitsOf v 319 256
    head := bitsOf v 383 320, done := bitsOf v 447 384, retry := bitsOf v 455 448, flreq := v.testBit 456
    broken := v.testBit 457 }

/-- An engine that accepts chains (R319). -/
def chainEngine (e : Nat) : Bool := e / 128 < 8 && e % 128 ≤ 76

/-- The record size fits the kind (R312, R335). -/
def recordSizeOk (kind rsize : Nat) : Bool :=
  if kind == kindRetire then rsize == 5
  else if kind == kindRecord || kind == kindToken then 4 ≤ rsize && rsize ≤ 8
  else rsize == 6

/-- The block is not malformed (R314). -/
def Qcb.ok (q : Qcb) (v : Nat) : Bool :=
  bitsOf v 15 13 == 0 && bitsOf v 511 458 == 0 && q.kind ≤ 5 && !q.broken && recordSizeOk q.kind q.rsize &&
    1 ≤ q.rcap && q.rcap ≤ 20 && q.base % min (2 ^ (q.rsize + q.rcap)) 4096 == 0 &&
    (if q.kind == kindChain then chainEngine q.engine else q.engine == 0 && q.done == 0) &&
    (q.kind == kindRecord || q.timer == 0) && q.head ≤ q.claim && q.claim ≤ q.tail && q.tail ≤ q.resv &&
    q.resv ≤ q.head + 2 ^ q.rcap

/-- A block at a place; none when it is malformed. -/
def State.qcb (s : State) (key : Option Nat) (b : Loc) : Option Qcb :=
  let v := s.locNat key b 64
  let q := Qcb.ofNat v
  if q.ok v then some q else none

/-- The address of an index's slot. -/
def Qcb.slotVa (q : Qcb) (i : Nat) : Nat := (q.base + i % 2 ^ q.rcap * 2 ^ q.rsize) % 2 ^ 64

/-- Offsets of the fields that operations write. -/
def qResv : Nat := 16
def qTail : Nat := 24
def qClaim : Nat := 32
def qHead : Nat := 40
def qDone : Nat := 48

/-- An 8-byte field of a block written. -/
def State.qPut (s : State) (key : Option Nat) (b : Loc) (off v : Nat) : State := s.locWrite key (b.add off) (leBytes 8 v)

/-- RETRY, FLREQ and BROKEN written. -/
def State.qFlags (s : State) (key : Option Nat) (b : Loc) (retry : Nat) (flreq broken : Bool) : State :=
  s.locWrite key (b.add 56) (leBytes 8 (retry + (if flreq then 2 ^ 8 else 0) + (if broken then 2 ^ 9 else 0)))

/-! ## The Thimble engine's tables (R315, R316) -/

/-- The tables of a block. -/
def State.qaux (s : State) (b : Loc) : QAux :=
  (s.eng.qaux.find? (·.block == b)).getD { block := b, since := none, commit := [], done := [], bound := none, owners := [] }

/-- The tables of a block changed. -/
def State.modQaux (s : State) (b : Loc) (f : QAux → QAux) : State :=
  let x := f (s.qaux b)
  let put (l : List QAux) : List QAux :=
    if l.any (·.block == b) then l.map (fun y => if y.block == b then x else y) else l ++ [x]
  s.withEng fun e => { e with qaux := put e.qaux }

/-- The first index at or above i that is not listed. -/
def runEnd (l : List Nat) : Nat → Nat → Nat
  | 0, i => i
  | n + 1, i => if l.contains i then runEnd l n (i + 1) else i

/-- A queue gets its first visible record: the flush timer of its stage starts (R339). -/
def State.startTimer (s : State) (b : Loc) : State :=
  let s := s.modQaux b fun x => { x with since := some s.now }
  match (s.qaux b).bound with
  | none => s
  | some l => s.withSched fun x =>
      { x with launches := x.launches.map fun y => if y.id == l then { y with timer := some s.now } else y }

/-- A block had a request in this cycle: its indices advance at the cycle's end (R316, R317). -/
def State.noteBlock (s : State) (key : Option Nat) (b : Loc) : State :=
  if s.cyc.blocks.contains (key, b) then s else { s with cyc := { s.cyc with blocks := s.cyc.blocks ++ [(key, b)] } }

/-- TAIL and HEAD advance over committed and done indices; every advance is an `.addt` crossing that wakes the word's
waiters (R316) and leaves the word as Cold or Hot as it is (log entry 57). -/
def State.qAdvance (s : State) (key : Option Nat) (b : Loc) : State :=
  match s.qcb key b with
  | none => s
  | some q =>
    let x := s.qaux b
    let tail := min q.resv (runEnd x.commit x.commit.length q.tail)
    let head := min q.claim (runEnd x.done x.done.length q.head)
    let s := s.modQaux b fun x => { x with commit := x.commit.filter (tail ≤ ·), done := x.done.filter (head ≤ ·) }
    let s := if tail == q.tail then s else (s.qPut key b qTail tail).wakeEvent (b.add qTail)
    let s := if tail != q.tail && q.tail == q.claim then s.startTimer b else s
    if head == q.head then s else (s.qPut key b qHead head).wakeEvent (b.add qHead)

/-- The advances of all blocks that had requests in the cycle that ends. -/
def State.closeBlocks (s : State) : State :=
  { s.cyc.blocks.foldl (fun s x => s.qAdvance x.1 x.2) s with cyc := { s.cyc with blocks := [] } }

/-- Indices are done (R315). -/
def State.qMarkDone (s : State) (key : Option Nat) (b : Loc) (first n : Nat) : State :=
  let gone (o : Nat × Nat) : Bool := first ≤ o.1 && o.1 < first + n
  (s.modQaux b fun x =>
    { x with done := (List.range n).map (first + ·) ++ x.done, owners := x.owners.filter (!gone ·) }).noteBlock key b

/-- An index is committed (R315). -/
def State.qCommit (s : State) (key : Option Nat) (b : Loc) (i : Nat) : State :=
  match s.qcb key b with
  | none => s
  | some _ => (s.modQaux b fun x => { x with commit := i :: x.commit }).noteBlock key b

/-- m indices are reserved; their earlier bits are gone. -/
def State.qReserve (s : State) (key : Option Nat) (b : Loc) (q : Qcb) (m : Nat) (owner : Option Nat) : State :=
  let fresh (i : Nat) : Bool := q.resv ≤ i && i < q.resv + m
  let own := match owner with
    | some t => (List.range m).map fun j => (q.resv + j, t)
    | none => []
  (s.modQaux b fun x =>
    { x with
      commit := x.commit.filter (!fresh ·), done := x.done.filter (!fresh ·)
      owners := x.owners.filter (fun o => !fresh o.1) ++ own }).qPut key b qResv (q.resv + m)

/-- Records on their way to their slots, from an index on; `back` is the cluster of a release. -/
def State.addRows (s : State) (agent ctx : Nat) (key : Option Nat) (b : Loc) (q : Qcb) (back : Option Nat) (first : Nat) :
    List (List Byte) → State
  | [] => s
  | r :: rs =>
    let n := s.newId
    let row : Row :=
      { id := n.1, agent := agent, ctx := ctx, block := b, key := key, index := first, va := q.slotVa first, bytes := r
        back := back, faulted := false, nextTry := 0 }
    (n.2.withEng fun e => { e with rows := e.rows ++ [row] }).addRows agent ctx key b q back (first + 1) rs

/-! ## Rows that land and rows that fault (R318) -/

/-- 16 microseconds in cycles. -/
def sixteenUs : Nat := 16 * 940

/-- An agent that is no team: its translations are its own, and of the windows it reaches chip scratchpad alone. -/
def agentWho (agent ctx die : Nat) : Who := { agent := agent, ctx := ctx, team := none, lane := none, die := die }

/-- The agent number of the detector's node (R319). -/
def detector : Nat := 78

/-- The agent number of the host's ingress. -/
def ingress : Nat := 82

/-- The local island of a package node (R414). -/
def nodeIsland (k : Nat) : Nat := if k == detector then 59 else if k == ingress then 61 else 60

/-- The die whose copy of a one-copy node acts: die 0, or die 4 once die 0 is fenced (R22) and while the node's island there is
stalled (R415). -/
def State.nodeDie (s : State) (k : Nat) : Nat :=
  if s.svc.die0 || (s.stalled (nodeIsland k) && !s.stalled (4 * 64 + nodeIsland k)) then 4 else 0

/-- A one-copy node of the package, by its number on its die. -/
def State.nodeWho (s : State) (k ctx : Nat) : Who := agentWho (engineAgent (s.nodeDie k * 128 + k)) ctx (s.nodeDie k)

/-- Device memory of this package with its home write, or chip scratchpad; `none` for another place. -/
def State.homePut (s : State) (w : Who) (p : Place) (bs : List Byte) : State :=
  match p with
  | .dev x pa => (s.byDie w.die fun s => (s.usePlace w .wr p).homeWrite (some x.leaf.key) pa bs).touchPage 0 x pa
  | .win l => s.locWrite none l bs
  | .own _ _ => s

/-- The fault record of an agent's access that meets an error (R204, R318). -/
def LErr.agentFault (e : LErr) (va access : Nat) : Option TFault :=
  match e with
  | .err _ (some (k, l)) => some { va := va, kind := k, access := access, level := l, lanes := 1 }
  | .park k l => some { va := va, kind := k, access := access, level := l, lanes := 1 }
  | _ => none

/-- QCB.RETRY: the faulted rows of a block, saturating at 255. -/
def State.setRetry (s : State) (key : Option Nat) (b : Loc) : State :=
  match s.qcb key b with
  | none => s
  | some q => s.qFlags key b (min 255 (s.eng.rows.filter fun r => r.faulted && r.block == b).length) q.flreq q.broken

/-- A row leaves the engine. -/
def State.dropRow (s : State) (id : Nat) : State := s.withEng fun e => { e with rows := e.rows.filter (·.id != id) }

/-- A row that can never land breaks its queue. -/
def State.breakQueue (s : State) (r : Row) (f : Option TFault) : State :=
  let s := match f with | some f => s.errXlate r.ctx f.noTeam | none => s
  let s := s.dropRow r.id
  let q := Qcb.ofNat (s.locNat r.key r.block 64)
  s.qFlags r.key r.block (min 255 (s.eng.rows.filter fun x => x.faulted && x.block == r.block).length) q.flreq true

/-- A row is written to its slot: it lands and commits, stays faulted until its next try, or breaks its queue. -/
def State.writeRow (s : State) (r : Row) : State :=
  let w := agentWho r.agent r.ctx (agentDie r.agent)
  match s.resolve w .wr r.bytes.length 1 r.va with
  | .ok p =>
    if homedPlace p then
      let s := match r.back with
        | some cl => s.writeBackAll cl
        | none => s
      (((s.homePut w p r.bytes).dropRow r.id).setRetry r.key r.block).qCommit r.key r.block r.index
    else s.breakQueue r none
  | .error e =>
    match e with
    | .park _ _ =>
      let s := if r.faulted then s
        else match e.agentFault r.va 1 with | some f => s.errXlate r.ctx f.noTeam | none => s
      let s := s.withEng fun x => { x with rows := x.rows.map fun y =>
        if y.id == r.id then { y with faulted := true, nextTry := s.now + sixteenUs } else y }
      s.setRetry r.key r.block
    | _ => s.breakQueue r (e.agentFault r.va 1)

/-- Records reserved and written to their slots at once: they are committed unless a slot faults (R301, R318, R409). -/
def State.appendNow (s : State) (agent ctx : Nat) (key : Option Nat) (b : Loc) (q : Qcb) (bytes : List Byte) : State :=
  let s := (s.qReserve key b q 1 none).addRows agent ctx key b q none q.resv [bytes]
  match s.eng.rows.getLast? with
  | some r => s.writeRow r
  | none => s

/-- RECORD_WRITE: a reserved record is written to its slot (R318). -/
def execRecordWrite (r : Nat) (s : State) : Host.Outcome State Fault Refusal :=
  match s.eng.rows.find? (·.id == r) with
  | none => stutter s
  | some x => if x.faulted then stutter s else .next (s.writeRow x)

/-- ROW_RETRY: a faulted row is tried again once its time has come (R318). -/
def execRowRetry (r : Nat) (s : State) : Host.Outcome State Fault Refusal :=
  match s.eng.rows.find? (·.id == r) with
  | none => stutter s
  | some x => if x.faulted && x.nextTry ≤ s.now then .next (s.writeRow x) else stutter s

/-! ## Agents that are no teams (R453) -/

/-- A block as an agent reaches it: its place and key slot. -/
def State.agentBlock (s : State) (w : Who) (va : Nat) : Except LErr Place :=
  match s.resolve w .rmw 64 64 va with
  | .error e => .error e
  | .ok p => if homedPlace p then .ok p else .error (.err Code.access none)

/-- The fault of an agent's access: kind 0 for a place it may not reach that translation does not fault. -/
def LErr.asFault (e : LErr) (va access : Nat) : TFault :=
  (e.agentFault va access).getD { va := va, kind := 0, access := access, level := 0, lanes := 1 }

/-- A failure of an agent at a block. -/
def Unreached.names (u : Unreached) (w : Who) (va : Nat) : Bool := u.agent == w.agent && u.ctx == w.ctx && u.va == va

/-- The agent has met a failure of the block and its next try has not come. -/
def State.isUnreached (s : State) (w : Who) (va : Nat) : Bool := s.eng.unreached.any fun u => u.names w va

/-- The agent's failure at a block noted: the XLATE item at first, and the next try in 16 microseconds. -/
def State.noteUnreached (s : State) (w : Who) (va : Nat) (f : Option TFault) : State :=
  let told := (s.eng.unreached.find? fun u => u.names w va).any (·.told)
  let s := match f with
    | some f => if told then s else s.errXlate w.ctx f.noTeam
    | none => s
  s.withEng fun e => { e with unreached := e.unreached.filter (fun u => !u.names w va) ++
    [{ agent := w.agent, ctx := w.ctx, va := va, told := told || f.isSome, nextTry := s.now + sixteenUs }] }

/-- The agent has served the block again. -/
def State.noteServed (s : State) (w : Who) (va : Nat) : State :=
  s.withEng fun e => { e with unreached := e.unreached.filter fun u => !u.names w va }

/-- What an agent finds at a block's address. -/
inductive Served where
  /-- The block, with its place and key slot. -/
  | ok (b : Loc) (key : Option Nat) (q : Qcb) (p : Place)
  | malformed
  | unreachable (f : TFault)
  deriving DecidableEq, Repr

/-- The block at an address as an agent meets it. -/
def State.meetBlock (s : State) (w : Who) (va : Nat) : Served :=
  match s.agentBlock w va with
  | .error e => .unreachable (e.asFault va 0)
  | .ok p =>
    match p.loc with
    | none => .malformed
    | some b =>
      match s.qcb p.slot b with
      | none => .malformed
      | some q => .ok b p.slot q p

/-- An agent that serves a block: what it finds, and the state in which a failure is noted and a success used. -/
def State.serve (s : State) (w : Who) (va : Nat) : Option (Loc × Option Nat × Qcb) × State :=
  match s.meetBlock w va with
  | .ok b key q p => (some (b, key, q), ((s.usePlace w .rmw p).touchHome p).noteServed w va)
  | .malformed => (none, s.noteUnreached w va none)
  | .unreachable f => (none, s.noteUnreached w va (some f))

/-- Bytes an agent reads at homes, within one page; the flag says that an invalid window word read as zero. -/
def State.agentRead (s : State) (w : Who) (va n : Nat) : Except LErr (List Byte × State) :=
  match s.resolve w .rd n 1 va with
  | .error e => .error e
  | .ok p =>
    match p with
    | .dev x pa => .ok (s.homeRead (some x.leaf.key) pa n, (s.usePlace w .rd p).touchPage 0 x pa)
    | .win l => .ok (s.locRead none l n, s)
    | .own _ _ => .error (.err Code.access none)

/-- Bytes an agent writes at homes, within one page. -/
def State.agentWrite (s : State) (w : Who) (va : Nat) (bs : List Byte) : Except LErr State :=
  match s.resolve w .wr bs.length 1 va with
  | .error e => .error e
  | .ok p => .ok (s.homePut w p bs)

/-! ## Results (R326) -/

/-! Status values of R326. -/
namespace QStatus
def ok : Nat := 0
def full : Nat := 1
def empty : Nat := 2
def badq : Nat := 3
def kind : Nat := 4
def badidx : Nat := 5
def badbell : Nat := 6
end QStatus

/-- A result word. -/
def qResult (status idx : Nat) (warn : Bool) : Nat := idx % 2 ^ 56 + (if warn then 2 ^ 56 else 0) + status * 2 ^ 60

/-- The result in a scalar register, tagged I64. -/
def Team.setResult (t : Team) (r v : Nat) : Team := t.setS r (BitVec.ofNat 64 v) Tag.i64

/-- A count operand within 1 to a bound, or ARITH. -/
def Team.countArg (t : Team) (r : BitVec 8) (bound : Nat) : Except Trap Nat := do
  let n ← t.int r.toNat
  require (1 ≤ n && n ≤ bound) Code.arith
  return n.toNat

/-- The block a team names (R326): its place, after what R101 asks of the issuing cluster's cache. -/
def State.teamBlock (s : State) (t : Team) (a : Access) (va : Nat) : Except Trap (Loc × Option Nat × State) := do
  match ← s.resolveLanes t a 64 64 [(none, va)] with
  | [p] =>
    match p.loc with
    | some b => if homedPlace p then return (b, p.slot, ((s.usePlaces t a [p]).meetHome t.cluster p).touchHome p) else raise Code.access
    | none => raise Code.access
  | _ => raise Code.access

/-- The Bobbin engine number of a team's cluster (R319). -/
def Team.bobbin (t : Team) : Nat := t.die * 128 + t.cluster % 72

/-- What the flags of an engine-class instruction do before it acts: an acquire or a release at die scope or wider writes
back the issuing cluster's dirty bytes (R99, R91; log entry 23). -/
def State.ecBefore (s : State) (t : Team) (o : Ec) : State :=
  if (o.acq || o.rel) && wideScope o.scope then s.writeBackAll t.cluster else s

/-- The cluster that the release of an engine-class instruction writes back at its completion (R91, R99). -/
def Team.ecBack (t : Team) (o : Ec) : Option Nat := if o.rel && wideScope o.scope then some t.cluster else none

/-! ## QAPP and XCHAIN (R327, R332) -/

/-- The source of appended records: window memory but the lane-private window, aligned to 16 bytes. -/
def State.appendSource (s : State) (t : Team) (va n : Nat) : Except Trap Place := do
  require (inWindow va || 2 ^ 57 ≤ va) Code.access
  match ← s.resolveLanes t .rd n 16 [(none, va)] with
  | [.win l] => return .win l
  | _ => raise Code.access

/-- Byte i of a window source at an address: chip scratchpad goes on in the context's next entry (R72). -/
def State.sourceByte (s : State) (ctx va : Nat) (l : Loc) (i : Nat) : Byte :=
  match l with
  | .seg _ => (((s.ctx ctx).chip (va - winBase + i)).map (s.locByte none)).getD 0
  | _ => s.locByte none (l.add i)

/-- The m records of a size of a window source. -/
def State.sourceRecords (s : State) (ctx va : Nat) (p : Place) (m size : Nat) : List (List Byte) :=
  match p with
  | .win l => (List.range m).map fun j => (List.range size).map fun i => s.sourceByte ctx va l (j * size + i)
  | _ => []

/-- Append m records to a queue of an accepted kind: the status, the first index and the UNWRITTEN warning. The source holds
records of the block's size, or of the one size that the instruction appends (R332). -/
def appendOp (kinds : List Nat) (bound : Nat) (size : Option Nat) (o : Ec) (s : State) (t : Team) : Except Trap Done := do
  let va := (← t.addr o.a.toNat).toNat
  let src := (← t.addr o.b.toNat).toNat
  let m ← t.countArg o.c bound
  let (b, key, s) ← s.teamBlock t .rmw va
  let d := o.d.toNat
  match s.qcb key b with
  | none =>
    let _ ← s.appendSource t src ((size.map (m * ·)).getD 16)
    return .next ((s.ecBefore t o).modTeam t.id fun u => u.setResult d (qResult QStatus.badq 0 false))
  | some q =>
    let p ← s.appendSource t src (m * size.getD (2 ^ q.rsize))
    let s := s.ecBefore t o
    if !kinds.contains q.kind then
      return .next (s.modTeam t.id fun u => u.setResult d (qResult QStatus.kind 0 false))
    else if q.head + 2 ^ q.rcap < q.resv + m then
      return .next (s.modTeam t.id fun u => u.setResult d (qResult QStatus.full 0 false))
    else
      let warn := !(s.invalidWords src (m * 2 ^ q.rsize) p).isEmpty
      let rows := s.sourceRecords (s.ctxOf t) src p m (2 ^ q.rsize)
      let s := (s.qReserve key b q m (some t.id)).addRows (engineAgent t.bobbin) (s.ctxOf t) key b q (t.ecBack o) q.resv rows
      return .next (s.modTeam t.id fun u => u.setResult d (qResult QStatus.ok q.resv warn))

/-- QAPP (R327). -/
def execQapp (h : Hd) (o : Ec) (s : State) : Host.Outcome State Fault Refusal :=
  issueLong s h.fb (fun _ => true) (appendOp [kindRecord, kindToken] 256 none o)
/-- XCHAIN (R332). -/
def execXchain (h : Hd) (o : Ec) (s : State) : Host.Outcome State Fault Refusal :=
  issueLong s h.fb (fun _ => true) (appendOp [kindChain] 64 (some 64) o)

/-! ## QCLAIM (R328), QDONE (R329) -/

/-- The claimed number and first index go to sD and sD+1. -/
def Team.setClaim (t : Team) (d status first n : Nat) : Team :=
  (t.setResult d (qResult status first false)).setS (d + 1) (BitVec.ofNat 64 n) Tag.n32

/-- QCLAIM. -/
def qclaimOp (o : Ec) (s : State) (t : Team) : Except Trap Done := do
  let va := (← t.addr o.a.toNat).toNat
  let m ← t.countArg o.b 256
  let (b, key, s) ← s.teamBlock t .rmw va
  let s := s.ecBefore t o
  let fin (s : State) (status first n : Nat) : Except Trap Done :=
    .ok (.next ((if o.acq then s.acquire t o.scope.toNat else s).modTeam t.id fun u =>
      u.setClaim o.d.toNat status first n))
  match s.qcb key b with
  | none => fin s QStatus.badq 0 0
  | some q =>
    if !(q.kind == kindToken || (q.kind == kindRecord && (s.qaux b).bound.isNone)) then fin s QStatus.kind 0 0
    else
      let n := min m (q.tail - q.claim)
      if n == 0 then fin s QStatus.empty q.claim 0
      else fin (s.qPut key b qClaim (q.claim + n)) QStatus.ok q.claim n

/-- QCLAIM (R328). -/
def execQclaim (h : Hd) (o : Ec) (s : State) : Host.Outcome State Fault Refusal :=
  issueLong s h.fb (fun _ => true) (qclaimOp o)

/-- QDONE. -/
def qdoneOp (o : Ec) (s : State) (t : Team) : Except Trap Done := do
  let va := (← t.addr o.a.toNat).toNat
  let first ← t.int o.b.toNat
  let m ← t.countArg o.c 256
  let (b, key, s) ← s.teamBlock t .rmw va
  let s := s.ecBefore t o
  let fin (s : State) (status : Nat) : Except Trap Done :=
    .ok (.next (s.modTeam t.id fun u => u.setResult o.d.toNat (qResult status 0 false)))
  match s.qcb key b with
  | none => fin s QStatus.badq
  | some q =>
    let i := first.toNat
    let undone := !((s.qaux b).done.any fun j => i ≤ j && j < i + m)
    if 0 ≤ first && q.head ≤ i && i + m ≤ q.claim && undone then fin (s.qMarkDone key b i m) QStatus.ok
    else fin s QStatus.badidx

/-- QDONE (R329). -/
def execQdone (h : Hd) (o : Ec) (s : State) : Host.Outcome State Fault Refusal :=
  issueLong s h.fb (fun _ => true) (qdoneOp o)

/-! ## QFLUSH, QSTAT (R330) -/

/-- QFLUSH. -/
def qflushOp (o : Ec) (s : State) (t : Team) : Except Trap Done := do
  let va := (← t.addr o.a.toNat).toNat
  let (b, key, s) ← s.teamBlock t .rmw va
  let fin (s : State) (status : Nat) : Except Trap Done :=
    .ok (.next (s.modTeam t.id fun u => u.setResult o.d.toNat (qResult status 0 false)))
  match s.qcb key b with
  | none => fin s QStatus.badq
  | some q =>
    if q.kind == kindRecord && (s.qaux b).bound.isSome then fin (s.qFlags key b q.retry true false) QStatus.ok
    else fin s QStatus.kind

/-- QFLUSH (R330). -/
def execQflush (h : Hd) (o : Ec) (s : State) : Host.Outcome State Fault Refusal :=
  issueLong s h.fb (fun _ => true) (qflushOp o)

/-- The word of QSTAT. -/
def Qcb.stat (q : Qcb) : Nat :=
  min (q.tail - q.claim) (2 ^ 32 - 1) + min (q.resv - q.tail) 65535 * 2 ^ 32 + q.retry * 2 ^ 48 + q.kind * 2 ^ 56

/-- QSTAT: a block that cannot be reached gives BADQ, as a malformed one does (R330; log entry 52). -/
def qstatOp (o : Ec) (s : State) (t : Team) : Except Trap Done := do
  let va := (← t.addr o.a.toNat).toNat
  match s.teamBlock t .rd va with
  | .error _ => return .next (s.modTeam t.id fun u => u.setResult o.d.toNat (QStatus.badq * 2 ^ 60))
  | .ok (b, key, s) =>
    let v := match s.qcb key b with
      | none => QStatus.badq * 2 ^ 60
      | some q => q.stat
    return .next (s.modTeam t.id fun u => u.setResult o.d.toNat v)

/-- QSTAT (R330). -/
def execQstat (h : Hd) (o : Ec) (s : State) : Host.Outcome State Fault Refusal :=
  issueLong s h.fb (fun _ => true) (qstatOp o)

end Sys2Proof.Machine
end

