-- ==== Sys2Proof/Machine/Engine.lean ====
section
/-! DEFINITION. The Bobbin and bulk engines: items, pieces, completions, chain entries and direct items
(spec/15_queue.md R319 to R324, R331, R333). -/

namespace Sys2Proof.Machine

/-! ## Item status (R321) -/

/-! Results of R321. -/
namespace EStat
def fault : Nat := 1
def access : Nat := 2
def align : Nat := 3
def key : Nat := 4
def pinned : Nat := 5
def baddesc : Nat := 6
def timeout : Nat := 8
end EStat

/-- The status of an item whose access fails. -/
def LErr.status : LErr → Nat
  | .park k _ => EStat.fault + k * 2 ^ 4
  | .err c none => if c == Code.align then EStat.align else EStat.access
  | .err c (some (k, _)) => (if c == Code.key then EStat.key else EStat.access) + k * 2 ^ 4
  | .unreachable => EStat.timeout

/-! ## What an engine reaches (R324) -/

/-- The local number of an engine on its die. -/
def localEngine (e : Nat) : Nat := e % 128
/-- A Bobbin engine. -/
def isBobbin (e : Nat) : Bool := localEngine e < 72
/-- A bulk engine. -/
def isBulk (e : Nat) : Bool := 72 ≤ localEngine e && localEngine e < 76

/-- Bobbin: windows, this package's device memory, other packages; bulk: device memory and system pages. -/
def engReach (e : Nat) (p : Place) : Bool :=
  match p with
  | .own _ _ => false
  | .win _ => !isBulk e
  | .dev _ pa =>
    match regionOf pa with
    | .local => true
    | .pod _ => !isBulk e
    | .system => isBulk e
    | .reserved => false

/-- The accessor an item's addresses are resolved for: the windows of its team while that is resident (R69). -/
def State.itemWho (s : State) (engine ctx : Nat) (team : Option Nat) : Who :=
  { agent := engineAgent engine, ctx := ctx, team := (team.bind s.team).filter fun t => ((s.gangOf t).map Gang.held).getD false, lane := none
    die := engine / 128 }

/-- The part of n bytes from an address that lies in one 512-byte block. -/
def inBlock (va n : Nat) : Nat := min n (512 - va % 512)

/-- Bytes an engine reads: an invalid window word reads zero and raises the warning (R83). -/
def State.engRead (s : State) (e : Nat) (w : Who) : Nat → Nat → Nat → Except LErr (List Byte × Bool × State)
  | 0, _, _ => .ok ([], false, s)
  | fuel + 1, va, n =>
    if n == 0 then .ok ([], false, s)
    else
      let k := inBlock va n
      match s.resolve w .rd k 1 (va % 2 ^ 64) with
      | .error x => .error x
      | .ok p =>
        if !engReach e p then .error (.err Code.access none)
        else
          let s := s.byDie w.die fun s => s.usePlace w .rd p
          let (bs, s) := match p with
            | .dev x pa => (s.homeRead (some x.leaf.key) pa k, s.byDie w.die fun s => s.askHome 0 x pa k)
            | .win l => (s.locRead none l k, s)
            | .own _ _ => ([], s)
          match s.engRead e w fuel (va + k) (n - k) with
          | .error x => .error x
          | .ok (r, u, s') => .ok (bs ++ r, u || !(s.invalidWords va k p).isEmpty, s')

/-- Bytes an engine reads from an address. -/
def State.engLoad (s : State) (e : Nat) (w : Who) (va n : Nat) : Except LErr (List Byte × Bool × State) :=
  s.engRead e w (n / 512 + 2) va n

/-- Bytes an engine writes within one 512-byte block, aligned as asked. What a multicast writes in another package leaves on
the multicast channel, one copy for each destination (R324, R399, R401). -/
def State.engStore (s : State) (e : Nat) (w : Who) (mcast : Bool) (al va : Nat) (bs : List Byte) : Except LErr (Place × State) :=
  match s.resolve w .wr bs.length al (va % 2 ^ 64) with
  | .error x => .error x
  | .ok p =>
    if !engReach e p then .error (.err Code.access none)
    else
      match p with
      | .dev _ pa =>
        match mcast, regionOf pa with
        | true, .pod k => .ok (p, s.byDie w.die fun s => (s.usePlace w .wr p).sendOut k .multicast (.store pa bs))
        | _, _ => .ok (p, s.homePut w p bs)
      | _ => .ok (p, s.homePut w p bs)

/-! ## Items (R320, R324) -/

/-! The operations of R320. -/
namespace EOp
def copy : Nat := 0
def gather : Nat := 1
def mcast : Nat := 2
def migrate : Nat := 3
def fill : Nat := 4
def noop : Nat := 5
end EOp

/-- 4 MiB. -/
def fourMiB : Nat := 2 ^ 22

/-- The operation is one its engine accepts, with its limits (R324). -/
def EngItem.good (i : EngItem) : Bool :=
  let sized := 1 ≤ i.size && i.size ≤ fourMiB
  if i.op == EOp.copy then sized
  else if i.op == EOp.gather then
    isBobbin i.engine && 4 ≤ i.rowBytes && i.rowBytes ≤ 4096 && i.rowBytes % 4 == 0 && 1 ≤ i.rows && i.rows ≤ 4096
  else if i.op == EOp.mcast then isBobbin i.engine && sized && 1 ≤ i.aux && i.aux ≤ 16
  else if i.op == EOp.migrate then isBulk i.engine
  else i.op == EOp.fill || i.op == EOp.noop

/-- The bytes of an item, every destination counted. -/
def EngItem.total (i : EngItem) : Nat :=
  if i.op == EOp.gather then i.rows * i.rowBytes
  else if i.op == EOp.mcast then i.size * min i.aux 16
  else if i.op == EOp.noop then 0 else i.size

/-- The pieces of n bytes from a destination: address, offset in the source and length (R323). -/
def piecesFrom : Nat → Nat → Nat → Nat → List (Nat × Nat × Nat)
  | 0, _, _, _ => []
  | fuel + 1, va, off, n =>
    if n == 0 then [] else (va, off, inBlock va n) :: piecesFrom fuel (va + inBlock va n) (off + inBlock va n) (n - inBlock va n)

/-- The pieces of an item but a migration. -/
def EngItem.pieces (i : EngItem) : List (Nat × Nat × Nat) :=
  let one (d n : Nat) := piecesFrom (n / 512 + 2) d 0 n
  if i.op == EOp.mcast then i.dests.flatMap fun d => one d i.size
  else if i.op == EOp.noop then []
  else one i.dst i.total

/-- Bytes of a gather from an offset: rows of the source in the order of the index list. -/
def State.gatherBytes (s : State) (i : EngItem) (w : Who) : Nat → Nat → Nat → Except LErr (List Byte × Bool × State)
  | 0, _, _ => .ok ([], false, s)
  | fuel + 1, off, n =>
    if n == 0 then .ok ([], false, s)
    else
      let r := off / i.rowBytes
      let o := off % i.rowBytes
      let k := min n (i.rowBytes - o)
      match s.engLoad i.engine w (i.source + i.dests.getD r 0 * i.rowBytes + o) k with
      | .error x => .error x
      | .ok (bs, u, s) =>
        match s.gatherBytes i w fuel (off + k) (n - k) with
        | .error x => .error x
        | .ok (r, u', s) => .ok (bs ++ r, u || u', s)

/-- The source bytes of a piece. -/
def State.pieceBytes (s : State) (i : EngItem) (w : Who) (off n : Nat) : Except LErr (List Byte × Bool × State) :=
  if i.op == EOp.fill then
    .ok ((List.range n).map fun j => BitVec.ofNat 8 (i.aux / 256 ^ ((off + j) % 8)), false, s)
  else if i.op == EOp.gather then s.gatherBytes i w (n / i.rowBytes + 2) off n
  else s.engLoad i.engine w (i.source + off) n

/-! ## Migration (R324) -/

/-- The pages of a source range that its engine reaches, with their translations; the range covers each of them whole, or
ALIGN. -/
def State.migratePages (s : State) (e : Nat) (w : Who) : Nat → Nat → Nat → Except Nat (List (Nat × Xlat))
  | 0, _, _ => .ok []
  | fuel + 1, va, n =>
    if n == 0 then .ok []
    else if 2 ^ 57 ≤ va || inWindow va then .error EStat.access
    else
      match s.xlate w .rd va with
      | .error (k, l) => .error (LErr.ofKind k l).status
      | .ok x =>
        let sz := pageSize x.leaf.size
        if !engReach e (.dev x (s.xlatPa x va)) then .error EStat.access
        else if va != x.vbase || n < sz then .error EStat.align
        else
          match s.migratePages e w fuel (va + sz) (n - sz) with
          | .error e => .error e
          | .ok r => .ok ((va, x) :: r)

/-- The pages of a migration. -/
def State.itemPages (s : State) (i : EngItem) (w : Who) : Except Nat (List (Nat × Xlat)) :=
  s.migratePages i.engine w (i.size / 4096 + 1) i.source i.size

/-- A range of a context is invalidated: every cached translation and every upper-level entry that it meets is dropped
(R201). -/
def State.dropRange (s : State) (ctx va n : Nat) : State :=
  s.withMem fun m =>
    { m with
      tlb := m.tlb.filter fun e => !(e.ctx == ctx && e.vbase < va + n && va < e.vbase + pageSize e.leaf.size)
      walks := m.walks.filter fun e =>
        !(e.ctx == ctx && e.vpre * 2 ^ levelShift e.level < va + n && va < (e.vpre + 1) * 2 ^ levelShift e.level) }

/-- The entries that hold a page of a size (R195). -/
def replicas (size : Nat) : Nat := ([1, 4, 16, 1, 16, 1, 16][size]?).getD 1

/-- The physical addresses of all entries of the page of a translation. -/
def Xlat.entries (x : Xlat) : List Nat :=
  let r := replicas x.leaf.size
  (List.range r).map fun i => x.entry - x.entry / 16 % r * 16 + 16 * i

/-- PTE.PA of an entry rewritten. -/
def State.setPtePa (s : State) (key entry target : Nat) : State :=
  let w0 := (s.pte key entry).1
  s.homeWrite (some key) entry (leBytes 8 (w0 - ptePa w0 + target))

/-- The slices meet every line of n bytes with a page's hint (R79). -/
def State.touchRange (s : State) (x : Xlat) (pa n : Nat) : State :=
  (List.range (n / 512)).foldl (fun s i => s.touchPage 0 x (pa + 512 * i)) s

/-- One page moved: its contents, PTE.PA of all its entries, and the invalidation of its range. -/
def State.movePage (s : State) (ctx : Nat) (va : Nat) (x : Xlat) (target : Nat) : State :=
  let key := (s.ctx ctx).key
  let n := pageSize x.leaf.size
  let src := s.canonPa x.leaf.base
  let dst := s.canonPa target
  let s := ((s.touchRange x src n).homeWrite (some x.leaf.key) dst (s.homeRead (some x.leaf.key) src n)).touchRange x dst n
  (x.entries.foldl (fun s e => s.setPtePa key e target) s).dropRange ctx va n

/-- A physical page that a bulk engine may move a page to. -/
def State.migrateTarget (s : State) (x : Xlat) (target : Nat) : Bool :=
  let pa := s.canonPa target
  pa % pageSize x.leaf.size == 0 &&
    match regionOf pa with
    | .local => populated pa && populated (pa + pageSize x.leaf.size - 1)
    | .system => true
    | _ => false

/-! ## The course of an item (R322, R323) -/

/-- An item replaced. -/
def State.putItem (s : State) (i : EngItem) : State :=
  s.withEng fun e => { e with items := e.items.map fun x => if x.id == i.id then i else x }

/-- An item with this number. -/
def State.item (s : State) (id : Nat) : Option EngItem := s.eng.items.find? (·.id == id)

/-- The barrier object an item names: a status when it names none that exists (R233). -/
def State.itemBarrier (s : State) (w : Who) (va : Nat) : Except Nat (Option Loc) :=
  if va == 0 then .ok none
  else if !inWindow va then .error EStat.access
  else
    match s.resolve w .rmw 32 32 va with
    | .error x => .error x.status
    | .ok (.win l) => .ok (some l)
    | .ok _ => .error EStat.access

/-- The list an item reads once before its first piece: destinations, indices or target pages. -/
def State.itemList (s : State) (i : EngItem) (w : Who) : Except Nat (List Nat × Bool × State) :=
  let read (va al n size : Nat) : Except Nat (List Nat × Bool × State) :=
    if va % al != 0 then .error EStat.align
    else
      match s.engLoad i.engine w va (n * size) with
      | .error x => .error x.status
      | .ok (bs, u, s) => .ok ((List.range n).map fun j => leNat ((bs.drop (j * size)).take size), u, s)
  if i.op == EOp.gather then read i.aux 1 i.rows 4
  else if i.op == EOp.mcast then read i.dst 8 i.aux 8
  else if i.op == EOp.migrate then
    match s.itemPages i w with
    | .error e => .error e
    | .ok ps =>
      if ps.any fun p => p.2.leaf.pin then .error EStat.pinned
      else
        match read i.aux 8 ps.length 8 with
        | .error e => .error e
        | .ok (ts, u, s) =>
          if (ps.zip ts).all fun p => s.migrateTarget p.1.2 p.2 then .ok (ts, u, s) else .error EStat.access
  else .ok ([], false, s)

/-- An item starts: its operation and limits, its acquire, its barrier object and its list (R322 steps 2 and 3). -/
def State.beginItem (s : State) (i : EngItem) : State :=
  let w := s.itemWho i.engine i.ctx i.team
  let i := { i with begun := true, since := s.now }
  match s.itemBarrier w i.bar with
  | .error e => s.putItem { i with status := some e }
  | .ok b =>
    let i := { i with barLoc := b }
    if !i.good then s.putItem { i with status := some EStat.baddesc }
    else if i.op == EOp.fill && i.dst % 8 != 0 then s.putItem { i with status := some EStat.align }
    else
      let s := match i.team.bind s.team with
        | some t => if i.acq && 4 ≤ i.scope then s.writeBackAll t.cluster else s
        | none => s
      match s.itemList i w with
      | .error e => s.putItem { i with status := some e }
      | .ok (l, u, s) => s.putItem { i with dests := l, unwr := u }

/-- The core of an item's team, for the error record. -/
def State.itemCore (s : State) (team : Option Nat) : Nat := ((team.bind s.team).map (·.core)).getD noCore

/-- Bytes of an item land and arrive on its barrier (R323). -/
def State.itemArrive (s : State) (i : EngItem) (n : Nat) (err : Option (Nat × Nat)) : State :=
  match i.barLoc with
  | none => s
  | some b => s.barArrive i.ctx noCore b i.bar n i.engine err

/-- The number of pieces of an item; a page is a piece of a migration. -/
def EngItem.count (i : EngItem) : Nat := if i.op == EOp.migrate then i.dests.length else i.pieces.length

/-- An item that precedes another in its completion order (R322, R331). -/
def EngItem.precedes (a b : EngItem) : Bool :=
  match a.src, b.src with
  | .direct m, .direct n => a.engine == b.engine && a.ctx == b.ctx && m < n
  | .chain x _ _ m, .chain y _ _ n => x == y && m < n
  | _, _ => false

/-- No item stands before an item. -/
def State.itemFirst (s : State) (i : EngItem) : Bool := !s.eng.items.any fun x => x.precedes i

/-- The arrivals that an item owes are applied once it stands first (R322). -/
def State.payItem (s : State) (i : EngItem) : State :=
  if i.owed == 0 || !s.itemFirst i then s else (s.putItem { i with owed := 0 }).itemArrive i i.owed none

/-- The arrivals that items owe, after one of them has left. -/
def State.payItems (s : State) : State :=
  (s.eng.items.map (·.id)).foldl (fun s id => match s.item id with | some i => s.payItem i | none => s) s

/-- The next piece of an item lands, or fails it; while no link reaches a package that it needs, it is held (R400). -/
def State.landPiece (s : State) (i : EngItem) : State :=
  let w := s.itemWho i.engine i.ctx i.team
  let fail (e : Nat) : State := s.putItem { i with status := some e }
  let failBy (e : LErr) (u : Bool) : State :=
    if e == .unreachable then s else s.putItem { i with status := some e.status, unwr := i.unwr || u }
  let step (s : State) (n : Nat) (u : Bool) : State :=
    let j := { i with landed := i.landed + 1, bytes := i.bytes + n, owed := i.owed + n, unwr := i.unwr || u, since := s.now }
    (s.putItem j).payItem j
  if i.op == EOp.migrate then
    match s.itemPages i w with
    | .error e => fail e
    | .ok ps =>
      match ps[i.landed]?, i.dests[i.landed]? with
      | some (va, x), some target => step (s.movePage i.ctx va x target) (pageSize x.leaf.size) false
      | _, _ => s
  else
    match i.pieces[i.landed]? with
    | none => s
    | some (va, off, n) =>
      match s.pieceBytes i w off n with
      | .error e => failBy e false
      | .ok (bs, u, s') =>
        match s'.engStore i.engine w (i.op == EOp.mcast) 1 va bs with
        | .error e => failBy e u
        | .ok (_, s') => step s' n u

/-- The completion-word write of R228: 4 bytes, and a wake event on the word. -/
def State.completionWrite (s : State) (e : Nat) (w : Who) (va v : Nat) : Except LErr State :=
  if va == 0 then .ok s
  else
    match s.engStore e w false 4 va (leBytes 4 v) with
    | .error x => .error x
    | .ok (p, s) =>
      match p.loc with
      | some l => .ok (if homedPlace p then s.wakeEvent l else s)
      | none => .ok s

/-- The number an error item names an item by, and its chain entry's address (R454). -/
def ItemSrc.names : ItemSrc → Nat × Nat
  | .direct seq => (0, seq)
  | .chain _ _ entry index => (entry, index)

/-- An ENGINE item of the error record (R454). -/
def State.errEngine (s : State) (ctx core status engine : Nat) (src : ItemSrc) : State :=
  s.errItem ctx 2 status core (leBytes 8 src.names.1 ++ leBytes 8 engine ++ leBytes 8 src.names.2)

/-- A chain entry is finished: its status is written, DONE and HEAD advance (R316, R322). -/
def State.chainDone (s : State) (w : Who) (src : ItemSrc) (status : Nat) : State :=
  match src with
  | .direct _ => s
  | .chain b key entry index =>
    let s := match s.agentWrite w ((entry + 2) % 2 ^ 64) (leBytes 2 status) with
      | .ok s => s
      | .error _ => s
    match s.qcb key b with
    | none => s
    | some q => ((s.qPut key b qDone (q.done + 1)).wakeEvent (b.add qDone)).qMarkDone key b index 1

/-- An item ends with a status: the arrival of the bytes that have not landed and of those it owes, its error item, its chain
entry, and the arrivals of the items behind it (R322, R323). -/
def State.endItem (s : State) (i : EngItem) (status : Nat) : State :=
  let w := s.itemWho i.engine i.ctx i.team
  let st := status + if i.unwr then 2 ^ 8 else 0
  let s := if status % 16 == 0 then s
    else
      (s.itemArrive i (i.total - i.bytes + i.owed) (some (BarCode.engfault, st))).errEngine i.ctx (s.itemCore i.team) st
        i.engine i.src
  ((s.chainDone w i.src st).withEng fun e => { e with items := e.items.filter (·.id != i.id) }).payItems

/-- The item has moved its payload or failed, and every item before it is gone. -/
def State.itemReady (s : State) (i : EngItem) : Bool :=
  i.begun && (i.status.isSome || i.landed == i.count) && s.itemFirst i

/-- The cluster whose L1 an engine's release writes back: that of a Bobbin engine, else that of the team that issued the item
(R90, R91, R99; log entry 23). -/
def State.backCluster (s : State) (engine : Nat) (team : Option Nat) : Option Nat :=
  if isBobbin engine then some (engine / 128 * 72 + localEngine engine) else (team.bind s.team).map (·.cluster)

/-- The release of an engine's completion: at die scope or wider the cluster's dirty bytes are written back first (R91). -/
def State.engRelease (s : State) (engine : Nat) (team : Option Nat) (rel : Bool) (scope : Nat) : State :=
  match rel && 4 ≤ scope, s.backCluster engine team with
  | true, some cl => s.writeBackAll cl
  | _, _ => s

/-- A completion word that cannot be written: the no-team record of the fault, with access 1 (R204, R323). -/
def State.cwordFault (s : State) (ctx va : Nat) (e : LErr) : State :=
  match e.agentFault va 1 with
  | some f => s.errXlate ctx f.noTeam
  | none => s

/-- DIRECT_ITEM: the Bobbin starts an accepted item (R331). -/
def execDirectItem (x : Nat) (s : State) : Host.Outcome State Fault Refusal :=
  match s.item x with
  | none => stutter s
  | some i => if i.begun then stutter s else .next (s.beginItem i)

/-- PIECE_LAND (R323). -/
def execPieceLand (x : Nat) (s : State) : Host.Outcome State Fault Refusal :=
  match s.item x with
  | none => stutter s
  | some i => if i.begun && i.status.isNone && i.landed < i.count then .next (s.landPiece i) else stutter s

/-- ENGINE_ITEM_COMPLETE (R323). -/
def execEngineItemComplete (x : Nat) (s : State) : Host.Outcome State Fault Refusal :=
  match s.item x with
  | none => stutter s
  | some i =>
    if !s.itemReady i then stutter s
    else
      let s := s.engRelease i.engine i.team i.rel i.scope
      match i.status with
      | some e => .next (s.endItem i e)
      | none =>
        match s.completionWrite i.engine (s.itemWho i.engine i.ctx i.team) i.cword i.cvalue with
        | .ok s' => .next (s'.endItem i 0)
        | .error e => .next ((s.cwordFault i.ctx i.cword e).endItem i e.status)

/-- The islands that an access from a die to a place may wait on (R415). -/
def Place.islands (die : Nat) : Place → List Nat
  | .dev x pa =>
    match regionOf pa with
    | .local => sliceIslands die (homeSlice x.leaf.place x.leaf.hdie pa)
    | _ => [die * 64 + 61, die * 64 + 63]
  | .win (.seg a) => sliceIslands die (a / 2 ^ 20 / 8)
  | _ => []

/-- The island of an engine (R414). -/
def engineIsland (e : Nat) : Nat :=
  e / 128 * 64 + (if isBobbin e then localEngine e / 2 else if isBulk e then 54 + (localEngine e - 72) else 61)

/-- The addresses that the next piece of an item reads and writes. -/
def State.pieceVas (s : State) (i : EngItem) (w : Who) : List Nat :=
  if i.op == EOp.migrate then
    match s.itemPages i w with
    | .ok ps => ((ps[i.landed]?).map (·.1)).toList
    | .error _ => []
  else
    match i.pieces[i.landed]? with
    | none => []
    | some (va, off, _) =>
      if i.op == EOp.fill then [va]
      else if i.op == EOp.gather then [va, i.source + i.dests.getD (off / i.rowBytes) 0 * i.rowBytes + off % i.rowBytes]
      else [va, i.source + off]

/-- The islands that an item may wait on (R415): its engine's, and those that its next piece passes. -/
def State.itemIslands (s : State) (i : EngItem) : List Nat :=
  let w := s.itemWho i.engine i.ctx i.team
  engineIsland i.engine :: (s.pieceVas i w).flatMap fun va =>
    match s.resolve w .rd 1 1 (va % 2 ^ 64) with
    | .ok p => p.islands w.die
    | .error _ => []

/-- ENGINE_TIMEOUT: an operand not delivered within 65,536 cycles (R323). -/
def execEngineTimeout (x : Nat) (s : State) : Host.Outcome State Fault Refusal :=
  match s.item x with
  | none => stutter s
  | some i =>
    if i.begun && i.status.isNone && i.landed < i.count && 65536 ≤ s.waited (s.itemIslands i) i.since then
      .next (s.putItem { i with status := some EStat.timeout })
    else stutter s

/-! ## Chain entries (R320, R322) -/

/-- The item of a chain entry's 64 bytes; a reserved bit that is set makes an operation no engine accepts. -/
def chainItem (id engine ctx : Nat) (team : Option Nat) (src : ItemSrc) (v now : Nat) : EngItem :=
  let clean := bitsOf v 15 9 == 0 && bitsOf v 383 352 == 0 && bitsOf v 511 448 == 0 &&
    (v.testBit 4 || v.testBit 5 || bitsOf v 8 6 == 0) && (bitsOf v 3 0 != EOp.gather || bitsOf v 47 45 == 0)
  { id := id, engine := engine, ctx := ctx, team := team, src := src, op := if clean then bitsOf v 3 0 else 15
    acq := v.testBit 4, rel := v.testBit 5, scope := bitsOf v 8 6, size := bitsOf v 63 32, rowBytes := bitsOf v 44 32
    rows := bitsOf v 63 48, dst := bitsOf v 127 64, source := bitsOf v 191 128, aux := bitsOf v 255 192
    cword := bitsOf v 319 256, cvalue := bitsOf v 351 320, bar := bitsOf v 447 384, barLoc := none, dests := []
    begun := false, landed := 0, bytes := 0, owed := 0, status := none, unwr := false, since := now }

/-! ## XCOPY, XGATHER, XMCAST (R331) -/

/-- What a direct instruction sends. -/
structure Direct where
  op       : Nat
  size     : Nat
  rowBytes : Nat
  rows     : Nat
  aux      : Nat
  deriving DecidableEq, Repr

/-- The next sequence number of a context at an engine. -/
def State.nextSeq (s : State) (engine ctx : Nat) : Nat := FMap.lookD s.eng.seqs (engine * 128 + ctx) 1

/-- The sC block of XCOPY and XMCAST: a size from 1 to 4 MiB, or ARITH. -/
def sizeArg (n : Int) : Except Trap Nat := do
  require (1 ≤ n && n ≤ fourMiB) Code.arith
  return n.toNat

/-- The sC block of a direct instruction: tags first, then limits. -/
def directArgs (op : Nat) (c : Nat) (t : Team) : Except Trap Direct := do
  let n ← t.int c
  if op == EOp.gather then
    let idx ← t.addr (c + 1)
    let v := n.toNat
    let rb := bitsOf v 12 0
    let rows := bitsOf v 44 32
    require (0 ≤ n && v == rb + rows * 2 ^ 32 && 4 ≤ rb && rb ≤ 4096 && rb % 4 == 0 && 1 ≤ rows && rows ≤ 4096) Code.arith
    return { op := op, size := 0, rowBytes := rb, rows := rows, aux := idx.toNat }
  else if op == EOp.mcast then
    let k ← t.int (c + 1)
    let size ← sizeArg n
    require (1 ≤ k && k ≤ 16) Code.arith
    return { op := op, size := size, rowBytes := 0, rows := 0, aux := k.toNat }
  else
    let size ← sizeArg n
    return { op := op, size := size, rowBytes := 0, rows := 0, aux := 0 }

/-- One direct item: tags and limits, then acceptance by the cluster's Bobbin. -/
def directOp (op : Nat) (o : Ec) (s : State) (t : Team) : Except Trap Done := do
  let c := o.c.toNat
  let dst ← t.addr o.a.toNat
  let src ← t.addr o.b.toNat
  let cword ← t.addr (c + 2)
  let cvalue ← t.scalar (c + 3) Tag.any
  let bar ← t.addr (c + 4)
  let x ← directArgs op c t
  let e := t.bobbin
  let busy := (s.eng.items.filter fun i => i.engine == e && (match i.src with | .direct _ => true | _ => false)).length
  if 16 ≤ busy then .error .stall
  else
    let ctx := s.ctxOf t
    let seq := s.nextSeq e ctx
    let n := s.newId
    let i : EngItem :=
      { id := n.1, engine := e, ctx := ctx, team := some t.id, src := .direct seq, op := op, acq := o.acq, rel := o.rel
        scope := o.scope.toNat, size := x.size, rowBytes := x.rowBytes, rows := x.rows, dst := dst.toNat
        source := src.toNat, aux := x.aux, cword := cword.toNat, cvalue := cvalue.toNat % 2 ^ 32, bar := bar.toNat
        barLoc := none, dests := [], begun := false, landed := 0, bytes := 0, owed := 0, status := none, unwr := false, since := s.now }
    let s := n.2.withEng fun g =>
      { g with items := g.items ++ [i], seqs := FMap.put g.seqs (e * 128 + ctx) (seq + 1) }
    return .next (s.modTeam t.id fun u => u.setResult o.d.toNat seq)

/-- XCOPY (R331). -/
def execXcopy (h : Hd) (o : Ec) (s : State) : Host.Outcome State Fault Refusal :=
  issueLong s h.fb (fun _ => true) (directOp EOp.copy o)
/-- XGATHER (R331). -/
def execXgather (h : Hd) (o : Ec) (s : State) : Host.Outcome State Fault Refusal :=
  issueLong s h.fb (fun _ => true) (directOp EOp.gather o)
/-- XMCAST (R331). -/
def execXmcast (h : Hd) (o : Ec) (s : State) : Host.Outcome State Fault Refusal :=
  issueLong s h.fb (fun _ => true) (directOp EOp.mcast o)

end Sys2Proof.Machine
end

