-- ==== Sys2Proof/Machine/Version.lean ====
section
/-! DEFINITION. Versions and the Selvedge detector: reader sections, the counter tree, grace checks, retire queues and their
instructions (spec/14_version.md R289 to R310). -/

namespace Sys2Proof.Machine

/-! ## Domains and slots (R289 to R291) -/

/-- A domain as it is when it is bound. -/
def Domain.fresh : Domain :=
  { epoch := 0, behind := [], counts := [], parked := [], lastCheck := none, firstDie := 0, waitSince := none, warned := [] }

/-- A domain. -/
def State.domain (s : State) (d : Nat) : Domain := FMap.lookD s.sched.domains d Domain.fresh

/-- A domain changed. -/
def State.modDomain (s : State) (d : Nat) (f : Domain → Domain) : State :=
  s.withSched fun x => { x with domains := FMap.put x.domains d (f (s.domain d)) }

/-- The domain slot an instruction names: ACCESS when it is not bound (R289). -/
def State.domSlot (s : State) (t : Team) (slot : Nat) : Except Trap DomSlot :=
  match FMap.look (s.ctx (s.ctxOf t)).doms slot with
  | some x => .ok x
  | none => raise Code.access

/-- a has reached b by wrap difference (R290). -/
def reached (a b : Nat) : Bool := 0 ≤ (BitVec.ofNat 32 a - BitVec.ofNat 32 b).toInt

/-- A core's copy of the epoch: the one before while it has not acknowledged the advance (R291). -/
def Domain.copy (d : Domain) (core : Nat) : Nat :=
  if d.behind.contains core then (d.epoch + 2 ^ 32 - 1) % 2 ^ 32 else d.epoch

/-- A core counter changed. -/
def Domain.count (d : Domain) (core parity : Nat) (f : Nat → Nat) : Domain :=
  { d with counts := FMap.putD d.counts (core * 2 + parity) (f (FMap.lookD d.counts (core * 2 + parity) 0)) 0 }

/-- A parked counter changed. -/
def Domain.park (d : Domain) (die parity : Nat) (f : Nat → Nat) : Domain :=
  { d with parked := FMap.putD d.parked (die * 2 + parity) (f (FMap.lookD d.parked (die * 2 + parity) 0)) 0 }

/-! ## Reader sections (R292, R293) -/

/-- The reader state of a slot. -/
def Team.reader (t : Team) (slot : Nat) : Reader := FMap.lookD t.readers slot { depth := 0, snap := 0 }

/-- The reader state of a slot replaced. -/
def Team.setReader (t : Team) (slot : Nat) (r : Reader) : Team := { t with readers := FMap.put t.readers slot r }

/-- Device scope (R84). -/
def devScope : Nat := 5

/-- RSEC.enter. -/
def rsecEnterOp (o : Sys) (s : State) (t : Team) : Except Trap Done := do
  let slot := o.imm.toNat
  let d ← s.domSlot t slot
  let r := t.reader slot
  require (r.depth != 15) Code.rsecdepth
  if r.depth == 0 then
    let snap := (s.domain d.dom).copy t.core
    let s := (s.modDomain d.dom fun x => x.count t.core (snap % 2) (· + 1)).acquire t devScope
    return teamDone s (t.setReader slot { depth := 1, snap := snap })
  else return teamDone s (t.setReader slot { r with depth := r.depth + 1 })

/-- RSEC.enter (R293). -/
def execRsecEnter (h : Hd) (o : Sys) (s : State) : Host.Outcome State Fault Refusal :=
  issueLong s h.fb (fun _ => true) (rsecEnterOp o)

/-- RSEC.leave. The team's word-ops have read their operands when their MMA issued (log entry 8). -/
def rsecLeaveOp (o : Sys) (s : State) (t : Team) : Except Trap Done := do
  let slot := o.imm.toNat
  let d ← s.domSlot t slot
  let r := t.reader slot
  require (r.depth != 0) Code.rsecdepth
  let s := if r.depth == 1 then (s.release t devScope).modDomain d.dom fun x => x.count t.core (r.snap % 2) (· - 1) else s
  return teamDone s (t.setReader slot { r with depth := r.depth - 1 })

/-- RSEC.leave (R293). -/
def execRsecLeave (h : Hd) (o : Sys) (s : State) : Host.Outcome State Fault Refusal :=
  issueLong s h.fb (fun _ => true) (rsecLeaveOp o)

/-- The domain of a slot of a team's context. -/
def State.domOf (s : State) (t : Team) (slot : Nat) : Option Nat :=
  (FMap.look (s.ctx (s.ctxOf t)).doms slot).map (·.dom)

/-- Every count a team holds, moved by one change of its domain (R296). -/
def State.moveReaders (s : State) (t : Team) (f : Domain → Nat → Domain) : State :=
  t.readers.foldl (fun s r =>
    if r.2.depth == 0 then s
    else
      match s.domOf t r.1 with
      | some d => s.modDomain d fun x => f x (r.2.snap % 2)
      | none => s) s

/-- A save: the counts go from the core to its die's parked counter in one step. -/
def State.parkReaders (s : State) (t : Team) : State :=
  s.moveReaders t fun x p => (x.count t.core p (· - 1)).park t.die p (· + 1)

/-- A restore: the destination core is raised, the source die lowered. -/
def State.unparkReaders (s : State) (t : Team) (die : Nat) : State :=
  s.moveReaders t fun x p => (x.count t.core p (· + 1)).park die p (· - 1)

/-- A kill releases the counts from where they are held. -/
def State.dropReaders (s : State) (t : Team) : State :=
  s.moveReaders t fun x p => if t.st == .saved then x.park t.die p (· - 1) else x.count t.core p (· - 1)

/-! ## Grace checks (R297, R298) -/

/-- The slots of contexts bound to a domain: context and slot. -/
def State.boundSlots (s : State) (d : Nat) : List (Nat × Nat) :=
  s.sched.ctxs.flatMap fun c =>
    if c.2.st == .free then [] else (c.2.doms.filter fun x => x.2.dom == d).map fun x => (c.1, x.1)

/-- What the node keeps of a slot's retire queue. -/
def State.retireSt (s : State) (ctx slot : Nat) : RetireSt :=
  (s.sched.retires.find? fun r => r.ctx == ctx && r.slot == slot).getD
    { ctx := ctx, slot := slot, tags := [], nextTry := 0, full := false, told := false, row := none }

/-- What the node keeps of a slot's retire queue, replaced. -/
def State.setRetireSt (s : State) (r : RetireSt) : State :=
  s.withSched fun x =>
    { x with retires := x.retires.filter (fun y => !(y.ctx == r.ctx && y.slot == r.slot)) ++ [r] }

/-- Entries of a domain wait to be acted on. -/
def State.entriesWait (s : State) (d : Nat) : Bool := (s.boundSlots d).any fun x => !(s.retireSt x.1 x.2).tags.isEmpty

/-- The condition of a GPWAIT: E has reached the target, or every entry tagged at or before it is gone (R309). -/
def State.gpMet (s : State) (ctx slot dom target : Nat) (done : Bool) : Bool :=
  if done then (s.retireSt ctx slot).tags.all fun g => !reached target g else reached (s.domain dom).epoch target

/-- A GPWAIT whose condition does not hold waits on a domain. -/
def State.gpWaits (s : State) (d : Nat) : Bool :=
  s.teams.any fun x => match x.2.st with
    | .waiting (.gpwait slot dom target done _ _) => dom == d && !s.gpMet (s.ctxOf x.2) slot dom target done
    | _ => false

/-- A die's sum of a parity is nonzero (R295). -/
def Domain.dieNonzero (d : Domain) (parity die : Nat) : Bool :=
  FMap.lookD d.parked (die * 2 + parity) 0 != 0 ||
    d.counts.any fun c => c.1 % 2 == parity && c.1 / 2 / 576 == die && c.2 != 0

/-- GRACE_CHECK: with demand, no advance in progress and 1 microsecond after a check that failed (R297, R298). -/
def execGraceCheck (d : Nat) (s : State) : Host.Outcome State Fault Refusal :=
  let x := s.domain d
  let due := match x.lastCheck with
    | none => true
    | some c => c + 940 ≤ s.now
  if !(s.entriesWait d || s.gpWaits d) || !x.behind.isEmpty || !due then stutter s
  else
    let parity := (x.epoch + 1) % 2
    let since := if s.entriesWait d then some (x.waitSince.getD s.now) else none
    match (List.range 8).find? (x.dieNonzero parity) with
    | none =>
      .next (s.modDomain d fun x =>
        { x with epoch := (x.epoch + 1) % 2 ^ 32, behind := List.range Config.cores, lastCheck := none, waitSince := since })
    | some die =>
      .next (s.modDomain d fun x => { x with lastCheck := some s.now, firstDie := die, waitSince := since })

/-- A domain that no entry waits on has no waiting time and no warnings (R298). -/
def State.settleWait (s : State) (d : Nat) : State :=
  if s.entriesWait d then s else s.modDomain d fun x => { x with waitSince := none, warned := [] }

/-- ADVANCE_COMPLETE: every core has acknowledged the new epoch (R291). -/
def execAdvanceComplete (d : Nat) (s : State) : Host.Outcome State Fault Refusal :=
  if (s.domain d).behind.isEmpty then stutter s else .next (s.modDomain d fun x => { x with behind := [] })

/-- A microsecond in cycles. -/
def oneUs : Nat := 940

/-- GRACE_WARNING: a warning in the record of each context bound to the domain whose watchdog time has passed again since
entries wait through checks (R298). -/
def execGraceWarning (d : Nat) (s : State) : Host.Outcome State Fault Refusal :=
  let x := s.domain d
  match x.waitSince with
  | none => stutter s
  | some since =>
    let due (c : Nat) : Bool :=
      let w := (s.ctx c).wdog
      w != 0 && since + (FMap.lookD x.warned c 0 + 1) * w * oneUs ≤ s.now
    let cs := (s.sched.ctxs.map (·.1)).filter fun c => (s.boundSlots d).any (·.1 == c) && due c
    if cs.isEmpty || !s.entriesWait d then stutter s
    else
      .next (cs.foldl (fun s c =>
        (s.errItem c 7 0 noCore (leBytes 8 (d + x.firstDie * 2 ^ 8 + x.epoch * 2 ^ 32))).modDomain d fun y =>
          { y with warned := FMap.put y.warned c (FMap.lookD y.warned c 0 + 1) }) s)

/-! ## RETIRE (R307) -/


/-- The 32 bytes of a retire record (R300). -/
def retireRecord (va size action target tag value : Nat) : List Byte :=
  leBytes 8 va ++ leBytes 8 (size + action * 2 ^ 32) ++ leBytes 8 target ++ leBytes 8 (tag + value * 2 ^ 32)

/-- The append at the package node, as one step: the status and the tag, and the state. -/
def State.retireAppend (s : State) (ctx slot : Nat) (d : DomSlot) (record : Nat → List Byte) : Nat × State :=
  match s.serve (s.nodeWho detector ctx) d.queue with
  | (none, s) => (2, s)
  | (some (b, key, q), s) =>
    if q.kind != kindRetire then (2, s)
    else if q.head + 2 ^ q.rcap < q.resv + 1 then (1, s)
    else
      let e := (s.domain d.dom).epoch
      let r := s.retireSt ctx slot
      let s := (s.qReserve key b q 1 none).addRows (s.nodeWho detector ctx).agent ctx key b q none q.resv [record e]
      (0, s.setRetireSt { r with tags := r.tags ++ [e] })

/-- RETIRE. -/
def retireOp (o : Ec) (s : State) (t : Team) : Except Trap Done := do
  let slot := bitsOf o.e.toNat 1 0
  let action := bitsOf o.e.toNat 3 2
  let d ← s.domSlot t slot
  let va ← t.addr o.a.toNat
  let target ← t.addr o.b.toNat
  let size ← t.int (o.a.toNat + 1)
  let value ← t.scalar o.c.toNat Tag.any
  require (0 ≤ size && size < 2 ^ 32) Code.arith
  require (!(action == 1 && target.toNat % 4 != 0) && !(action == 2 && target.toNat % 32 != 0)) Code.align
  let s := s.release t devScope
  let v := if action == 1 then value.toNat % 2 ^ 32 else 0
  let r := s.retireAppend (s.ctxOf t) slot d fun e => retireRecord va.toNat size.toNat action target.toNat e v
  let res := if r.1 == 0 then (r.2.domain d.dom).epoch else r.1 * 2 ^ 32
  return .next (r.2.modTeam t.id fun u => u.setResult o.d.toNat res)

/-- RETIRE (R307). -/
def execRetire (h : Hd) (o : Ec) (s : State) : Host.Outcome State Fault Refusal :=
  issueLong s h.fb (fun _ => true) (retireOp o)

/-! ## Actions (R301, R302) -/

/-! Failure causes of R302. -/
namespace RCause
def fault : Nat := 1
def align : Nat := 2
def place : Nat := 3
def barrier : Nat := 4
def poolq : Nat := 5
def retq : Nat := 6
end RCause

/-- The cause and the fault kind of a target that cannot be resolved. -/
def LErr.cause : LErr → Nat × Nat
  | .park k _ => (RCause.fault, k)
  | .err _ (some (k, _)) => (RCause.fault, k)
  | .err c none => (if c == Code.align then RCause.align else RCause.place, 0)
  | .unreachable => (RCause.fault, 0)

/-- What an action ends in, with the state it leaves. -/
inductive Acted where
  | done (s : State)
  /-- Its pool record is not committed: its slot faults (R318). -/
  | held (s : State) (row : Nat)
  /-- The pool queue is full. -/
  | full
  | failed (s : State) (cause kind : Nat)
  deriving DecidableEq, Repr

/-- The cause of a pool target that cannot be used. -/
def LErr.poolCause : LErr → Nat × Nat
  | .unreachable => (RCause.poolq, 0)
  | e => e.cause

/-- The pool action: a record of the address and the size appended and committed. A block that the detector cannot reach or
use is noted as for any other (R453). -/
def State.actPool (s : State) (w : Who) (va size target : Nat) : Acted :=
  match s.resolve w .rmw 64 64 target with
  | .error e =>
    .failed (if e.poolCause.1 == RCause.align then s else s.noteUnreached w target (some (e.asFault target 0))) e.poolCause.1
      e.poolCause.2
  | .ok _ =>
    match s.serve w target with
    | (none, s) => .failed s RCause.poolq 0
    | (some (b, key, q), s) =>
      if q.kind != kindRecord && q.kind != kindToken then .failed s RCause.poolq 0
      else if q.head + 2 ^ q.rcap < q.resv + 1 then .full
      else
        let s := s.appendNow w.agent w.ctx key b q (leBytes 8 va ++ leBytes 8 size)
        match s.eng.rows.find? fun r => r.block == b && r.index == q.resv with
        | some r => .held s r.id
        | none => .done s

/-- The word action: the value written at the target; it wakes no waiter. -/
def State.actWord (s : State) (w : Who) (target value : Nat) : Acted :=
  match s.resolve w .wr 4 4 target with
  | .error e => .failed s e.cause.1 e.cause.2
  | .ok p => .done (s.homePut w p (leBytes 4 value))

/-- The barrier action: an engine arrival of the size. -/
def State.actBarrier (s : State) (w : Who) (size target : Nat) : Acted :=
  match s.resolve w .rmw 32 32 target with
  | .error e => .failed s e.cause.1 e.cause.2
  | .ok (.win l) =>
    if (s.bar l).state != barActive then .failed s RCause.barrier 0
    else .done (s.barArrive w.ctx noCore l target size (s.nodeDie detector * 128 + detector) none)
  | .ok _ => .failed s RCause.place 0

/-- The action of a retire record's 256 bits. -/
def State.act (s : State) (w : Who) (v : Nat) : Acted :=
  let va := bitsOf v 63 0
  let size := bitsOf v 95 64
  let target := bitsOf v 191 128
  match bitsOf v 97 96 with
  | 0 => s.actPool w va size target
  | 1 => s.actWord w target (bitsOf v 255 224)
  | _ => s.actBarrier w size target

/-- A RETIRE item of the error record (R454). -/
def State.errRetire (s : State) (ctx cause kind : Nat) (record : List Byte) (queue : Nat) : State :=
  s.errItem ctx 3 cause noCore (padTo 32 record ++ leBytes 8 kind ++ leBytes 8 queue)

/-- The retire queue is held: one RETQ item at first, and the next try in a microsecond. -/
def State.holdRetire (s : State) (r : RetireSt) (queue : Nat) : State :=
  let s := if r.told then s else s.errRetire r.ctx RCause.retq 0 [] queue
  s.setRetireSt { r with told := true, nextTry := s.now + oneUs }

/-- The detector serves the head of a retire queue (R301, R302). -/
def State.serveRetire (s : State) (ctx slot : Nat) (d : DomSlot) : State :=
  let w := s.nodeWho detector ctx
  let r := s.retireSt ctx slot
  match s.serve w d.queue with
  | (none, s) => s.holdRetire r d.queue
  | (some (b, key, q), s) =>
    if q.kind != kindRetire then s.holdRetire r d.queue
    else if q.tail ≤ q.claim then s.setRetireSt { r with told := false }
    else
      match s.agentRead w (q.slotVa q.claim) 32 with
      | .error _ => s.holdRetire r d.queue
      | .ok (bs, s) =>
        let v := leNat bs
        if !reached (s.domain d.dom).epoch (bitsOf v 223 192 + 2) then s.setRetireSt { r with told := false }
        else
          let passed (s : State) : State :=
            (((s.qPut key b qClaim (q.claim + 1)).qMarkDone key b q.claim 1).setRetireSt
              { r with tags := r.tags.drop 1, full := false, told := false, row := none }).settleWait d.dom
          match r.row with
          | some i => if s.eng.rows.any (·.id == i) then s else passed s
          | none =>
            match s.act w v with
            | .done s => passed s
            | .held s i => s.setRetireSt { r with full := false, told := false, row := some i }
            | .full => s.setRetireSt { r with full := true, told := false, nextTry := s.now + oneUs }
            | .failed s c k => passed (s.errRetire ctx c k bs d.queue)

/-- RETIRE_ACTION: the head entry of a queue that is not held (R301). -/
def execRetireAction (c i : Nat) (s : State) : Host.Outcome State Fault Refusal :=
  match FMap.look (s.ctx c).doms i with
  | none => stutter s
  | some d =>
    let r := s.retireSt c i
    if r.full || r.told || (s.ctx c).st == .free then stutter s else .next (s.serveRetire c i d)

/-- RETIRE_RETRY: a held entry or queue, a microsecond later (R301). -/
def execRetireRetry (c i : Nat) (s : State) : Host.Outcome State Fault Refusal :=
  match FMap.look (s.ctx c).doms i with
  | none => stutter s
  | some d =>
    let r := s.retireSt c i
    if (r.full || r.told) && r.nextTry ≤ s.now && (s.ctx c).st != .free then .next (s.serveRetire c i d) else stutter s

/-! ## PUBL (R306) -/

/-- PUBL: a store of a scalar, once, as a release at its scope. -/
def publOp (o : Mem) (s : State) (t : Team) : Except Trap Done := do
  let ty := o.ty.toNat
  let n := memSize ty
  let m ← t.memOperand 0 o.a o.b true
  let x ← t.scalar o.d.toNat (storeTags ty)
  let va := t.laneAddr m o.imm.toInt n 0
  let ps ← s.resolveLanes t .wr n n [(none, va)]
  let s := (s.usePlaces t .wr ps).release t o.scope.toNat
  let s := s.writePlaces t (putOf true o.nol1 o.scope) o.ret.toNat (ps.map fun p => (p, leBytes n x.toNat, false))
  return .next (if wideScope o.scope then s else s.noticeAll t ps)

/-- PUBL (R306). -/
def execPubl (h : Hd) (o : Mem) (s : State) : Host.Outcome State Fault Refusal :=
  issueFar s h.fb (fun _ => true) noRegs noRegs noRegs (publOp o)

/-! ## GPSEQ (R308), GPWAIT (R309) -/

/-- GPSEQ. -/
def gpseqOp (o : Sys) (s : State) (t : Team) : Except Trap Done := do
  let slot := o.imm.toNat
  let d ← s.domSlot t slot
  let r := s.retireSt (s.ctxOf t) slot
  let v := (s.domain d.dom).epoch + min r.tags.length 65535 * 2 ^ 32 + if r.full then 2 ^ 48 else 0
  return teamDone s (t.setResult o.d.toNat v)

/-- GPSEQ (R308). -/
def execGpseq (h : Hd) (o : Sys) (s : State) : Host.Outcome State Fault Refusal :=
  issueLong s h.fb (fun _ => true) (gpseqOp o)

/-- GPWAIT. -/
def gpwaitOp (o : Sys) (s : State) (t : Team) : Except Trap Done := do
  let slot := o.imm.toNat
  let d ← s.domSlot t slot
  let target := ((← t.int o.a.toNat) % 2 ^ 32).toNat
  let timeout := clip32 (← t.int (o.a.toNat + 1))
  let done := o.e.getLsbD 0
  if s.gpMet (s.ctxOf t) slot d.dom target done then
    return teamDone (s.acquire t devScope) (t.setStatus o.d.toNat 0)
  else if timeout == 0 then return teamDone s (t.setStatus o.d.toNat 2)
  else
    return .hold (s.setTeam { t with st := .waiting (.gpwait slot d.dom target done (s.now + timeout) o.d.toNat) })

/-- GPWAIT (R309). -/
def execGpwait (h : Hd) (o : Sys) (s : State) : Host.Outcome State Fault Refusal := issue s (withRoom h.fb (gpwaitOp o))

/-- GPWAIT_MET: the condition of a waiting GPWAIT holds (R309). -/
def execGpwaitMet (t : Nat) (s : State) : Host.Outcome State Fault Refusal :=
  match s.team t with
  | none => stutter s
  | some u =>
    match u.st with
    | .waiting (.gpwait slot dom target done _ d) =>
      if s.gpMet (s.ctxOf u) slot dom target done then
        .next ((s.acquire u devScope).endWait t fun v => v.setStatus d 0)
      else stutter s
    | _ => stutter s

/-- GPWAIT_TIMEOUT: its timeout has passed and the condition does not hold (R309). -/
def execGpwaitTimeout (t : Nat) (s : State) : Host.Outcome State Fault Refusal :=
  match s.team t with
  | none => stutter s
  | some u =>
    match u.st with
    | .waiting (.gpwait slot dom target done deadline d) =>
      if deadline ≤ s.now && !s.gpMet (s.ctxOf u) slot dom target done then
        .next (s.endWait t fun v => v.setStatus d 2)
      else stutter s
    | _ => stutter s

end Sys2Proof.Machine
end

