-- ==== Sys2Proof/Machine/Launch.lean ====
section
/-! DEFINITION. Launch records, their checks and acceptance, the stages' claims, and LAUNCH
(spec/16_kernel_launch.md R335 to R345, R352; spec/06_kernel_image.md R106, R107). -/

namespace Sys2Proof.Machine

/-! ## The kernel header (R106, R107) -/

/-- A header's 512 bits within their limits, or none: a reserved bit, another level or a field outside its limits. -/
def KHdr.ofNat (v : Nat) : Option KHdr :=
  let h : KHdr :=
    { codeSize := bitsOf v 63 32, lanes := bitsOf v 74 64, teams := bitsOf v 84 80, groups := bitsOf v 91 88
      vregs := bitsOf v 104 96, accs := bitsOf v 116 112, scratch := bitsOf v 159 128, cluster := bitsOf v 191 160
      priv := bitsOf v 208 192, ftz := v.testBit 224, i4trap := v.testBit 225, unwr := v.testBit 226
      entry := bitsOf v 287 256, dataSize := bitsOf v 319 288 }
  let clean := bitsOf v 79 75 == 0 && bitsOf v 87 85 == 0 && bitsOf v 95 92 == 0 && bitsOf v 111 105 == 0 &&
    bitsOf v 127 117 == 0 && bitsOf v 223 209 == 0 && bitsOf v 255 227 == 0 && bitsOf v 511 320 == 0
  let limits := bitsOf v 15 0 == 0x100 && bitsOf v 31 16 == 64 && h.codeSize != 0 && h.codeSize % 8 == 0 &&
    32 ≤ h.lanes && h.lanes ≤ 1024 && h.lanes % 32 == 0 && 1 ≤ h.teams && h.teams ≤ 16 && 1 ≤ h.groups && h.groups ≤ 8 &&
    h.vregs ≤ 256 && h.accs ≤ 16 && h.scratch ≤ 2 ^ 20 && h.scratch % 4 == 0 && h.cluster ≤ 2 ^ 24 && h.cluster % 4 == 0 &&
    h.priv ≤ 65536 && h.priv % 4 == 0 && h.entry % 8 == 0 && h.entry < h.codeSize && h.dataSize % 8 == 0
  if clean && limits then some h else none

/-- The scheduler node as an accessor: that of die 0, or its copy on die 4 (R22, R338). -/
def State.schedWho (s : State) (ctx : Nat) : Who := s.nodeWho 80 ctx
/-- A stage as an accessor. -/
def State.stageWho (s : State) (ctx : Nat) : Who := s.nodeWho 81 ctx
/-- A chain's consumer as an accessor to its block. -/
def State.chainWho (s : State) (ctx : Nat) : Who := s.nodeWho 79 ctx

/-- The header at H as the scheduler reads it: none for a misaligned or unreadable header, one that fails R107, and an
image that reaches into the window region (R344 step 2). -/
def State.readHeader (s : State) (ctx h : Nat) : Option (KHdr × State) :=
  if h % 64 != 0 then none
  else
    match s.agentRead (s.schedWho ctx) h 64 with
    | .error _ => none
    | .ok (bs, s) =>
      match KHdr.ofNat (leNat bs) with
      | none => none
      | some k => if winBase < h + 64 + k.codeSize then none else some (k, s)

/-! ## Launch records (R336, R337) -/

/-! Completion statuses of R345. -/
namespace LStatus
def ok : Nat := 0
def badhdr : Nat := 1
def toobig : Nat := 2
def badrec : Nat := 3
def badq : Nat := 4
def killed : Nat := 5
end LStatus

/-- The lowest nonzero status of two (R345). -/
def joinStatus (a b : Nat) : Nat := if a == 0 then b else if b == 0 then a else min a b

/-- Launch modes. -/
def modeCounted : Nat := 0
def modeRow : Nat := 1
def modeTile : Nat := 2
def modeStop : Nat := 3

/-- The fields of a launch record. -/
structure Lrec where
  mode   : Nat
  count  : Nat
  kernel : Nat
  args   : Nat
  rqueue : Nat
  cword  : Nat
  cvalue : Nat
  node   : Nat
  deriving DecidableEq, Repr

/-- The fields read from the record's 512 bits. -/
def Lrec.ofNat (v : Nat) : Lrec :=
  { mode := bitsOf v 3 0, count := bitsOf v 63 32, kernel := bitsOf v 127 64, args := bitsOf v 191 128
    rqueue := bitsOf v 255 192, cword := bitsOf v 319 256, cvalue := bitsOf v 351 320, node := bitsOf v 367 352 }

/-- Step 1 of R344: the record gives BADREC. -/
def Lrec.bad (r : Lrec) (v : Nat) : Bool :=
  4 ≤ r.mode || bitsOf v 15 4 != 0 || bitsOf v 383 368 != 0 || bitsOf v 511 448 != 0 ||
    (r.mode == modeStop && (r.count != 0 || r.kernel != 0)) || (r.mode == modeCounted && (r.rqueue != 0 || r.count == 0)) ||
    (r.mode != modeTile && r.node != 0)

/-- A partition bound to a context. -/
def State.partOf (s : State) (p ctx : Nat) : Option Part := s.sched.parts.find? fun x => x.num == p && x.ctx == ctx

/-- The smallest allocation space among a partition's clusters (R374). -/
def State.partSpace (s : State) (p : Part) : Nat := p.clusters.foldl (fun m c => min m (allocSpace (s.waysOf c))) (allocSpace 0)

/-- The allocation space under the current carve-out of a context's partition. -/
def State.spaceOf (s : State) (p ctx : Nat) : Nat := ((s.partOf p ctx).map s.partSpace).getD (allocSpace 0)

/-- Steps 1 to 3 of R344: a status, and the header read. -/
def State.checkKernel (s : State) (p ctx : Nat) (r : Lrec) (v : Nat) : Nat × Option KHdr × State :=
  if r.bad v then (LStatus.badrec, none, s)
  else
    match s.readHeader ctx r.kernel with
    | none => (LStatus.badhdr, none, s)
    | some (h, s) => (if s.spaceOf p ctx < h.footprint then LStatus.toobig else LStatus.ok, some h, s)

/-- Step 4 of R344: the record queue of a stage, or none for BADQ. -/
def State.stageQueue (s : State) (ctx : Nat) (r : Lrec) : Option Loc × State :=
  match s.meetBlock (s.schedWho ctx) r.rqueue with
  | .unreachable f => (none, s.errXlate ctx f.noTeam)
  | .ok b _ q p =>
    if q.kind == kindRecord && (r.mode != modeTile || q.rsize == 4) && (s.qaux b).bound.isNone then
      (some b, s.usePlace (s.schedWho ctx) .rmw p)
    else (none, s)
  | _ => (none, s)

/-! ## Launches in the scheduler's state -/

/-- A launch by number. -/
def State.launch (s : State) (l : Nat) : Option Launch := s.sched.launches.find? (·.id == l)

/-- A launch changed. -/
def State.modLaunch (s : State) (l : Nat) (f : Launch → Launch) : State :=
  s.withSched fun x => { x with launches := x.launches.map fun y => if y.id == l then f y else y }

/-- A context claims launch queues and stages, places gangs and runs its handler (R375, R379). -/
def Ctx.runs (c : Ctx) : Bool := c.st == .running && !c.switching

/-- The bound stage of a queue as a stop record names it (R342). -/
def State.stageOf (s : State) (ctx rqueue : Nat) : Option Launch :=
  let loc := match s.agentBlock (s.schedWho ctx) rqueue with
    | .ok p => p.loc
    | .error _ => none
  s.sched.launches.find? fun l =>
    (l.mode == modeRow || l.mode == modeTile) && (l.st == .placing || l.st == .draining) &&
      ((l.ctx == ctx && l.rqueue == rqueue) || (loc.map fun b => (s.qaux b).bound == some l.id).getD false)

/-- A stage's queue is bound. Where it holds visible records its flush timer runs since their number became nonzero, or, when
no operation of the queue made it so, from now on (R339; log entry 38). -/
def State.bindStage (s : State) (key : Option Nat) (b : Loc) (l : Nat) : State :=
  let x := s.qaux b
  let s := s.modQaux b fun y => { y with bound := some l }
  match s.qcb key b with
  | some q =>
    if q.claim < q.tail then s.modLaunch l fun y => { y with timer := some (x.since.getD s.now) } else s
  | none => s

/-- The record at an address enters Checking and leaves it as the checks decide (R338, R344). -/
def State.acceptRecord (s : State) (p : Part) (i va v : Nat) : State :=
  let r := Lrec.ofNat v
  let n := s.newId
  let s := n.2
  let base : Launch :=
    { id := n.1, ctx := p.ctx, part := p.num, queue := p.lq, index := i, addr := va, mode := r.mode, count := r.count
      kernel := r.kernel, args := r.args, rqueue := r.rqueue, cword := r.cword, cvalue := r.cvalue, node := r.node
      hdr := none, st := .checking, status := 0, retired := 0, rejected := 0, launched := 0, cands := [], timer := none
      expired := false, undone := [], waits := none, nextTry := 0, held := false }
  let add (s : State) (l : Launch) : State := s.withSched fun x => { x with launches := x.launches ++ [l] }
  if r.mode == modeStop then
    if r.bad v then add s { base with status := LStatus.badrec }
    else
      match s.stageOf p.ctx r.rqueue with
      | none => add s { base with status := LStatus.badq }
      | some l => add (s.modLaunch l.id fun y => { y with st := .draining }) { base with st := .draining, waits := some l.id }
  else
    let c := s.checkKernel p.num p.ctx r v
    let s := c.2.2
    if c.1 != LStatus.ok then add s { base with hdr := c.2.1, status := c.1 }
    else if r.mode == modeCounted then add s { base with hdr := c.2.1, st := .placing }
    else
      match s.stageQueue p.ctx r with
      | (none, s) => add s { base with hdr := c.2.1, status := LStatus.badq }
      | (some b, s) =>
        let key := match s.agentBlock (s.schedWho p.ctx) r.rqueue with
          | .ok pl => pl.slot
          | .error _ => none
        (add s { base with hdr := c.2.1, st := .placing }).bindStage key b n.1

/-- The slot of the record a launch queue's next claim takes. -/
def State.launchSlot (s : State) (p : Part) : Option Nat :=
  match s.meetBlock (s.schedWho p.ctx) p.lq with
  | .ok _ _ q _ => some (q.slotVa q.claim)
  | _ => none

/-- The scheduler serves a launch queue: it claims and checks the next record, holds one it cannot read on a replayable
fault, and passes over one it can never read (R344, R453). -/
def State.serveLaunch (s : State) (p : Part) : State :=
  let w := s.schedWho p.ctx
  match s.serve w p.lq with
  | (none, s) => s
  | (some (b, key, q), s) =>
    if q.kind != kindLaunch then s.noteUnreached w p.lq none
    else if q.tail ≤ q.claim then s
    else
      let va := q.slotVa q.claim
      let take (s : State) : State := s.qPut key b qClaim (q.claim + 1)
      match s.agentRead w va 64 with
      | .ok (bs, s) => (take (s.noteServed w va)).acceptRecord p q.claim va (leNat bs)
      | .error e =>
        match e with
        | .park _ _ => s.noteUnreached w va (e.agentFault va 0)
        | _ =>
          let s := match e.agentFault va 0 with
            | some f => s.errXlate p.ctx f.noTeam
            | none => s
          (take (s.noteServed w va)).qMarkDone key b q.claim 1

/-- The partition's launch queue waits for a retry. -/
def State.launchHeld (s : State) (p : Part) : Bool :=
  s.isUnreached (s.schedWho p.ctx) p.lq || ((s.launchSlot p).map (s.isUnreached (s.schedWho p.ctx))).getD false

/-- LAUNCH_ACCEPT of a partition (R344). -/
def execLaunchAccept (p : Nat) (s : State) : Host.Outcome State Fault Refusal :=
  match s.sched.parts.find? (·.num == p) with
  | none => stutter s
  | some x => if (s.ctx x.ctx).runs && !s.launchHeld x then .next (s.serveLaunch x) else stutter s

/-! ## Row stages (R339, R343) -/

/-- A stage may claim. -/
def State.stageClaims (s : State) (l : Launch) : Bool :=
  l.st == .placing && (s.ctx l.ctx).runs && l.cands.length < 256

/-- A stage's gang, and the launch after its claim: it drains once its limit is reached (R342). -/
def Launch.claimed (l : Launch) (c : Cand) : Launch :=
  let n := l.launched + 1
  { l with cands := l.cands ++ [c], launched := n, st := if l.count != 0 && l.count ≤ n then .draining else l.st }

/-- The gang of m records from index f. -/
def Launch.rowCand (l : Launch) (h : KHdr) (q : Qcb) (m : Nat) (flush : Bool) : Cand :=
  { origin := .launch l.id, ctx := l.ctx, part := l.part, ordinal := q.claim, hdr := h, image := l.kernel, args := l.args
    record := q.slotVa q.claim, lrec := l.addr, lflags := if flush then 2 else 0, lanes := m, cword := 0, cvalue := 0
    claim := some { first := q.claim, count := m }, range := none, rank := l.id * 2 ^ 64 + q.claim }

/-- A row stage claims m visible records and launches one gang; a flush clears FLREQ. -/
def State.claimRows (s : State) (l : Launch) (b : Loc) (key : Option Nat) (q : Qcb) (m : Nat) (flush : Bool) : State :=
  match l.hdr with
  | none => s
  | some h =>
    let s := s.qPut key b qClaim (q.claim + m)
    let s := if flush then s.qFlags key b q.retry false false else s
    s.modLaunch l.id fun y =>
      { y.claimed (l.rowCand h q m flush) with
        timer := if q.claim + m < q.tail then some s.now else none, expired := false }

/-- A stage that may claim, with its queue's address not held. -/
def State.rowStage (s : State) (l : Nat) : Option Launch :=
  match s.launch l with
  | none => none
  | some x => if x.mode == modeRow && s.stageClaims x && !s.isUnreached (s.stageWho x.ctx) x.rqueue then some x else none

/-- ROW_STAGE_CLAIM: a full tile; or every visible record, when FLREQ is found set or the timer expired while the stage
held 256 gangs (R339, R343). -/
def execRowStageClaim (l : Nat) (s : State) : Host.Outcome State Fault Refusal :=
  match s.rowStage l with
  | none => stutter s
  | some x =>
    match s.serve (s.stageWho x.ctx) x.rqueue with
    | (none, s') => .next s'
    | (some (b, key, q), s') =>
      let v := q.tail - q.claim
      if 32 ≤ v then .next (s'.claimRows x b key q 32 false)
      else if 1 ≤ v && (q.flreq || x.expired) then .next (s'.claimRows x b key q v true)
      else stutter s

/-- The flush timer of a stage has run out. -/
def Launch.timerDone (l : Launch) (now timer : Nat) : Bool :=
  timer != 0 && (match l.timer with | some t => t + timer * oneUs ≤ now | none => false)

/-- FLUSH_TIMER_EXPIRY: the stage claims every visible record; while it holds 256 gangs the expiry is kept for its next
claim (R339, R343). -/
def execFlushTimerExpiry (l : Nat) (s : State) : Host.Outcome State Fault Refusal :=
  match s.launch l with
  | none => stutter s
  | some x =>
    if !(x.mode == modeRow && x.st == .placing && (s.ctx x.ctx).runs && !x.expired && !s.isUnreached (s.stageWho x.ctx) x.rqueue) then stutter s
    else
      match s.serve (s.stageWho x.ctx) x.rqueue with
      | (none, s') => .next s'
      | (some (b, key, q), s') =>
        let v := q.tail - q.claim
        if !(x.timerDone s.now q.timer && 1 ≤ v && v < 32) then stutter s
        else if x.cands.length < 256 then .next (s'.claimRows x b key q v true)
        else .next (s'.modLaunch l fun y => { y with expired := true })

/-! ## Tile stages (R340, R341) -/

/-- A tile record is defective. -/
def tileBad (node v : Nat) : Bool :=
  bitsOf v 15 0 != node || bitsOf v 101 96 == 0 || 32 < bitsOf v 101 96 || bitsOf v 127 102 != 0

/-- The gang of a tile record. -/
def Launch.tileCand (l : Launch) (h : KHdr) (q : Qcb) (v : Nat) : Cand :=
  { origin := .launch l.id, ctx := l.ctx, part := l.part, ordinal := q.claim, hdr := h, image := l.kernel, args := l.args
    record := q.slotVa q.claim, lrec := l.addr, lflags := 4 + bitsOf v 31 16 * 2 ^ 16, lanes := bitsOf v 101 96
    cword := 0, cvalue := 0, claim := some { first := q.claim, count := 1 }, range := none, rank := l.id * 2 ^ 64 + q.claim }

/-- A tile record is rejected: done at once, counted and logged (R341). -/
def State.rejectTile (s : State) (l : Launch) (b : Loc) (key : Option Nat) (q : Qcb) (code : Nat) (bs : List Byte) : State :=
  let s := (s.qPut key b qClaim (q.claim + 1)).qMarkDone key b q.claim 1
  let s := s.modLaunch l.id fun y => { y with rejected := y.rejected + 1, held := false }
  s.errItem l.ctx 4 code noCore (leBytes 8 q.claim ++ leBytes 8 l.rqueue ++ padTo 16 bs)

/-- A tile stage takes the next visible record: a gang, a rejection, or a hold on a replayable fault. -/
def State.claimTile (s : State) (l : Launch) : State :=
  let w := s.stageWho l.ctx
  match s.serve w l.rqueue with
  | (none, s) => s
  | (some (b, key, q), s) =>
    if q.tail ≤ q.claim then s
    else
      let va := q.slotVa q.claim
      match s.agentRead w va 16, l.hdr with
      | .ok (bs, s), some h =>
        if tileBad l.node (leNat bs) then s.rejectTile l b key q 0 bs
        else
          (s.qPut key b qClaim (q.claim + 1)).modLaunch l.id fun y =>
            { y.claimed (l.tileCand h q (leNat bs)) with held := false }
      | .error e, _ =>
        match e with
        | .park _ _ =>
          let s := match e.agentFault va 0 with
            | some f => if l.held then s else s.errXlate l.ctx f.noTeam
            | none => s
          s.modLaunch l.id fun y => { y with held := true, nextTry := s.now + sixteenUs }
        | .err _ (some (k, _)) => s.rejectTile l b key q k []
        | _ => s.rejectTile l b key q 0 []
      | .ok _, none => s

/-- A tile stage that may claim. -/
def State.tileStage (s : State) (l : Nat) : Option Launch :=
  match s.launch l with
  | none => none
  | some x => if x.mode == modeTile && s.stageClaims x && !s.isUnreached (s.stageWho x.ctx) x.rqueue then some x else none

/-- TILE_STAGE_CLAIM (R340). -/
def execTileStageClaim (l : Nat) (s : State) : Host.Outcome State Fault Refusal :=
  match s.tileStage l with
  | none => stutter s
  | some x => if x.held then stutter s else .next (s.claimTile x)

/-! ## Retries (R341, R344, R453) -/

/-- A stage that serves its queue marks done the claims that it could not mark before (R339, R453). -/
def State.payClaims (s : State) (l : Launch) : State :=
  match s.serve (s.stageWho l.ctx) l.rqueue with
  | (none, s) => s
  | (some (b, key, _), s) =>
    (l.undone.foldl (fun s c => s.qMarkDone key b c.first c.count) s).modLaunch l.id fun y => { y with undone := [] }

/-- An address an agent could not use is due for its next try. -/
def State.retryDue (s : State) (w : Who) (va : Nat) : Bool :=
  s.eng.unreached.any fun u => u.names w va && u.nextTry ≤ s.now

/-- BLOCK_RETRY of one agent. -/
def execBlockRetry (a : RetryAgent) (s : State) : Host.Outcome State Fault Refusal :=
  match a with
  | .launchQueue p =>
    match s.sched.parts.find? (·.num == p) with
    | none => stutter s
    | some x =>
      let w := s.schedWho x.ctx
      let due := s.retryDue w x.lq || ((s.launchSlot x).map (s.retryDue w)).getD false
      if due && (s.ctx x.ctx).runs then .next (s.serveLaunch x) else stutter s
  | .stage l =>
    match s.launch l with
    | none => stutter s
    | some x => if s.retryDue (s.stageWho x.ctx) x.rqueue then .next (s.payClaims x) else stutter s
  | .chain c b =>
    let w := s.chainWho c
    if s.retryDue w b.toNat then .next (s.serve w b.toNat).2 else stutter s
  | .tileRecord l =>
    match s.tileStage l with
    | none => stutter s
    | some x => if x.held && x.nextTry ≤ s.now then .next (s.claimTile x) else stutter s

/-! ## LAUNCH (R352) -/

/-- LAUNCH (R352): QAPP's course for launch queues, 1 to 16 records. -/
def execLaunch (h : Hd) (o : Ec) (s : State) : Host.Outcome State Fault Refusal :=
  issueLong s h.fb (fun _ => true) (appendOp [kindLaunch] 16 none o)

end Sys2Proof.Machine
end

