-- ==== Sys2Proof/Machine/Place.lean ====
section
/-! DEFINITION. Standing and placement of gangs, the end of teams and gangs, and the completion of launches
(spec/16_kernel_launch.md R346 to R349; spec/08_team.md R167). -/

namespace Sys2Proof.Machine

/-! ## Gangs that wait to be placed (R347) -/

/-- The number by which GANG_PLACE names a launch's next gang. -/
def launchKey (l : Nat) : Nat := 2 * l
/-- The number by which GANG_PLACE names the gang of a context's tick slot; slots from 16 on hold the gangs of disarmed
slots (R394). -/
def tickKey (ctx slot : Nat) : Nat := 2 * (slot * 128 + ctx) + 1

/-- The gang a launch places next: by ordinal, or in claim order. -/
def Launch.next (l : Launch) : Option Cand :=
  if l.mode == modeCounted then
    match l.hdr with
    | some h =>
      if l.st == .placing && l.launched < l.count then
        some { origin := .launch l.id, ctx := l.ctx, part := l.part, ordinal := l.launched, hdr := h, image := l.kernel
               args := l.args, record := 0, lrec := l.addr, lflags := 0, lanes := h.lanes, cword := 0, cvalue := 0, claim := none, range := none
               rank := l.id * 2 ^ 64 + l.launched }
      else none
    | none => none
  else l.cands.head?

/-- The next gangs of all launches. -/
def State.launchCands (s : State) : List Cand := s.sched.launches.filterMap Launch.next

/-- The waiting gangs of all tick slots. -/
def State.tickCands (s : State) : List Cand := s.sched.ctxs.flatMap fun c => c.2.ticks.filterMap fun t => t.2.cand

/-- The saved gangs, which are placed again with the standing they held (R371, R379). -/
def State.savedCands (s : State) : List Cand :=
  (s.gangs.map (·.2)).filterMap fun g => if g.st == .saved && !g.isHandler then some g.src else none

/-- Clusters of a context's partition; none while it is not bound to the context. -/
def State.partClusters (s : State) (p ctx : Nat) : List Nat := ((s.partOf p ctx).map (·.clusters)).getD []

/-- The row of R347: tick launches, then priorities. -/
def State.standRow (s : State) (c : Cand) : Nat :=
  match c.origin with
  | .tick _ _ => 0
  | _ => 1 + s.partPrio c.part

/-- Gang a stands before gang b. -/
def State.stands (s : State) (a b : Cand) : Bool :=
  s.standRow a < s.standRow b || (s.standRow a == s.standRow b && a.rank < b.rank)

/-- The gangs that wait to be placed, of contexts that have their gangs placed (R375). -/
def State.waitingCands (s : State) : List Cand :=
  (s.launchCands ++ s.tickCands ++ s.savedCands).filter fun c => (s.ctx c.ctx).runs

/-- A cluster island is in recalibration (R414, R415). -/
def State.clusterStalled (s : State) (cl : Nat) : Bool := s.svc.recal.contains (cl / 72 * 64 + cl % 72 / 2)

/-- The clusters a gang may be placed on: its partition's, but those of a partition for which a gang of higher standing
waits (R347), and those in recalibration (R415). -/
def State.clustersFor (s : State) (c : Cand) : List Nat :=
  let above := s.waitingCands.filter fun w => s.stands w c
  (s.partClusters c.part c.ctx).filter fun k =>
    !s.clusterStalled k && !above.any fun w => (s.partClusters w.part w.ctx).contains k

/-! ## Fitting places (R348) -/

/-- A core in use: not fenced nor about to be, nor on a fenced die 0 (R22, R418). -/
def State.coreUsable (s : State) (core : Nat) : Bool :=
  !s.svc.fenced.contains core && !s.svc.closing.contains core && !(s.svc.die0 && core / 576 == 0)

/-- The store that groups may take on a core of a cluster: a pending carve-out reserves what it will take (R374). -/
def State.placeSpace (s : State) (cl : Nat) : Nat :=
  s.sched.carves.foldl (fun m x =>
    let cs := ((s.sched.parts.find? (·.num == x.part)).map (·.clusters)).getD []
    if cs.contains cl then min m (allocSpace x.ways) else m) (allocSpace (s.waysOf cl))

/-- What a group needs of its core: teams and store. -/
structure Shape where
  teams : Nat
  store : Nat
  deriving DecidableEq, Repr

/-- Groups that fit on consecutive cores from c of a cluster: teams, lanes, and one free block for each footprint (R348). -/
def State.fitsAt (s : State) (cl lanes : Nat) : List Shape → Nat → Bool
  | [], _ => true
  | x :: r, c =>
    let core := cl * 8 + c
    let load := s.coreLoad core
    c < 8 && s.coreUsable core && load.1 + x.teams ≤ 32 && load.2 + x.teams * lanes ≤ 16384 &&
      (firstFit (s.extents core none) (s.placeSpace cl) x.store).isSome && s.fitsAt cl lanes r (c + 1)

/-- Resident lanes of a die in a partition's clusters. -/
def State.dieLanes (s : State) (clusters : List Nat) (die : Nat) : Nat :=
  (s.teams.map (·.2)).foldl (fun n t =>
    if t.die == die && clusters.contains t.cluster && s.onCore t.core t then n + t.lanes else n) 0

/-- The lowest core of a cluster at which a gang fits. -/
def State.fitIn (s : State) (shape : List Shape) (lanes cl : Nat) : Option Nat :=
  (List.range 8).find? fun c => s.fitsAt cl lanes shape c

/-- The better of two places: fewer lanes on the die, then the lower cluster number. -/
def betterPlace (a b : Nat × Nat × Nat) : Nat × Nat × Nat :=
  if a.1 < b.1 || (a.1 == b.1 && a.2.1 ≤ b.2.1) then a else b

/-- The place R348 chooses among clusters: cluster and lowest core. -/
def State.choosePlace (s : State) (part clusters : List Nat) (shape : List Shape) (lanes : Nat) : Option (Nat × Nat) :=
  let fits := clusters.filterMap fun cl => (s.fitIn shape lanes cl).map fun c => (s.dieLanes part (cl / 72), cl, c)
  match fits with
  | [] => none
  | x :: r => some (r.foldl betterPlace x).2

/-! ## Placing (R348) -/

/-- The pipe of a core with the fewest resident lanes, the lowest on a tie (R56); the handler's team counts as no resident
one (R58; log entry 51). -/
def State.bindPipe (s : State) (core : Nat) : Nat :=
  let load (p : Nat) : Nat := (s.teams.map (·.2)).foldl (fun n t => if t.pipe == p && s.onCore core t then n + t.lanes else n) 0
  let best := (List.range 4).foldl (fun (b : Nat × Nat) i =>
    if load (core * 4 + i) < b.1 then (load (core * 4 + i), i) else b) (2 ^ 32, 0)
  core * 4 + best.2

/-- The lowest free team slot of a core. -/
def State.freeSlot (s : State) (core : Nat) : Nat :=
  let used := ((s.teams.map (·.2)).filter (s.onCore core)).map (·.slot)
  ((List.range 32).find? fun i => !used.contains i).getD 0

/-- A team as R348 sets it up (R151, R172, R177, R187, R259, R292). -/
def Team.launch (c : Cand) (gang group index slot pipe base now : Nat) : Team :=
  { gang := gang, group := group, index := index, slot := slot, pipe := pipe, base := base, lanes := c.hdr.lanes, vregs := c.hdr.vregs,
    accs := c.hdr.accs, priv := c.hdr.priv, ftz := c.hdr.ftz, i4trap := c.hdr.i4trap, unwtrap := c.hdr.unwr, st := .ready,
    back := .ready, pc := c.hdr.entry, clause := none, cur := lanesBelow c.lanes,
    exited := lanesBelow c.hdr.lanes &&& ~~~(lanesBelow c.lanes), stack := [], x := 0, sregs := [], preds := [], kregs := [],
    file := { bits := [], tags := [], taint := [] }, acc := { elems := [], tags := [], void := [], rank := [] }, pend := [],
    sticky := 0, readers := [], bars := [], prick := { p := 2 ^ 32 - 1, n := 0, vecs := [] }, region := [], store := [],
    skidLeft := 0, skid := 0, err := 0, xrec := none, boost := false, passed := none, lastIssue := 2 * now, afresh := false,
    freed := false }

/-- The bytes of a group's block that are not of its teams' blocks (R60): its block lies first, and theirs after it. -/
def groupBlock (h : KHdr) (vs : List Nat) : Nat := footprint h vs - (vs.map (teamBlock h)).foldl (· + ·) 0

/-- A group as R348 sets it up (R73, R81). -/
def GroupSt.launch (core base size : Nat) : GroupSt :=
  { core := core, base := base, size := size, bytes := [], valid := 0, share := [], svalid := 0, halt := none }

/-- The lowest free block of a core for a footprint (R348; log entry 20). -/
def State.blockAt (s : State) (core store : Nat) : Nat :=
  (firstFit (s.extents core none) (s.placeSpace (core / 8)) store).getD 0

/-- A team of a gang that is placed. -/
def State.addTeam (s : State) (c : Cand) (g group idx core base : Nat) : State :=
  s.setTeam (Team.launch c g group idx (s.freeSlot core) (s.bindPipe core) base s.now)

/-- Where the teams of a group as declared begin, its block at b. -/
def KHdr.bases (h : KHdr) (b : Nat) : List Nat :=
  let vs := List.replicate h.teams h.vregs
  teamBases h (b + groupBlock h vs) vs

/-- The teams of a placed gang, in order of group and team; each group's block begins as given. -/
def State.addTeams (s : State) (c : Cand) (g core0 : Nat) (blocks : List Nat) : State :=
  blocks.zipIdx.foldl (fun s (b, i) =>
    (c.hdr.bases b).zipIdx.foldl (fun s (base, j) => s.addTeam c g i j (core0 + i) base) s) s

/-- A gang on its cores, its groups' blocks as given. -/
def Gang.fresh (handle : Nat) (c : Cand) (cl core0 now : Nat) (blocks : List Nat) : Gang :=
  { handle := handle, src := c, st := .resident, cluster := cl, core0 := core0
    groups := blocks.zipIdx.map fun (b, i) => GroupSt.launch (core0 + i) b (groupBlock c.hdr (List.replicate c.hdr.teams c.hdr.vregs))
    off := false, image := none, placed := now, idle := 0, preempt := false, kill := false, carried := [] }

/-- A gang is placed at core c of a cluster: an acquire at system scope (R348). -/
def State.placeGang (s : State) (c : Cand) (cl core : Nat) : State :=
  let n := s.newId
  let core0 := cl * 8 + core
  let blocks := (List.range c.hdr.groups).map fun i => s.blockAt (core0 + i) c.hdr.footprint
  let s := { n.2 with gangs := FMap.put n.2.gangs n.1 (Gang.fresh n.1 c cl core0 s.now blocks) }
  (s.addTeams c n.1 core0 blocks).invalidateAll cl

/-- What the groups of a header need. -/
def KHdr.shape (h : KHdr) : List Shape := List.replicate h.groups { teams := h.teams, store := h.footprint }

/-- The waiting gang that a number names. -/
def State.candAt (s : State) (n : Nat) : Option Cand :=
  if n % 2 == 0 then (s.launch (n / 2)).bind Launch.next
  else (FMap.look (s.ctx (n / 2 % 128)).ticks (n / 2 / 128)).bind (·.cand)

/-- A tick slot changed. -/
def State.modTick (s : State) (c i : Nat) (f : TickSlot → TickSlot) : State :=
  s.modCtx c fun x => { x with ticks := FMap.modify x.ticks i f }

/-- A tick slot's gang no longer waits; a disarmed slot that held it is gone. -/
def State.clearTick (s : State) (c i : Nat) : State :=
  if i < 16 then s.modTick c i fun y => { y with cand := none }
  else s.modCtx c fun x => { x with ticks := FMap.del x.ticks i }

/-- A gang no longer waits: placed, it counts as launched; the last one of a counted launch leaves Placing. -/
def State.takeCand (s : State) (c : Cand) : State :=
  match c.origin with
  | .launch l => s.modLaunch l fun y =>
      if y.mode == modeCounted then
        { y with launched := y.launched + 1, st := if y.launched + 1 == y.count then .draining else y.st }
      else { y with cands := y.cands.drop 1 }
  | .tick x i => s.clearTick x i
  | .handler _ => s

/-- The status of a tick launch's record written in place (R392). -/
def State.tickStatus (s : State) (ctx lrec status : Nat) : State :=
  match s.agentWrite (s.schedWho ctx) (lrec + 2) (leBytes 2 status) with
  | .ok s => s
  | .error _ => s

/-- The gang no longer fits an empty core: the launch's unplaced gangs are dropped with TOOBIG (R349). -/
def State.dropCands (s : State) (c : Cand) : State :=
  match c.origin with
  | .launch l => s.modLaunch l fun y =>
      { y with cands := [], st := .draining, status := joinStatus y.status LStatus.toobig }
  | .tick x i => (s.clearTick x i).tickStatus x c.lrec LStatus.toobig
  | .handler _ => s

/-- GANG_PLACE of a waiting gang (R347 to R349). -/
def execGangPlace (l : Nat) (s : State) : Host.Outcome State Fault Refusal :=
  match s.candAt l with
  | none => stutter s
  | some c =>
    if !(s.ctx c.ctx).runs then stutter s
    else if s.spaceOf c.part c.ctx < c.hdr.footprint then .next (s.dropCands c)
    else
      match s.choosePlace (s.partClusters c.part c.ctx) (s.clustersFor c) c.hdr.shape c.hdr.lanes with
      | none => stutter s
      | some p => .next ((s.takeCand c).placeGang c p.1 p.2)

/-- The watchdog of a gang counts: it is Resident and a team of it is Ready, Waiting, Sleeping or Growing (R367). -/
def State.watched (s : State) (g : Gang) : Bool :=
  g.st == .resident && (s.teamsOf g.handle).any fun t => match t.st with
    | .ready | .waiting _ | .sleeping _ | .growing _ _ => true
    | _ => false

/-! ## Completion words (R346) -/

/-- The addition of a completion word at this package's execution point. -/
def State.countAt (s : State) (p : Place) (l : Loc) (v : Nat) : State :=
  let s := (s.touchWord p).touchHome p
  let s := s.locWrite p.slot l (leBytes 4 ((s.locNat p.slot l 4 + v) % 2 ^ 32))
  if v == 0 then s else s.wakeEvent l

/-- The completion word's `ATOM.addt.n32`: a value of 1 or more is a crossing and wakes every waiter; a word that faults is
not written and its record goes to the error record. -/
def State.countWord (s : State) (ctx va v : Nat) : State :=
  let w := s.schedWho ctx
  if va == 0 then s
  else
    match s.atomPlace w 4 va with
    | .error e =>
      match e.agentFault va 2 with
      | some f => s.errXlate ctx f.noTeam
      | none => s
    | .ok p =>
      let s := s.usePlace w .rmw p
      match p with
      | .dev _ pa =>
        match regionOf pa with
        | .pod k => s.byDie w.die fun s => s.sendOut k .request (.atomic pa 8 1 false (BitVec.ofNat 64 v) 0)
        | _ => s.countAt p (.dev pa) v
      | .win l => s.countAt p l v
      | .own _ _ => s

/-! ## The end of a gang (R167, R339, R346, R366) -/

/-- A stage's claim is done, with release at device scope (R339), at once or when its queue can be served again (R453). -/
def State.claimDone (s : State) (l : Launch) (c : Option Claim) : State :=
  match c with
  | none => s
  | some c =>
    let l : Launch := { l with undone := l.undone ++ [c] }
    (s.modLaunch l.id fun y => { y with undone := l.undone }).payClaims l

/-- A tick launch's record counts a gang as a counted launch's would (R392): its completion word is applied whether or not the
record can still be read. -/
def State.countTick (s : State) (g : Gang) (killed : Bool) : State :=
  let w := s.schedWho g.src.ctx
  let s := s.tickStatus g.src.ctx g.src.lrec (if killed then LStatus.killed else LStatus.ok)
  let s := match s.agentRead w (g.src.lrec + 48) 4 with
    | .error _ => s
    | .ok (bs, s) =>
      match s.agentWrite w (g.src.lrec + 48) (leBytes 4 ((leNat bs + 1) % 2 ^ 32)) with
      | .ok s => s
      | .error _ => s
  s.countWord g.src.ctx g.src.cword g.src.cvalue

/-- A gang that retired or was killed is counted where it came from. -/
def State.countGang (s : State) (g : Gang) (killed : Bool) : State :=
  match g.src.origin with
  | .launch l =>
    let s := s.modLaunch l fun y =>
      { y with retired := y.retired + 1, status := if killed then joinStatus y.status LStatus.killed else y.status }
    match s.launch l with
    | some x => s.claimDone x g.src.claim
    | none => s
  | .tick _ _ => s.countTick g killed
  | .handler core => s.modCore core fun c => if (c.hrun.map (·.1)) == some g.handle then { c with hrun := none } else c

/-- A gang leaves the machine: its teams, near slots and storage. -/
def State.removeGang (s : State) (g : Nat) : State :=
  let s := (s.teamsOf g).foldl (fun s t => s.dropNear t 0) s
  { s with teams := s.teams.filter (fun x => x.2.gang != g), gangs := FMap.del s.gangs g
           running := s.running.filter fun x => x.2.1 / 256 != g }

/-- The context has a gang on cores or saved. -/
def State.hasGang (s : State) (ctx : Nat) : Bool := s.gangs.any fun x => x.2.src.ctx == ctx

/-- A SWITCHOUT ends once no gang of the context is left on a core (R379). -/
def State.settleSwitch (s : State) (ctx : Nat) : State :=
  let c := s.ctx ctx
  if c.switching && !s.gangs.any (fun x => x.2.src.ctx == ctx && x.2.held) then
    s.modCtx ctx fun y => { y with st := .stopped, switching := false }
  else s

/-- A gang retires: its cluster's dirty bytes are written back, it is counted, and it is gone (R346). -/
def State.retireGang (s : State) (g : Gang) : State :=
  (((s.writeBackAll g.cluster).countGang g false).removeGang g.handle).settleSwitch g.src.ctx

/-- In-flight work of a team: pending completions and word-ops. -/
def State.teamBusy (s : State) (t : Team) : Bool :=
  !t.pend.isEmpty || (s.core t.core).ops.any fun w => w.team == t.id

/-- Records that a team appended are on their way to their slots; a faulted one belongs to its queue (R318, R333). -/
def State.rowsUnderWay (s : State) (t : Nat) : Bool :=
  s.eng.rows.any fun r => !r.faulted && (s.qaux r.block).owners.contains (r.index, t)

/-- TEAM_END: an ended team's in-flight work is complete, and the records it appended have landed (R422; log entry 38); its slot is free, its registrations leave (R237), and a gang whose
teams have all ended retires. -/
def execTeamEnd (t : Nat) (s : State) : Host.Outcome State Fault Refusal :=
  match s.team t with
  | none => stutter s
  | some u =>
    match s.gangOf u with
    | none => stutter s
    | some g =>
      if !(u.st == .ended && !u.freed && g.st == .resident && !s.teamBusy u && !s.rowsUnderWay t) then stutter s
      else
        let s := (((s.leaveBars u false).dropNear u 0).modTeam t fun v => { v with freed := true }).settleHalt u.gang u.group
        if (s.teamsOf u.gang).all (·.freed) then .next (s.retireGang g) else .next s

/-! ## The completion of a launch (R338, R342, R346) -/

/-- A launch has nothing left to place and no gang left. -/
def State.launchDone (s : State) (l : Launch) : Bool :=
  let gone := !s.gangs.any fun x => x.2.src.origin == .launch l.id
  match l.st with
  | .checking => l.status != 0
  | .placing => false
  | .draining =>
    match l.waits with
    | some st => ((s.launch st).map fun y => y.st == .complete).getD true
    | none => l.cands.isEmpty && l.undone.isEmpty && gone
  | .complete => false

/-- The steps of R346; the queue of a stage is unbound. -/
def State.completeLaunch (s : State) (l : Launch) : State :=
  let w := s.schedWho l.ctx
  let put (s : State) (va : Nat) (bs : List Byte) : State := match s.agentWrite w va bs with
    | .ok s => s
    | .error _ => s
  let s := put s (l.addr + 2) (leBytes 2 l.status)
  let s := put s (l.addr + 48) (leBytes 4 (l.retired % 2 ^ 32) ++ leBytes 4 (l.rejected % 2 ^ 32))
  let s := s.countWord l.ctx l.cword l.cvalue
  let s := match s.serve w l.queue with
    | (some (b, key, _), s) => s.qMarkDone key b l.index 1
    | (none, s) => s
  let s := s.withEng fun e => { e with qaux := e.qaux.map fun x => if x.bound == some l.id then { x with bound := none } else x }
  s.modLaunch l.id fun y => { y with st := .complete }

/-- LAUNCH_COMPLETE (R346); it waits while the launch queue's block cannot be used (R453). -/
def execLaunchComplete (l : Nat) (s : State) : Host.Outcome State Fault Refusal :=
  match s.launch l with
  | none => stutter s
  | some x =>
    if !(s.launchDone x && !s.isUnreached (s.schedWho x.ctx) x.queue) then stutter s
    else
      match s.serve (s.schedWho x.ctx) x.queue with
      | (none, s) => .next s
      | (some _, s) => .next (s.completeLaunch x)

end Sys2Proof.Machine
end

