-- ==== Sys2Proof/Machine/Life.lean ====
section
/-! DEFINITION. The life of a gang: TRAP, handler events, the watchdog, pre-emption, save and restore, kill, register growth
and the carve-out (spec/17_group.md; spec/18_context.md R379 to R381). -/

namespace Sys2Proof.Machine

/-! ## TRAP (R359, R360) -/

/-- The system-call record of a team whose TRAP names n arguments from sA. -/
def State.trapRecord (s : State) (t : Team) (code a n : Nat) : List Byte :=
  let arg (i : Nat) : SReg := if i < n then t.sreg (a + i) else SReg.none
  leBytes 8 (code + slotField t.slot * 2 ^ 16 + t.group * 2 ^ 21 + n * 2 ^ 24 + t.core * 2 ^ 32) ++
    leBytes 8 (t.pc % 2 ^ 32 + s.ctxOf t * 2 ^ 32) ++ leBytes 8 t.gang ++
    (List.range 4).flatMap (fun i => leBytes 8 (arg i).bits.toNat) ++
    leBytes 8 ((List.range 4).foldl (fun v i => v + (arg i).tag * 16 ^ i) 0)

/-- What an append to the system-call queue finds. -/
inductive Sent where
  | done (s : State)
  | full
  | malformed
  deriving DecidableEq, Repr

/-- One record appended to the context's system-call queue, as by a QAPP (R359). -/
def State.sendTrap (s : State) (t : Team) (record : List Byte) : Sent :=
  let ctx := s.ctxOf t
  let w := agentWho t.core ctx t.die
  match s.meetBlock w (s.ctx ctx).sysq with
  | .ok b key q p =>
    if q.kind != kindSyscall then .malformed
    else if q.head + 2 ^ q.rcap < q.resv + 1 then .full
    else
      .done (((s.usePlace w .rmw p).qReserve key b q 1 none).addRows (engineAgent t.bobbin) ctx key b q (some t.cluster) q.resv [record])
  | _ => .malformed

/-- System scope (R84). -/
def sysScope : Nat := 7

/-- TRAP: the team parks with its record sent or still to send; a malformed queue raises QUEUE. -/
def trapOp (o : Sys) (s : State) (t : Team) : Except Trap Done := do
  let n := bitsOf o.e.toNat 2 0
  let a := o.a.toNat
  require ((List.range n).all fun i => (t.sreg (a + i)).tag != Tag.none) Code.format
  let s := s.release t sysScope
  let park (s : State) (sent : Bool) : State :=
    s.modTeam t.id fun u => { u with st := .parked (.trap o.d.toNat sent (s.now + oneUs)) }
  match s.sendTrap t (s.trapRecord t o.imm.toNat a n) with
  | .done s => return .hold (park s true)
  | .full => return .hold (park s false)
  | .malformed => return .trap s (.err Code.queue none)

/-- TRAP (R359). -/
def execTrap (_ : Hd) (o : Sys) (s : State) : Host.Outcome State Fault Refusal := issue s (trapOp o)

/-- The TRAP a parked team stands at: its fields D, code, A and N. -/
def Team.trapFields (t : Team) : Option (Nat × Nat × Nat) :=
  match (t.clause.bind (·.words.head?)).map decodeWord with
  | some (.ok (.trap _ o)) => some (o.imm.toNat, o.a.toNat, bitsOf o.e.toNat 2 0)
  | _ => none

/-- TRAP_RETRY: the append to a full queue is tried again a microsecond later (R359). -/
def execTrapRetry (t : Nat) (s : State) : Host.Outcome State Fault Refusal :=
  match s.team t with
  | none => stutter s
  | some u =>
    match u.st, u.trapFields with
    | .parked (.trap d false next), some (code, a, n) =>
      if s.now < next then stutter s
      else
        match s.sendTrap u (s.trapRecord u code a n) with
        | .done s => .next (s.modTeam t fun v => { v with st := .parked (.trap d true next) })
        | .full => .next (s.modTeam t fun v => { v with st := .parked (.trap d false (s.now + oneUs)) })
        | .malformed => .next (s.takeTrap u (.err Code.queue none))
    | _, _ => stutter s

/-! ## The handler slot (R361 to R364) -/

/-- The handler kernel's header meets R361. -/
def handlerOk (h : KHdr) : Bool :=
  h.lanes == 32 && h.teams == 1 && h.groups == 1 && 256 ≤ h.scratch && h.footprint ≤ 32768

/-- The window address of group scratchpad (R69). -/
def groupWindow : Nat := winBase + 2 ^ 32 + 0x1000000

/-- What a handler's gang is set up with; the spec gives its SREAD values `args`, `gangidx`, `part` and `lflags` no value:
they are free (log entry 24). -/
def handlerCand (core ctx image fresh : Nat) (h : KHdr) : Cand :=
  let free (k : Nat) : Nat := (Config.handlerValue fresh k).toNat
  { origin := .handler core, ctx := ctx, part := free 0 % 2 ^ 32, ordinal := free 1, hdr := h, image := image, args := free 2
    record := groupWindow, lrec := 0, lflags := free 3 % 2 ^ 32, lanes := 32, cword := 0, cvalue := 0
    claim := none, range := none, rank := 0 }

/-- A group's scratchpad with bytes at its start, their words valid. -/
def GroupSt.withRecord (g : GroupSt) (bs : List Byte) : GroupSt :=
  { g with bytes := Memory.writeN g.bytes 0 bs, valid := 2 ^ (bs.length / 4) - 1 }

/-- The handler's 32 KiB of a core store (R58): the last, beyond every allocation space. -/
def handlerBase : Nat := allocSpace 0

/-- The handler kernel is placed afresh in a core's slot for an event (R362). -/
def State.placeHandler (s : State) (core : Nat) (ev : HEvent) (h : KHdr) : State :=
  let n := s.newId
  let c := handlerCand core ev.ctx (s.ctx ev.ctx).handler s.fresh h
  let g := Gang.fresh n.1 c (core / 8) core s.now [handlerBase]
  let g := { g with groups := g.groups.map fun x => x.withRecord ev.record }
  let s := { n.2 with gangs := FMap.put n.2.gangs n.1 g }
  let s := s.setTeam (Team.launch c n.1 0 0 32 (s.bindPipe core) ((h.bases handlerBase).headD 0) s.now)
  (s.modCore core fun x => { x with hq := x.hq.drop 1, hrun := some (n.1, ev) }).invalidateAll (core / 8)

/-- The slot stops with an event it cannot serve: the kernel bound is no handler or cannot be read (log entry 24). -/
def State.failHandler (s : State) (core : Nat) (ev : HEvent) : State :=
  (s.modCore core fun x => { x with hq := x.hq.drop 1, hstop := some ev.ctx }).errItem ev.ctx 6 Code.access core
    (ev.record ++ leBytes 8 Code.access)

/-- HANDLER_EVENT: the slot of a core takes its next event (R362). -/
def execHandlerEvent (c : Nat) (s : State) : Host.Outcome State Fault Refusal :=
  let x := s.core c
  match x.hq.head? with
  | none => stutter s
  | some ev =>
    if x.hrun.isSome || x.hstop.isSome || !(s.ctx ev.ctx).runs then stutter s
    else
      match s.readHeader ev.ctx (s.ctx ev.ctx).handler with
      | none => .next (s.failHandler c ev)
      | some (h, s) => if handlerOk h then .next (s.placeHandler c ev h) else .next (s.failHandler c ev)

/-! ## Resume (R365, R359) -/

/-- A team state that a resume acts on. -/
def TeamState.resumable : TeamState → Bool
  | .parked _ => true
  | .halted => true
  | _ => false

/-- The state that a saved team will be restored in, or the team's own. -/
def Team.standing (t : Team) : TeamState := if t.st == .saved then t.back else t.st

/-- A resumed team: a trap takes its reply and goes on at the next clause; any other re-issues at its program counter, what
met a replayable fault with a fresh walk (R205). -/
def Team.resume (now : Nat) (reply : Word) (t : Team) : Team :=
  match t.standing with
  | .parked (.trap d _ _) => ((t.setS d reply Tag.i64).advance now).ready
  | .parked .replay => { t.ready with afresh := true }
  | _ => t.ready

/-- The resume of a team; a trap's is an acquire at system scope, and the TRAP retires (R359, R367). -/
def State.resume (s : State) (t : Team) (reply : Word) : State :=
  let trap : Bool := match t.standing with
    | .parked (.trap _ _ _) => t.st != .saved
    | _ => false
  let s := if trap then (s.acquire t sysScope).touch t.gang else s
  s.modTeam t.id (Team.resume s.now reply)

/-! ## The watchdog (R367) -/

/-- The watchdog halts a group with HANG; one that another halt has stopped gets its event beside that halt's (R367). -/
def State.hangGroup (s : State) (g : Gang) (i : Nat) : State :=
  match (g.groups[i]?).bind (·.halt) with
  | some _ => s.pushEvent g i 2 Code.hang none
  | none => s.haltGroup g.handle i Code.hang none none

/-- WATCHDOG_EXPIRY: every group of the gang halts with HANG. -/
def execWatchdogExpiry (g : Nat) (s : State) : Host.Outcome State Fault Refusal :=
  match s.gang g with
  | none => stutter s
  | some x =>
    let time := (s.ctx x.src.ctx).wdog
    if !(time != 0 && s.watched x && !x.isHandler && !s.svc.stalls.any (·.lifted.isNone) && time * oneUs ≤ x.idle) then stutter s
    else
      .next (((List.range x.groups.length).foldl (fun s i => s.hangGroup x i) s).modGang g fun y => { y with idle := 0 })

/-! ## Pre-emption (R368 to R370, R372) -/

/-- The state a stopped team is restored in. -/
def TeamState.saveAs (now : Nat) : TeamState → TeamState
  | .sleeping wake => .sleeping (wake - now)
  | .waiting _ => .ready
  | .growing _ _ => .ready
  | st => st

/-- A team stops: its wait is withdrawn, and it waits to be saved. -/
def State.stopTeam (s : State) (t : Team) : State :=
  if t.st == .ended || t.st == .saved then s
  else (s.withdraw t).modTeam t.id fun u => { u with back := t.st.saveAs s.now, st := .saved, skidLeft := 0 }

/-- A handler event for the gang is in progress. -/
def State.handled (s : State) (g : Nat) : Bool := s.cores.any fun c => (c.2.hrun.map (·.2.gang)) == some g

/-- A halt's skid still runs in a group of the gang. -/
def Gang.halting (g : Gang) : Bool := g.groups.any (·.halt.isSome)

/-- A pre-emption of the gang may stop it: its context switches, or one was asked for, no handler serves it, and it is no
handler's (R361, R368). -/
def State.stops (s : State) (g : Gang) : Bool :=
  g.st == .resident && !g.halting && ((s.ctx g.src.ctx).switching || (g.preempt && !s.handled g.handle && !g.isHandler))

/-- PREEMPT_STOP: no team of the gang begins an instruction from now on. -/
def execPreemptStop (g : Nat) (s : State) : Host.Outcome State Fault Refusal :=
  match s.gang g with
  | none => stutter s
  | some x =>
    if !s.stops x then stutter s
    else .next (((s.teamsOf g).foldl State.stopTeam s).modGang g fun y => { y with st := .saving, preempt := false })

/-- A place lies in the windows of a gang. -/
def Loc.ofGang (g : Nat) : Loc → Bool
  | .scratch h _ _ => h == g
  | .cluster h _ => h == g
  | _ => false

/-- An item that the gang's drain waits for: a direct item of one of its teams (R333), or a chain entry in flight that arrives
on a barrier in its windows (R247). A collective item belongs to its engine alone (R406). -/
def State.itemOf (s : State) (g : Nat) : Bool :=
  s.eng.items.any fun i => match i.src with
    | .direct _ => i.team.any fun t => t / 256 == g
    | .chain .. => i.begun && i.barLoc.any (Loc.ofGang g)

/-- Nothing of the gang is in flight (R369). -/
def State.drained (s : State) (g : Nat) : Bool := !(s.teamsOf g).any s.teamBusy && !s.itemOf g

/-- The events queued for a gang leave their cores. -/
def State.takeEvents (s : State) (g : Nat) : List (Nat × Nat × List Byte) × State :=
  (s.cores.flatMap fun c => (c.2.hq.filter (·.gang == g)).map fun e => (e.group, e.kind, e.record),
    { s with cores := s.cores.map fun c => (c.1, { c.2 with hq := c.2.hq.filter (·.gang != g) }) })

/-- The event a saved handler serves goes with its image; its slot is free. -/
def State.takeRunning (s : State) (g : Gang) : List (Nat × Nat × List Byte) × State :=
  match g.src.origin with
  | .handler core =>
    match (s.core core).hrun with
    | some (h, ev) =>
      if h == g.handle then ([(ev.group, ev.kind, ev.record)], s.modCore core fun c => { c with hrun := none }) else ([], s)
    | none => ([], s)
  | _ => s.takeEvents g.handle

/-! ## Save images (R370, R379, R380) -/

/-- What a save image holds: its version, its context, the tags and team states its checks look at, its reserved fields, and
the gang with its teams (R370, R380). -/
structure Image where
  version  : Nat
  ctx      : Nat
  tags     : List Nat
  accTags  : List Nat
  states   : List Nat
  reserved : Nat
  gang     : Gang
  teams    : List Team
  deriving DecidableEq, Repr

end Sys2Proof.Machine

namespace Sys2Proof.Config

/-- FREE VALUE: the plaintext of a save image but for its digest, and what a plaintext holds: R370 gives the sections of an
image no byte layout. Log entry 12. -/
opaque imageForm : Machine.Image → List Byte
/-- FREE VALUE: what the plaintext of a save image holds. Log entry 12. -/
opaque imageOf : List Byte → Option Machine.Image

end Sys2Proof.Config

namespace Sys2Proof.Machine

/-- The code of an accumulator tag (R49). -/
def AccTag.code : AccTag → Nat
  | .a64 => 1
  | .rank => 2

/-- The image of a gang. A team that has ended has no state in it (log entry 12). -/
def State.imageFor (s : State) (g : Gang) : Image :=
  let ts := s.teamsOf g.handle
  { version := 0x0100, ctx := g.src.ctx
    tags := ts.flatMap fun t => t.file.tags.map (·.2) ++ t.sregs.map (·.2.tag)
    accTags := ts.flatMap fun t => t.acc.tags.map (·.2.code)
    states := (ts.filter fun t => t.st != .ended).map fun t => t.back.code
    reserved := 0, gang := g, teams := ts }

/-- The digest that ends an image (R379). -/
def imageDigest (p : List Byte) : List Byte := padTo 64 ((Config.shake256 p).take 64)

/-- The n bytes of an image: its plaintext and its digest. -/
def imageText (n : Nat) (i : Image) : List Byte :=
  let p := padTo (n - 64) ((Config.imageForm i).take (n - 64))
  p ++ imageDigest p

/-- The check of R380 that the bytes of an image fail: 1 to 6, or 0. -/
def imageCheck (ctx : Nat) (bs : List Byte) (i : Option Image) : Nat :=
  let p := bs.take (bs.length - 64)
  if bs.drop (bs.length - 64) != imageDigest p then 1
  else
    match i with
    | none => 6
    | some i =>
      if i.version != 0x0100 then 2 else if i.ctx != ctx then 3
      else if i.tags.any fun x => 13 ≤ x then 4 else if i.accTags.contains 3 then 5
      else if i.states.contains 7 || i.reserved != 0 then 6 else 0

/-- Bytes of a gang's groups. -/
def State.allocation (s : State) (g : Gang) : Nat :=
  ((List.range g.groups.length).map fun i => Machine.footprint g.src.hdr (s.vregsOf g.handle i)).foldl (· + ·) 0

/-- Bytes of the image of a gang: its allocation and 4 KiB, or a handler slot (R379). -/
def State.imageBytes (s : State) (g : Gang) : Nat := if g.isHandler then 32768 else s.allocation g + 4096

/-- Where in its context's save area an image of n bytes is written: the lowest free place (log entry 12). -/
def State.imagePlace (s : State) (ctx n : Nat) : Option Nat :=
  let c := s.ctx ctx
  let used := (s.gangs.map (·.2)).filterMap fun g =>
    if g.src.ctx == ctx then g.image.map fun x => (x.1 - c.save, s.imageBytes g) else none
  (firstFit used (c.saveSize * 2 ^ 20) n).map (c.save + ·)

/-- The image of a gang is written to its context's save area under the context's slot (R370, R379). -/
def State.writeImage (s : State) (g : Gang) : State :=
  let n := s.imageBytes g
  match s.imagePlace g.src.ctx n with
  | none => s
  | some pa =>
    let bs := imageText n (s.imageFor g)
    (s.withMem fun _ => (s.homeWrite (some (s.ctx g.src.ctx).key) pa bs).mem).modGang g.handle fun y => { y with image := some (pa, bs) }

/-- A team of a gang that is killed stops. One on a core has ended; one that had ended by EXIT leaves its barriers as it would
have (R237). -/
def State.killTeam (s : State) (inImage : Bool) (t : Team) : State :=
  if t.st == .ended then s.leaveBars t false
  else if inImage then s
  else (s.withdraw t).modTeam t.id fun u => { u with st := .ended, skidLeft := 0 }

/-- A kill takes effect: every team stops (R366 step 1). -/
def State.killGang (s : State) (g : Gang) : State :=
  let clear (y : Gang) : Gang :=
    { y with st := .killed, preempt := false, kill := false, groups := y.groups.map fun x => { x with halt := none } }
  ((s.teamsOf g.handle).foldl (State.killTeam · g.off) s).modGang g.handle clear

/-- A kill is accepted: that of a gang being saved follows its image (R354). -/
def State.acceptKill (s : State) (g : Gang) : State :=
  if g.st == .saving then s.modGang g.handle fun y => { y with kill := true } else s.killGang g

/-- A kill of the gang has been accepted. -/
def Gang.dying (g : Gang) : Bool := g.st == .killed || g.kill

/-- A gang's image is written: its cluster's dirty bytes go home, its reader counts to its die (R103, R296, R370). -/
def State.saveGang (s : State) (g : Gang) : State :=
  let s := s.writeBackAll g.cluster
  let s := (s.teamsOf g.handle).foldl (fun s t => (s.parkReaders t).dropNear t 0) s
  let r := s.takeRunning g
  let s := r.2.modGang g.handle fun y => { y with st := .saved, off := true, carried := r.1 }
  let s := (match s.gang g.handle with | some y => s.writeImage y | none => s).settleSwitch g.src.ctx
  match s.gang g.handle with
  | some y => if y.kill then s.killGang y else s
  | none => s

/-- SAVE_COMPLETE (R370). -/
def execSaveComplete (g : Nat) (s : State) : Host.Outcome State Fault Refusal :=
  match s.gang g with
  | none => stutter s
  | some x => if x.st == .saving && s.drained g then .next (s.saveGang x) else stutter s

/-! ## The end of a killed gang and of a destroyed context (R366, R381) -/

/-- The domain slots of a context are unbound with their waiting entries discarded. -/
def State.dropRetires (s : State) (ctx : Nat) : State :=
  let s := s.withSched fun x => { x with retires := x.retires.filter (·.ctx != ctx) }
  (s.ctx ctx).doms.foldl (fun s d => s.settleWait d.2.dom) s

/-- Bytes held under a slot whose key is gone are no data of any slot (R80, R381): they become free values. -/
def State.dropKey (s : State) (slot : Nat) : State :=
  let lines := s.mem.lines.filter fun l => l.2 == slot
  let s' := lines.foldl (fun t l =>
    (List.range 512).foldl (fun t i => t.rawWrite (l.1 * 512 + i) (Config.garble s.fresh (l.1 * 512 + i))) t) s
  s'.withSched fun x => { x with keys := FMap.del x.keys slot }

/-- The first-level copies under a slot are written back and dropped. -/
def State.flushSlot (s : State) (slot : Nat) : State :=
  s.mem.l1.foldl (fun s c => c.2.foldl (fun s l => if l.slot == slot then s.l1Evict c.1 l.line else s) s) s

/-- Steps 2 to 5 of DESTROY, once its gangs are gone (R381). What its engines still held goes with it (log entry 25). -/
def State.freeContext (s : State) (ctx : Nat) : State :=
  let c := s.ctx ctx
  let s := s.dropRetires ctx
  let s := s.withSched fun x =>
    { x with
      parts := x.parts.filter (·.ctx != ctx)
      wins := x.wins.filter (·.ctx != ctx)
      frames := x.frames.filter (·.ctx != ctx)
      launches := x.launches.filter (·.ctx != ctx) }
  let s := s.withEng fun e =>
    { e with
      unreached := e.unreached.filter (·.ctx != ctx)
      rows := e.rows.filter (·.ctx != ctx)
      items := e.items.filter (·.ctx != ctx)
      colls := e.colls.filter (·.ctx != ctx)
      seqs := e.seqs.filter (fun x => x.1 % 128 != ctx) }
  let quiet (x : Core) : Core :=
    { x with hq := x.hq.filter (·.ctx != ctx), hstop := if x.hstop == some ctx then none else x.hstop }
  let s := { s with cores := s.cores.map fun (x : Nat × Core) => (x.1, quiet x.2) }
  let s := s.withMem fun m => { m with tlb := m.tlb.filter (·.ctx != ctx), walks := m.walks.filter (·.ctx != ctx) }
  ((s.flushSlot c.key).dropKey c.key).modCtx ctx fun _ => Ctx.free

/-- A launch that the kill of its context ends (R338, R345): one with gangs still to place has these killed; else its status is
what its gangs gave it, and a stop record's is OK (R342; log entry 38). -/
def Launch.killStatus (l : Launch) : Nat :=
  let unplaced := if l.mode == modeCounted then l.st == .placing else !l.cands.isEmpty
  if unplaced then joinStatus l.status LStatus.killed else l.status

/-- A context's launches are Complete (R338). -/
def State.killLaunches (s : State) (ctx : Nat) : State :=
  (s.sched.launches.filter fun l => l.ctx == ctx && l.st != .complete).foldl (fun s l =>
    s.completeLaunch { l with status := l.killStatus }) s

/-- DESTROY ends once no gang of a Draining context is left. -/
def State.settleDestroy (s : State) (ctx : Nat) : State :=
  if (s.ctx ctx).st == .draining && !s.hasGang ctx then (s.killLaunches ctx).freeContext ctx else s

/-- The reader counts and registrations of a gang's teams are released (R237, R296, R366). -/
def State.releaseTeams (s : State) (g : Nat) : State :=
  (s.teamsOf g).foldl (fun s t => (s.dropReaders t).leaveBars t true) s

/-- A killed gang is gone: counts, registrations, pending events and storage, counted KILLED (R366). -/
def State.endKill (s : State) (g : Gang) : State :=
  let s := s.releaseTeams g.handle
  let s := (s.takeEvents g.handle).2
  (((s.countGang g true).removeGang g.handle).settleSwitch g.src.ctx).settleDestroy g.src.ctx

/-- KILL_COMPLETE: the killed gang's drain has ended; a kill is a release over its accesses. -/
def execKillComplete (g : Nat) (s : State) : Host.Outcome State Fault Refusal :=
  match s.gang g with
  | none => stutter s
  | some x =>
    if !(x.st == .killed && s.drained g) then stutter s
    else .next ((if x.off then s else s.writeBackAll x.cluster).endKill x)

/-! ## Restore (R371, R380) -/

/-- No pipe: a team whose restore has not reached it. -/
def noPipe : Nat := 2 ^ 32

/-- A restored team's state. -/
def TeamState.restoreAt (now : Nat) : TeamState → TeamState
  | .sleeping d => .sleeping (now + d)
  | st => st

/-- A team bound to its new core: its reader counts move, its region is refilled; one that has ended keeps its slot there until
it is freed (R167). -/
def State.restoreTeam (s : State) (core slot die base : Nat) (t : Team) : State :=
  let ended := t.st == .ended
  let u := { t with slot := slot, pipe := s.bindPipe core, base := base, st := if ended then .ended else t.back.restoreAt s.now
                    passed := none, boost := false, lastIssue := 2 * s.now }
  if ended then s.setTeam u else ((s.setTeam u).unparkReaders u die).fillRegion u u.region

/-- Where the block of a gang's team begins, its groups' blocks as given. -/
def State.restoredBase (s : State) (g : Gang) (blocks : List Nat) (t : Team) : Nat :=
  let vs := s.vregsOf g.handle t.group
  let at' := ((s.teamsOfGroup g.handle t.group).map Team.id).idxOf t.id
  (teamBases g.src.hdr (blocks.getD t.group 0 + groupBlock g.src.hdr vs) vs).getD at' 0

/-- A gang's teams back on cores from core0. -/
def State.restoreTeams (s : State) (g : Gang) (core0 : Nat) (blocks : List Nat) : State :=
  let ts := (s.teamsOf g.handle).filter fun t => !t.freed
  let s := ts.foldl (fun s t => s.modTeam t.id fun u => { u with pipe := noPipe }) s
  ts.foldl (fun s t =>
    let core := core0 + t.group
    s.restoreTeam core (if g.isHandler then 32 else s.freeSlot core) t.die (s.restoredBase g blocks t) t) s

/-- The carried events are queued at the restored gang's cores, or run again in the handler's slot. -/
def State.giveEvents (s : State) (g : Gang) (core0 : Nat) : State :=
  g.carried.foldl (fun s e =>
    let ev : HEvent := { ctx := g.src.ctx, gang := if g.isHandler then leNat ((e.2.2.drop 8).take 8) else g.handle
                         group := e.1, kind := e.2.1, record := e.2.2 }
    if g.isHandler then s.modCore core0 fun c => { c with hrun := some (g.handle, ev) }
    else s.modCore (core0 + e.1) fun c => { c with hq := c.hq ++ [ev] }) s

/-- A gang resident again at a place. -/
def State.restoreGang (s : State) (g : Gang) (core0 : Nat) : State :=
  let cl := core0 / 8
  let blocks := (List.range g.groups.length).map fun i =>
    if g.isHandler then handlerBase else s.blockAt (core0 + i) (footprint g.src.hdr (s.vregsOf g.handle i))
  let here (y : Gang) : Gang :=
    { y with
      st := .resident, off := false, image := none, cluster := cl, core0 := core0, placed := s.now, idle := 0, carried := []
      src := if g.isHandler then { y.src with origin := .handler core0 } else y.src
      groups := y.groups.zipIdx.map fun (x, i) =>
        { x with core := core0 + i, base := blocks.getD i 0, size := groupBlock g.src.hdr (s.vregsOf g.handle i) } }
  (((s.modGang g.handle here).restoreTeams g core0 blocks).giveEvents g core0).invalidateAll cl

/-- Memory that an image holds, in canonical form. -/
def Memory.canon (m : Memory) : Memory := m.foldl (fun a c => Memory.write a c.1 c.2) []

/-- The state of a team as an image holds it: its registers, masks, tables, storage and where it stands. Its place, its shape and
its modes are those of its kernel. -/
def Team.loadFrom (t i : Team) : Team :=
  { t with
    vregs := i.vregs, back := i.back, pc := i.pc, clause := i.clause, cur := i.cur, exited := i.exited, stack := i.stack, x := i.x
    sregs := i.sregs, preds := i.preds, kregs := i.kregs, file := i.file, acc := i.acc, sticky := i.sticky, readers := i.readers
    bars := i.bars, prick := i.prick, region := i.region, store := Memory.canon i.store, skid := i.skid, err := i.err, xrec := i.xrec }

/-- A group's scratchpad and cluster-memory share as an image holds them. -/
def GroupSt.loadFrom (g i : GroupSt) : GroupSt :=
  { g with bytes := Memory.canon i.bytes, valid := i.valid, share := Memory.canon i.share, svalid := i.svalid }

/-- A saved gang takes what an image that software has written in the place of its own holds. -/
def State.loadImage (s : State) (g : Gang) (i : Image) : State :=
  let s := i.teams.foldl (fun s u => s.modTeam (g.handle * 256 + u.group * 16 + u.index) fun t =>
    if t.st == .saved then t.loadFrom u else t) s
  s.modGang g.handle fun y =>
    { y with carried := i.gang.carried, groups := y.groups.zipIdx.map fun (x, k) => ((i.gang.groups[k]?).map x.loadFrom).getD x }

/-- What a restore finds of a gang's image: the check of R380 that it fails, 0 for none, and, where its bytes are not those that
were written, what it holds. -/
def State.readImage (s : State) (g : Gang) : Nat × Option Image :=
  match g.image with
  | none => (0, none)
  | some (pa, bs) =>
    let now := s.homeRead (some (s.ctx g.src.ctx).key) pa (s.imageBytes g)
    if now == bs then (imageCheck g.src.ctx bs (some (s.imageFor g)), none)
    else
      let i := Config.imageOf (now.take (now.length - 64))
      (imageCheck g.src.ctx now i, i)

/-- An image that fails a check: the gang is killed and logged (R380). -/
def State.rejectImage (s : State) (g : Gang) (check : Nat) : State :=
  (s.errItem g.src.ctx 8 0 noCore (leBytes 8 g.handle ++ leBytes 8 check)).endKill g

/-- What the groups of a saved gang need. -/
def State.shapeOf (s : State) (g : Gang) : List Shape :=
  (List.range g.groups.length).map fun i =>
    { teams := ((s.teamsOfGroup g.handle i).filter fun t => !t.freed).length
      store := footprint g.src.hdr (s.vregsOf g.handle i) }

/-- The core a saved handler goes back to: that of the group its event is for, or its own (log entry 24). -/
def State.handlerCore (s : State) (g : Gang) : Nat :=
  match g.carried.head? with
  | none => g.core0
  | some e =>
    match s.gang (leNat ((e.2.2.drop 8).take 8)) with
    | none => g.core0
    | some x => ((x.groups[e.1]?).map (·.core)).getD g.core0

/-- The place of a saved gang: its lowest core. -/
def State.restorePlace (s : State) (g : Gang) : Option Nat :=
  if g.isHandler then
    let c := s.handlerCore g
    if (s.core c).hrun.isNone && (s.core c).hstop.isNone && s.coreUsable c then some c else none
  else
    (s.choosePlace (s.partClusters g.src.part g.src.ctx) (s.clustersFor g.src) (s.shapeOf g) g.src.hdr.lanes).map
      fun p => p.1 * 8 + p.2

/-- GANG_RESTORE (R371). -/
def execGangRestore (g : Nat) (s : State) : Host.Outcome State Fault Refusal :=
  match s.gang g with
  | none => stutter s
  | some x =>
    if !(x.st == .saved && (s.ctx x.src.ctx).runs) then stutter s
    else
      match s.restorePlace x with
      | none => stutter s
      | some core0 =>
        let r := s.readImage x
        if r.1 != 0 then .next (s.rejectImage x r.1)
        else
          match r.2 with
          | none => .next (s.restoreGang x core0)
          | some i =>
            let s := s.loadImage x i
            .next (s.restoreGang ((s.gang g).getD x) core0)

/-! ## Register growth (R188, R373) -/

/-- The Growing team of a core that waits longest. -/
def State.oldestGrowing (s : State) (core : Nat) : Option (Team × Nat) :=
  (s.teams.map (·.2)).findSome? fun t =>
    match t.st with
    | .growing g since => if t.core == core && !s.growingBefore t since then some (t, g) else none
    | _ => none

/-- A Growing team gets its registers and goes on. -/
def State.grantGrowth (s : State) (t : Team) (g : Nat) : State :=
  (s.moveGrown t g).endWait t.id fun u => s.grown u g

/-- RGROW_GRANT: oldest first (R188). -/
def execRgrowGrant (c : Nat) (s : State) : Host.Outcome State Fault Refusal :=
  match s.oldestGrowing c with
  | none => stutter s
  | some (t, g) => if s.canGrow t g then .next (s.grantGrowth t g) else stutter s

/-- Every resident team of a core is Growing. -/
def State.allGrowing (s : State) (core : Nat) : Bool :=
  let ts := (s.teams.map (·.2)).filter fun t => s.onCore core t && t.st != .ended
  !ts.isEmpty && ts.all fun t => match t.st with
    | .growing _ _ => true
    | _ => false

/-- Gangs with a group on a core, the last placed or restored first. -/
def State.youngestOn (s : State) (core : Nat) : List Gang :=
  let gs := s.heldGangs.filter fun g => g.groups.any (·.core == core)
  gs.foldl (fun l g =>
    match l with
    | [] => [g]
    | y :: r => if y.placed ≤ g.placed then g :: y :: r else y :: g :: r) []

/-- The core of the one gang that holds storage there is compacted, with the growth of its oldest team made: the blocks of its
group are packed from the start of the allocation space (R373). -/
def State.compactGrow (s : State) (g : Gang) (t : Team) (n : Nat) : State :=
  let h := g.src.hdr
  let v := grownVregs t.vregs n
  let ts := s.teamsOfGroup g.handle t.group
  let vs := ts.map fun u => if u.id == t.id then v else u.vregs
  let s := s.modGang g.handle fun y => y.modGroup t.group fun x => { x with base := 0, size := groupBlock h vs }
  let s := (ts.zip (teamBases h (groupBlock h vs) vs)).foldl (fun s x => s.modTeam x.1.id fun u => { u with base := x.2 }) s
  s.endWait t.id fun u => { u with vregs := v }

/-- GROWTH_DEADLOCK: the youngest gang of the core is pre-empted; when it is the only one, the core is compacted and the
oldest team granted (R373). -/
def execGrowthDeadlock (c : Nat) (s : State) : Host.Outcome State Fault Refusal :=
  if !s.allGrowing c then stutter s
  else
    match s.oldestGrowing c, s.youngestOn c with
    | some (t, n), [g] => if s.canGrow t n then .next (s.grantGrowth t n) else .next (s.compactGrow g t n)
    | some (t, n), g :: _ :: _ =>
      if s.canGrow t n || g.preempt then stutter s else .next (s.modGang g.handle fun y => { y with preempt := true })
    | _, _ => stutter s

/-! ## The carve-out (R374) -/

/-- The statuses of a carve-out change. -/
def carveOk : Nat := 0
def carveTimeout : Nat := 1
def carveBadArg : Nat := 2
def carveBusy : Nat := 3

/-- Clusters of a partition by number. -/
def State.clustersOf (s : State) (p : Nat) : List Nat := ((s.sched.parts.find? (·.num == p)).map (·.clusters)).getD []

/-- Every core of a change's clusters can give up the store its ways will take: no group holds any of it. -/
def State.reserved (s : State) (x : Carve) : Bool :=
  (s.clustersOf x.part).all fun cl => (List.range 8).all fun i =>
    (s.extents (cl * 8 + i) none).all fun e => e.1 + e.2 ≤ allocSpace x.ways

/-- The lines of a cluster beyond a number of ways of their set, in order of use. -/
def linesBeyond (ways : Nat) (ls : List L1Line) : List Nat :=
  (ls.zipIdx.filter fun (l, i) => ways ≤ ((ls.take i).filter fun k => l1Set k.line == l1Set l.line).length).map (·.1.line)

/-- A cluster's ways are changed: the lines of the removed ways are written back and dropped. -/
def State.setWays (s : State) (cl ways : Nat) : State :=
  let s := (linesBeyond ways (s.l1Lines cl)).foldl (fun s l => s.l1Evict cl l) s
  s.withMem fun m => { m with ways := FMap.putD m.ways cl ways 4 }

/-- A pending change is gone. -/
def State.dropCarve (s : State) (x : Carve) : State := s.withSched fun y => { y with carves := y.carves.filter (· != x) }

end Sys2Proof.Machine
end

