-- ==== Sys2Proof/Machine/Context.lean ====
section
/-! DEFINITION. Contexts: the command ring, the context commands and CTXQ, descriptors, partitions, key slots, switching,
destroying and the carve-out (spec/18_context.md; spec/17_group.md R374; spec/20_link.md R407, R408). -/

namespace Sys2Proof.Machine

/-! ## Command rings (R377, R408) -/

/-! Command status (R377). -/
namespace CStat
def ok : Nat := 0
def state : Nat := 1
def handle : Nat := 2
def arg : Nat := 3
def denied : Nat := 4
def nospace : Nat := 5
end CStat

/-- A command as its entry names it: the function that issues it, its value, its context and its operands. -/
structure Cmd where
  func  : Nat
  value : Nat
  ctx   : Nat
  op0   : Nat
  op1   : Nat
  op2   : Nat
  deriving DecidableEq, Repr

/-- What a command does: its status, the value it returns, and the state. -/
structure Answer where
  status : Nat
  value  : Nat
  state  : State
  deriving DecidableEq, Repr

/-- A status that changes nothing. -/
def State.answer (s : State) (status : Nat) : Answer := { status := status, value := 0, state := s }

/-- The command registers of a function (log entry 4). -/
def State.func (s : State) (f : Nat) : Func :=
  FMap.lookD s.host.funcs f { cmdbase := 0, cmdsize := 0, cmdprod := 0, cmdcons := 0 }

/-- A host address as a physical one (R197). -/
def hostPa (a : Nat) : Nat := 2 ^ 55 + a % 2 ^ 54

/-- The entry at CMDCONS of a function's ring. -/
def Func.entryPa (x : Func) : Nat := hostPa (x.cmdbase + 64 * (x.cmdcons % 2 ^ x.cmdsize))

/-- A command of the function is not complete (R201, R374). -/
def State.commandPending (s : State) (f : Nat) : Bool :=
  s.sched.invals.any (·.func == f) || s.sched.carves.any (·.func == f)

/-- The next command of a function, in ring order. The unassigned bits of an entry are ignored (R377, R408; log entry 53). -/
def State.command (s : State) (f : Nat) : Option Cmd :=
  let x := s.func f
  if f < 64 && 4 ≤ x.cmdsize && x.cmdsize ≤ 12 && x.cmdprod != x.cmdcons && !s.commandPending f then
    let v := leNat (s.homeRead none x.entryPa 32)
    some
      { func := f, value := bitsOf v 7 0, ctx := bitsOf v 14 8, op0 := bitsOf v 127 64, op1 := bitsOf v 191 128
        op2 := bitsOf v 255 192 }
  else none

/-- A command completes: its status and value are written, CMDCONS advances, vector 0 is raised (R408). -/
def State.finish (s : State) (f status value : Nat) : State :=
  let x := s.func f
  let s := s.homeWrite none (x.entryPa + 32) (leBytes 8 status ++ leBytes 8 value)
  let s := s.withHost fun h => { h with funcs := FMap.put h.funcs f { x with cmdcons := (x.cmdcons + 1) % 2 ^ 64 } }
  s.interrupt f 0

/-- The issuer may not name the context (R377). -/
def State.denies (s : State) (f ctx : Nat) : Bool := f != 0 && (s.ctx ctx).func != f

/-- A context command of a function's ring, if it is the next one. -/
def State.runCommand (s : State) (f value : Nat) (act : State → Cmd → Answer) : Host.Outcome State Fault Refusal :=
  match s.command f with
  | none => stutter s
  | some c =>
    if c.value != value then stutter s
    else
      let a := if s.denies f c.ctx then s.answer CStat.denied else act s c
      .next (a.state.finish f a.status a.value)

/-- A command of the physical function alone. -/
def State.runPhysical (s : State) (f value : Nat) (act : State → Cmd → Answer) : Host.Outcome State Fault Refusal :=
  s.runCommand f value fun s c => if f != 0 then s.answer CStat.denied else act s c

/-! ## STATE, RESUMET, RESUMEG, KILL, INVAL, ERRSTAT (R365, R366, R377, R380, R383) -/

/-- The value of a context state (R375). -/
def CtxState.code : CtxState → Nat
  | .free => 0
  | .bound => 1
  | .running => 2
  | .stopped => 3
  | .draining => 4

/-- A context that its commands act on: live and not Draining. -/
def Ctx.live (c : Ctx) : Bool := c.st == .bound || c.st == .running || c.st == .stopped

/-- The state word of a context (R380). -/
def State.stateWord (s : State) (c : Nat) : Nat :=
  let x := s.ctx c
  let parts := (List.range 16).filter fun p => s.sched.parts.any fun y => y.num == p && y.ctx == c
  x.st.code + c * 2 ^ 8 + x.func * 2 ^ 16 + (parts.map fun p => 2 ^ (32 + p)).foldl (· + ·) 0

/-- The error-record counts (R383). -/
def State.errStat (s : State) (c : Nat) : Nat :=
  let x := s.ctx c
  let field (o n : Nat) : Nat := leNat (s.homeRead (some x.key) (x.errec + o) n)
  min (field 0 8 - field 8 8) (2 ^ 32 - 1) + min (field 16 4) (2 ^ 24 - 1) * 2 ^ 32

/-- The gang of a context that a handle names (R377). -/
def State.named (s : State) (c h : Nat) : Option Gang := (s.gang h).filter fun g => g.src.ctx == c

/-- An action on a gang of the context. -/
def State.onGang (s : State) (c h : Nat) (f : Gang → Answer) : Answer :=
  if !(s.ctx c).live then s.answer CStat.state
  else
    match s.named c h with
    | none => s.answer CStat.handle
    | some g => f g

/-- RESUMET: a Parked or Halted team of a gang that is not killed. -/
def State.cmdResumeTeam (s : State) (c h sel reply : Nat) : Answer :=
  s.onGang c h fun g =>
    let group := bitsOf sel 10 8
    if sel != bitsOf sel 4 0 + group * 2 ^ 8 || g.groups.length ≤ group || g.src.hdr.teams ≤ bitsOf sel 4 0 then
      s.answer CStat.arg
    else
      match (s.teamsOfGroup h group).find? (·.index == bitsOf sel 4 0) with
      | none => s.answer CStat.state
      | some t =>
        if !g.dying && t.standing.resumable then
          { status := CStat.ok, value := 0, state := s.resume t (BitVec.ofNat 64 reply) }
        else s.answer CStat.state

/-- RESUMEG: every Halted team of a group; Parked teams stay Parked. -/
def State.cmdResumeGroup (s : State) (c h group : Nat) : Answer :=
  s.onGang c h fun g =>
    if g.groups.length ≤ group then s.answer CStat.arg
    else
      let ts := (s.teamsOfGroup h group).filter fun t => t.standing == .halted
      if g.dying || ts.isEmpty then s.answer CStat.state
      else { status := CStat.ok, value := 0, state := ts.foldl (fun s t => s.resume t 0) s }

/-- KILL: accepted unless the gang is being killed already, or is the issuing team's own; that of a gang being saved takes
effect once its image is written (R354). -/
def State.cmdKill (s : State) (own : Option Nat) (c h : Nat) : Answer :=
  s.onGang c h fun g =>
    if g.dying || own == some h then s.answer CStat.state
    else { status := CStat.ok, value := 0, state := s.acceptKill g }

/-- A length that INVAL takes. -/
def invalLength (n : Nat) : Bool := n % 4096 == 0 && 4096 ≤ n && n ≤ 2 ^ 57

/-- The invalidation of R201 completes: the context's translations of the range are dropped, and what waits for one is
tried again (R318, R341, R344, R453). -/
def State.invalidate (s : State) (c va n : Nat) : State :=
  let s := s.dropRange c va n
  let s := s.withEng fun e =>
    { e with
      rows := e.rows.map fun r => if r.ctx == c then { r with nextTry := s.now } else r
      unreached := e.unreached.map fun u => if u.ctx == c then { u with nextTry := s.now } else u }
  s.withSched fun x => { x with launches := x.launches.map fun l => if l.ctx == c then { l with nextTry := s.now } else l }

/-- INVAL of a team: done when it completes (R384). -/
def State.cmdInval (s : State) (c va n : Nat) : Answer :=
  if !(s.ctx c).live then s.answer CStat.state
  else if !invalLength n then s.answer CStat.arg
  else { status := CStat.ok, value := 0, state := s.invalidate c va n }

/-- ERRSTAT. -/
def State.cmdErrStat (s : State) (c : Nat) : Answer :=
  if !(s.ctx c).live then s.answer CStat.state else { status := CStat.ok, value := s.errStat c, state := s }

/-- STATE (R380). -/
def execState (f : Nat) (s : State) : Host.Outcome State Fault Refusal :=
  s.runCommand f 0 fun s c => { status := CStat.ok, value := s.stateWord c.ctx, state := s }

/-- RESUMET (R365). -/
def execResumet (f : Nat) (s : State) : Host.Outcome State Fault Refusal :=
  s.runCommand f 1 fun s c => s.cmdResumeTeam c.ctx c.op0 c.op1 c.op2

/-- RESUMEG (R365). -/
def execResumeg (f : Nat) (s : State) : Host.Outcome State Fault Refusal :=
  s.runCommand f 2 fun s c => s.cmdResumeGroup c.ctx c.op0 c.op1

/-- KILL (R366). -/
def execKill (f : Nat) (s : State) : Host.Outcome State Fault Refusal :=
  s.runCommand f 3 fun s c => s.cmdKill none c.ctx c.op0

/-- INVAL: the host's stays pending until INVAL_COMPLETE (R201). -/
def execInval (f : Nat) (s : State) : Host.Outcome State Fault Refusal :=
  match s.command f with
  | none => stutter s
  | some c =>
    if c.value != 4 then stutter s
    else if s.denies f c.ctx then .next (s.finish f CStat.denied 0)
    else if !(s.ctx c.ctx).live then .next (s.finish f CStat.state 0)
    else if !invalLength c.op1 then .next (s.finish f CStat.arg 0)
    else
      .next (s.withSched fun x =>
        { x with invals := x.invals ++ [{ func := f, ctx := c.ctx, va := c.op0, len := c.op1 }] })

/-- INVAL_COMPLETE: pending invalidation k completes, with its command. -/
def execInvalComplete (k : Nat) (s : State) : Host.Outcome State Fault Refusal :=
  match s.sched.invals[k]? with
  | none => stutter s
  | some i =>
    let s := s.withSched fun x => { x with invals := x.invals.eraseIdx k }
    .next ((s.invalidate i.ctx i.va i.len).finish i.func CStat.ok 0)

/-- ERRSTAT (R383). -/
def execErrstat (f : Nat) (s : State) : Host.Outcome State Fault Refusal :=
  s.runCommand f 5 fun s c => s.cmdErrStat c.ctx

/-! ## CTXQ (R384) -/

/-- Operands of a command (R377). -/
def ctxqOperands : Nat → Nat
  | 1 => 3
  | 2 => 2
  | 3 => 1
  | 4 => 2
  | _ => 0

/-- A command operand: I64 or RAW as it stands, I32 and N32 as the integer they hold; or FORMAT. -/
def Team.cmdArg (t : Team) (r : Nat) : Except Trap Nat :=
  let x := t.sreg r
  if x.tag == Tag.raw then .ok x.bits.toNat
  else
    match t.int r with
    | .ok n => .ok (n % 2 ^ 64).toNat
    | .error e => .error e

/-- The command of a team for its own context. -/
def State.teamCommand (s : State) (t : Team) (value op0 op1 op2 : Nat) : Answer :=
  let c := s.ctxOf t
  match value with
  | 0 => { status := CStat.ok, value := s.stateWord c, state := s }
  | 1 => s.cmdResumeTeam c op0 op1 op2
  | 2 => s.cmdResumeGroup c op0 op1
  | 3 => s.cmdKill (some t.gang) c op0
  | 4 => s.cmdInval c op0 op1
  | _ => s.cmdErrStat c

/-- CTXQ: a release and an acquire at system scope about the command. -/
def ctxqOp (o : Sys) (s : State) (t : Team) : Except Trap Done := do
  let n := ctxqOperands o.imm.toNat
  let arg (i : Nat) : Except Trap Nat := if i < n then t.cmdArg (o.a.toNat + i) else .ok 0
  let x ← arg 0
  let y ← arg 1
  let z ← arg 2
  let r := (s.release t sysScope).teamCommand t o.imm.toNat x y z
  let s := r.state.acquire t sysScope
  return .next (s.modTeam t.id fun u => u.setResult o.d.toNat (r.value * 2 ^ 8 + r.status))

/-- CTXQ (R384). -/
def execCtxq (h : Hd) (o : Sys) (s : State) : Host.Outcome State Fault Refusal :=
  issueLong s h.fb (fun _ => true) (ctxqOp o)

/-! ## CREATE (R376, R455) -/

/-- A descriptor address: aligned to 64 bytes, in device or host memory. -/
def descriptorOk (a n : Nat) : Bool :=
  a % 64 == 0 && a < 2 ^ 56 &&
    match regionOf a with
    | .local => populated a && populated (a + n - 1)
    | .system => true
    | _ => false

/-- The n bytes from a physical address lie in the LPDDR-5X of one die. -/
def inDevice (a n : Nat) : Bool := a + n ≤ 2 ^ 40 && populated a && populated (a + n - 1) && (a + n - 1) / 2 ^ 37 == a / 2 ^ 37

/-- The n bytes lie in LPDDR-5X or in the second tier's range, whatever capacity is attached to it. -/
def inSaveStore (a n : Nat) : Bool := inDevice a n || (2 ^ 45 ≤ a && a + n ≤ 2 ^ 46)

/-- A function holds a key slot (R455). -/
def State.holds (s : State) (f slot : Nat) : Bool := f == 0 || FMap.look s.sched.holders slot == some f

/-- Contexts that are not Free. -/
def State.liveCtxs (s : State) : List (Nat × Ctx) := s.sched.ctxs.filter fun c => c.2.st != .free

/-- The segment table's entries. -/
def State.segTable (s : State) (a n : Nat) : List Nat := (List.range n).map fun i => leNat (s.homeRead none (a + 4 * i) 4)

/-- A segment-table entry as slice * 8 + segment, or none for one outside its limits. -/
def segOf (e : Nat) : Option Nat :=
  if bitsOf e 8 0 < 288 && bitsOf e 15 9 == 0 && bitsOf e 31 19 == 0 then some (bitsOf e 8 0 * 8 + bitsOf e 18 16) else none

/-- The domain slots a descriptor binds. -/
def descDoms (v : Nat) : FMap DomSlot :=
  (List.range 4).filterMap fun i =>
    let w := v / 2 ^ (8 * (96 + 16 * i))
    if w.testBit 8 then some (i, { dom := bitsOf w 5 0, kind := bitsOf w 7 6, queue := bitsOf w 127 64 }) else none

/-- The context a descriptor's 2,048 bits name, but its segments. -/
def ctxOfDesc (v : Nat) : Ctx :=
  let at8 (o hi lo : Nat) : Nat := bitsOf v (8 * o + hi) (8 * o + lo)
  { st := .bound, switching := false, key := at8 0 6 0, func := at8 0 13 8, wdog := at8 0 63 32, root := at8 8 55 0
    keyshr := at8 16 127 0, handler := at8 32 63 0, sysq := at8 40 63 0, errec := at8 48 55 0, save := at8 56 55 0
    saveSize := at8 64 31 0, errcap := at8 64 36 32, segs := [], doms := descDoms v, ticks := [] }

/-- The reserved bits of a descriptor are zero. -/
def descClean (v : Nat) : Bool :=
  let zero (o hi lo : Nat) : Bool := bitsOf v (8 * o + hi) (8 * o + lo) == 0
  zero 0 7 7 && zero 0 31 14 && zero 8 63 56 && zero 48 63 56 && zero 56 63 56 && zero 64 63 37 && zero 72 63 56 &&
    zero 80 63 13 && zero 88 63 0 && ((List.range 4).all fun i => zero (96 + 16 * i) 63 9) && v / 2 ^ (8 * 160) == 0

/-- The key slots of a context are held by its function, and no other live context holds its own. -/
def State.keysOk (s : State) (c : Nat) (x : Ctx) : Bool :=
  s.holds x.func x.key && !(s.liveCtxs.any fun y => y.1 != c && y.2.key == x.key) &&
    (List.range 128).all fun k => k == x.key || !x.keyshr.testBit k || s.holds x.func k

/-- No domain of a context is bound by another function's context. -/
def State.domsOk (s : State) (x : Ctx) : Bool :=
  x.doms.all fun d => s.liveCtxs.all fun y => y.2.func == x.func || y.2.doms.all fun e => e.2.dom != d.2.dom

/-- A descriptor's fields lie within their limits; of the error record and the save area these bound the base (R376). -/
def State.descOk (s : State) (c v : Nat) (x : Ctx) (tab n : Nat) : Bool :=
  descClean v && s.keysOk c x && s.domsOk x && x.root % 2 ^ 22 == 0 && 6 ≤ x.errcap && x.errcap ≤ 16 &&
    x.errec % 4096 == 0 && inDevice x.errec 1 && x.save % 65536 == 0 && 1 ≤ x.saveSize &&
    inSaveStore x.save 1 && n ≤ 4096 && !(c == 0 && x.func != 0) &&
    (n == 0 || (regionOf tab != .reserved && reachable tab)) && (s.segTable tab n).all fun e => (segOf e).isSome

/-- No segment is held by another context, and no slice gives more than its 8 (R376). -/
def State.segsFree (s : State) (l : List Nat) : Bool :=
  let held := s.liveCtxs.flatMap fun y => y.2.segs
  l.all fun g => !held.contains g && ((held ++ l).filter fun h => h / 8 == g / 8).length ≤ 8

/-- A context comes to be: its segments are zero, its domains start at epoch 0 unless another context binds them. -/
def State.bindContext (s : State) (c : Nat) (x : Ctx) : State :=
  let s := s.withMem fun m => { m with seg := m.seg.filter fun b => !x.segs.contains (b.1 / 2 ^ 20) }
  let fresh (d : Nat) : Bool := (s.boundSlots d).isEmpty
  let ds := (x.doms.map (·.2.dom)).filter fresh
  let s := ds.foldl (fun s d => s.modDomain d fun _ => Domain.fresh) s
  s.modCtx c fun _ => x

/-- CREATE (R376). -/
def State.cmdCreate (s : State) (c : Cmd) : Answer :=
  if c.func != 0 && c.ctx == 0 then s.answer CStat.denied
  else if !descriptorOk c.op0 256 then s.answer CStat.arg
  else
    let v := leNat (s.homeRead none c.op0 256)
    let x := ctxOfDesc v
    let tab := bitsOf v (8 * 72 + 55) (8 * 72)
    let n := bitsOf v (8 * 80 + 12) (8 * 80)
    if c.func != 0 && x.func != c.func then s.answer CStat.denied
    else if (s.ctx c.ctx).st != .free then s.answer CStat.state
    else if !s.descOk c.ctx v x tab n then s.answer CStat.arg
    else
      let segs := (s.segTable tab n).filterMap segOf
      if !s.segsFree segs then s.answer CStat.nospace
      else { status := CStat.ok, value := 0, state := s.bindContext c.ctx { x with segs := segs } }

/-- CREATE: the context's function is the descriptor's (R377). -/
def execCreate (f : Nat) (s : State) : Host.Outcome State Fault Refusal :=
  match s.command f with
  | none => stutter s
  | some c =>
    if c.value != 6 then stutter s
    else
      let a := s.cmdCreate c
      .next (a.state.finish f a.status a.value)

/-! ## START, SWITCHOUT, SWITCHIN (R375, R379) -/

/-- A context moves from one state to another. -/
def State.cmdMove (s : State) (c : Nat) (src dst : CtxState) : Answer :=
  if (s.ctx c).st != src then s.answer CStat.state
  else { status := CStat.ok, value := 0, state := s.modCtx c fun x => { x with st := dst } }

/-- START: Bound to Running. -/
def execStart (f : Nat) (s : State) : Host.Outcome State Fault Refusal :=
  s.runCommand f 7 fun s c => s.cmdMove c.ctx .bound .running

/-- Bytes of the images of a context's gangs in some states. -/
def State.imagesOf (s : State) (c : Nat) (p : Gang → Bool) : Nat :=
  (((s.gangs.map (·.2)).filter fun g => g.src.ctx == c && p g).map s.imageBytes).foldl (· + ·) 0

/-- SWITCHOUT (R379). -/
def State.cmdSwitchOut (s : State) (c : Nat) : Answer :=
  let x := s.ctx c
  if x.st != .running || x.switching then s.answer CStat.state
  else
    let need := s.imagesOf c fun g => g.st == .resident || g.st == .saving
    let used := s.imagesOf c fun g => g.st == .saved
    if x.saveSize * 2 ^ 20 < used + need then s.answer CStat.nospace
    else { status := CStat.ok, value := 0, state := (s.modCtx c fun y => { y with switching := true }).settleSwitch c }

/-- SWITCHOUT. -/
def execSwitchout (f : Nat) (s : State) : Host.Outcome State Fault Refusal :=
  s.runCommand f 8 fun s c => s.cmdSwitchOut c.ctx

/-- SWITCHIN: Stopped to Running. -/
def execSwitchin (f : Nat) (s : State) : Host.Outcome State Fault Refusal :=
  s.runCommand f 9 fun s c => s.cmdMove c.ctx .stopped .running

/-! ## DESTROY, PREEMPT, HRESTART (R364, R368, R381) -/

/-- The gangs of a context. -/
def State.gangsOf (s : State) (c : Nat) : List Gang := (s.gangs.map (·.2)).filter fun g => g.src.ctx == c

/-- Every gang of the context is killed; the rest of R381 follows once none is left. -/
def State.destroy (s : State) (c : Nat) : State :=
  let s := s.modCtx c fun x => { x with st := .draining, switching := false }
  ((s.gangsOf c).foldl (fun s g => if g.dying then s else s.acceptKill g) s).settleDestroy c

/-- DESTROY (R381). -/
def execDestroy (f : Nat) (s : State) : Host.Outcome State Fault Refusal :=
  s.runCommand f 10 fun s c =>
    if (s.ctx c.ctx).live then { status := CStat.ok, value := 0, state := s.destroy c.ctx } else s.answer CStat.state

/-- PREEMPT: a Resident gang (R368). -/
def execPreempt (f : Nat) (s : State) : Host.Outcome State Fault Refusal :=
  s.runCommand f 11 fun s c => s.onGang c.ctx c.op0 fun g =>
    if g.st != .resident then s.answer CStat.state
    else { status := CStat.ok, value := 0, state := s.modGang g.handle fun y => { y with preempt := true } }

/-- The gang of a handler slot that stopped. -/
def State.stoppedHandler (s : State) (g : Gang) : Bool := g.isHandler && (s.teamsOf g.handle).any fun t => t.standing == .halted

/-- HRESTART: the stopped handler slots of the context start again on every core. -/
def execHrestart (f : Nat) (s : State) : Host.Outcome State Fault Refusal :=
  s.runCommand f 13 fun s c =>
    if !(s.ctx c.ctx).live then s.answer CStat.state
    else
      let go (x : Core) : Core := { x with hstop := if x.hstop == some c.ctx then none else x.hstop }
      let s' := { s with cores := s.cores.map fun (x : Nat × Core) => (x.1, go x.2) }
      { status := CStat.ok, value := 0, state := ((s.gangsOf c.ctx).filter s.stoppedHandler).foldl State.endKill s' }

/-! ## CARVE (R374) -/

/-- The dirty bytes of the ways that a change removes are written back. -/
def State.cleanWays (s : State) (cl ways : Nat) : State :=
  (linesBeyond ways (s.l1Lines cl)).foldl (fun s l => s.l1Clean cl l) s

/-- A pending change holds a cluster of a partition. -/
def State.carveBusyAt (s : State) (p : Nat) : Bool :=
  s.sched.carves.any fun x => (s.clustersOf x.part).any fun k => (s.clustersOf p).contains k

/-- CARVE: its status is the carve-out status of R374; an accepted change completes at its commit or its timeout. -/
def execCarve (f : Nat) (s : State) : Host.Outcome State Fault Refusal :=
  match s.command f with
  | none => stutter s
  | some c =>
    if c.value != 12 then stutter s
    else if s.denies f c.ctx then .next (s.finish f CStat.denied 0)
    else if (s.partOf c.op0 c.ctx).isNone || c.op1 % 32768 != 0 || 2 ^ 19 < c.op1 then .next (s.finish f carveBadArg 0)
    else if s.carveBusyAt c.op0 then .next (s.finish f carveBusy 0)
    else
      let x : Carve := { func := f, part := c.op0, ways := c.op1 / 32768, deadline := s.now + c.op2 * oneUs }
      let s := (s.clustersOf c.op0).foldl (fun s k => s.cleanWays k x.ways) s
      .next (s.withSched fun y => { y with carves := y.carves ++ [x] })

/-- The pending change of a partition. -/
def State.carveOf (s : State) (p : Nat) : Option Carve := s.sched.carves.find? (·.part == p)

/-- CARVE_COMMIT: every core is reserved before the timeout has passed; the boundary moves on all of them at once (R374 step 2). -/
def execCarveCommit (p : Nat) (s : State) : Host.Outcome State Fault Refusal :=
  match s.carveOf p with
  | none => stutter s
  | some x =>
    if !s.reserved x || x.deadline ≤ s.now then stutter s
    else .next ((((s.clustersOf p).foldl (fun s k => s.setWays k x.ways) s).dropCarve x).finish x.func carveOk 0)

/-- CARVE_TIMEOUT: the timeout passed before the commit; nothing changes. -/
def execCarveTimeout (p : Nat) (s : State) : Host.Outcome State Fault Refusal :=
  match s.carveOf p with
  | none => stutter s
  | some x => if x.deadline ≤ s.now then .next ((s.dropCarve x).finish x.func carveTimeout 0) else stutter s

/-! ## PARTITION, KEYLOAD (R378, R455) -/

/-- A partition has a gang on cores or saved. -/
def State.partInUse (s : State) (p : Nat) : Bool :=
  match s.sched.parts.find? (·.num == p) with
  | none => false
  | some x => s.gangs.any fun g => g.2.src.part == p && g.2.src.ctx == x.ctx && !g.2.isHandler

/-- The partition of a descriptor's 1,024 bits. -/
def partOfDesc (num ctx v : Nat) : Part :=
  { num := num, ctx := ctx, lq := bitsOf v 63 0, prio := bitsOf v 66 64
    clusters := (List.range Config.clusters).filter fun p => v.testBit (128 + p) }

/-- PARTITION (R378). -/
def State.cmdPartition (s : State) (c : Cmd) : Answer :=
  if !(s.ctx c.ctx).live then s.answer CStat.state
  else if 16 ≤ c.op0 || !descriptorOk c.op1 128 then s.answer CStat.arg
  else
    let v := leNat (s.homeRead none c.op1 128)
    let p := partOfDesc c.op0 c.ctx v
    if bitsOf v 127 67 != 0 || v / 2 ^ (128 + 576) != 0 || p.clusters.isEmpty || p.lq % 64 != 0 then s.answer CStat.arg
    else if s.partInUse c.op0 then s.answer CStat.state
    else
      { status := CStat.ok, value := 0
        state := s.withSched fun x => { x with parts := x.parts.filter (·.num != c.op0) ++ [p] } }

/-- PARTITION. -/
def execPartition (f : Nat) (s : State) : Host.Outcome State Fault Refusal := s.runPhysical f 14 State.cmdPartition

/-- A slot is the own or shared slot of a live context of another function than a holder. -/
def State.slotInUse (s : State) (slot holder : Nat) : Bool := s.liveCtxs.any fun y => y.2.hasKey slot && y.2.func != holder

/-- A key is loaded into a slot; under another key than before, what the slot held is lost (R80, R455). -/
def State.loadKey (s : State) (slot holder : Nat) (key : List Byte) : State :=
  let s := if FMap.look s.sched.keys slot == some key then s else (s.flushSlot slot).dropKey slot
  s.withSched fun x =>
    { x with keys := FMap.put x.keys slot key, holders := FMap.putD x.holders slot holder 0 }

/-- KEYLOAD: its context field is not read. -/
def State.cmdKeyload (s : State) (c : Cmd) : Answer :=
  if 128 ≤ c.op0 || 64 ≤ c.op2 || !descriptorOk (c.op1 / 64 * 64) 64 then s.answer CStat.arg
  else if s.slotInUse c.op0 c.op2 then s.answer CStat.state
  else { status := CStat.ok, value := 0, state := s.loadKey c.op0 c.op2 (Config.unwrapKey s.fresh c.op1) }

/-- KEYLOAD. -/
def execKeyload (f : Nat) (s : State) : Host.Outcome State Fault Refusal := s.runPhysical f 15 State.cmdKeyload

/-! ## Unassigned commands, Function Level Reset, reset (R377, R407) -/

/-- UNASSIGNED_COMMAND: values 22 to 255 complete with ARG from any function. -/
def execUnassignedCommand (f : Nat) (s : State) : Host.Outcome State Fault Refusal :=
  match s.command f with
  | none => stutter s
  | some c => if c.value < 22 then stutter s else .next (s.finish f CStat.arg 0)

/-- FUNCTION_LEVEL_RESET: each context of the function is destroyed (R407). -/
def execFunctionLevelReset (f : Nat) (s : State) : Host.Outcome State Fault Refusal :=
  .next ((((s.liveCtxs.filter fun c => c.2.func == f && c.2.live).map (·.1))).foldl State.destroy s)

/-- Host memory as a reset leaves it: what a key slot wrote there is unreadable without its key (R197, R455). -/
def State.hostKept (s : State) : Memory :=
  ((s.mem.lines.filter fun l => regionOf (l.1 * 512) == .system).foldl (fun s l =>
    (List.range 512).foldl (fun t i => t.rawWrite (l.1 * 512 + i) (Config.garble s.fresh (l.1 * 512 + i))) s) s).mem.host

/-- RESET: the machine as after reset, with the cores whose self-test fails fenced (R418); the host's own memory, and the
model's agenda and counters, stay. -/
def execReset (s : State) : Host.Outcome State Fault Refusal :=
  let r := State.reset
  .next
    { r with
      agenda := s.agenda, turn := s.turn, fresh := s.fresh, ids := s.ids
      mem := { r.mem with host := s.hostKept }
      svc := { r.svc with fenced := (Config.failedCores s.fresh).filter (· < Config.cores) } }

end Sys2Proof.Machine
end

