-- ==== Sys2Proof/Machine/Window.lean ====
section
/-! DEFINITION. Time, token frames, hoop windows and tick launches (spec/19_window.md R385 to R397; spec/20_link.md R412). -/

namespace Sys2Proof.Machine

/-! ## TNOW, the servo (R385, R386) -/

/-- TNOW: the count, or the fraction with LOCKED. -/
def tnowOp (o : Sys) (s : State) (t : Team) : Except Trap Done :=
  let k := s.clk
  let u :=
    if o.e.getLsbD 0 then
      t.setS o.d.toNat (BitVec.ofNat 64 (k.frac % 2 ^ 16 + if k.locked then 2 ^ 16 else 0)) Tag.n32
    else t.setS o.d.toNat (BitVec.ofNat 64 k.ns) Tag.i64
  .ok (teamDone s u)

/-- TNOW (R386). -/
def execTnow (_ : Hd) (o : Sys) (s : State) : Host.Outcome State Fault Refusal := issue s (tnowOp o)

/-- Ticks that a step of the time base passes over count as missed; only the latest of them is evaluated (R392). A held fire is
of a tick before them. -/
def TickSlot.passOver (ns : Nat) (x : TickSlot) : TickSlot :=
  if ns ≤ x.next || x.period == 0 then x
  else
    let n := (ns - x.next) / x.period
    if x.held.isSome then { x with skip := max x.skip (n - 1), missed := x.missed + (n - 1 - x.skip) }
    else { x with next := x.next + n * x.period, missed := x.missed + n }

/-- The time base is stepped. -/
def State.stepClock (s : State) (ns frac : Nat) : State :=
  let s := { s with clk := { s.clk with ns := ns, frac := frac, slew := 0 } }
  s.withSched fun x =>
    { x with ctxs := x.ctxs.map fun (c : Nat × Ctx) =>
        (c.1, { c.2 with ticks := c.2.ticks.map fun (t : Nat × TickSlot) => (t.1, t.2.passOver ns) }) }

/-- PTP_SYNC: a synchronisation message gives the grandmaster's time. Before the first lock the time base is stepped forward to
it; from then on, and where it lies behind, the difference is slewed, so that no later read is smaller. It is locked once within
10 ns (R385). -/
def execPtpSync (ns frac : Nat) (s : State) : Host.Outcome State Fault Refusal :=
  let t : Nat := ns % 2 ^ 64 * 2 ^ 16 + frac % 2 ^ 16
  let cur : Nat := s.clk.ns * 2 ^ 16 + s.clk.frac
  let d : Int := (t : Int) - (cur : Int)
  let near : Bool := -(10 * 2 ^ 16) ≤ d && d ≤ 10 * 2 ^ 16
  let s := if s.clk.ever || near || d < 0 then { s with clk := { s.clk with slew := d } } else s.stepClock (t / 2 ^ 16) (t % 2 ^ 16)
  .next { s with clk := { s.clk with locked := s.clk.locked || near, ever := s.clk.ever || near, lastSync := s.now } }

/-- LOCK_LOSS: no synchronisation message for 1 s (R385). -/
def execLockLoss (s : State) : Host.Outcome State Fault Refusal :=
  if s.clk.locked && s.clk.lastSync + 1000000 * oneUs ≤ s.now then .next { s with clk := { s.clk with locked := false } }
  else stutter s

/-! ## The window control block (R388) -/

/-- The fields of a window control block. -/
structure Wcb where
  stream  : Nat
  port    : Nat
  reorder : Nat
  sink    : Nat
  dslot   : Nat
  pgsz    : Nat
  rowsz   : Nat
  pages   : Nat
  ficap   : Nat
  span    : Nat
  plist   : Nat
  fidx    : Nat
  pool    : Nat
  cseq    : Nat
  cons    : Nat
  cstamp  : Nat
  nrow    : Nat
  dup     : Nat
  lost    : Nat
  full    : Nat
  bad     : Nat
  state   : Nat
  evict   : Nat
  deriving DecidableEq, Repr

/-- The fields read from the block's 1,024 bits. -/
def Wcb.ofNat (v : Nat) : Wcb :=
  let f (o hi lo : Nat) : Nat := bitsOf v (8 * o + hi) (8 * o + lo)
  { stream := f 0 31 0, port := f 0 32 32, reorder := f 0 47 40, sink := f 0 51 48, dslot := f 0 53 52, pgsz := f 0 57 56
    rowsz := f 0 63 60, pages := f 8 15 0, ficap := f 8 36 32, span := f 16 63 0, plist := f 24 63 0, fidx := f 32 63 0
    pool := f 40 63 0, cseq := f 48 31 0, cons := f 48 63 32, cstamp := f 56 63 0, nrow := f 64 63 0, dup := f 72 15 0
    lost := f 72 31 16, full := f 72 47 32, bad := f 72 63 48, state := f 80 2 0, evict := f 80 63 32 }

/-! States of a window (R389). -/
namespace WState
def closed : Nat := 0
def filling : Nat := 1
def running : Nat := 2
def starved : Nat := 3
end WState

/-- Bytes of a page. -/
def Wcb.pageBytes (w : Wcb) : Nat := 4096 * 4 ^ w.pgsz
/-- Rows of a page. -/
def Wcb.rows (w : Wcb) : Nat := w.pageBytes / 2 ^ w.rowsz

/-- The block is within its limits (R388). -/
def Wcb.ok (w : Wcb) (v : Nat) : Bool :=
  let zero (o hi lo : Nat) : Bool := bitsOf v (8 * o + hi) (8 * o + lo) == 0
  zero 0 39 33 && zero 0 55 54 && zero 0 59 58 && zero 8 31 16 && zero 8 63 37 && zero 80 31 3 && v / 2 ^ (8 * 88) == 0 &&
    1 ≤ w.sink && w.sink ≤ 8 && w.pgsz != 3 && 6 ≤ w.rowsz && w.rowsz ≤ 12 && 2 ^ w.rowsz ≤ w.pageBytes &&
    w.sink + 2 ≤ w.pages && w.pages ≤ 4096 && 4 ≤ w.ficap && w.ficap ≤ 16

/-- The part's fields, as they stand from offset 48. -/
def Wcb.partBytes (w : Wcb) : List Byte :=
  leBytes 4 w.cseq ++ leBytes 4 w.cons ++ leBytes 8 w.cstamp ++ leBytes 8 w.nrow ++ leBytes 2 w.dup ++ leBytes 2 w.lost ++
    leBytes 2 w.full ++ leBytes 2 w.bad ++ leBytes 8 (w.state + w.evict * 2 ^ 32)

/-- The offset of the part's fields; CSEQ lies there. -/
def wcbPart : Nat := 48

/-- A count that saturates at 65,535, n higher. -/
def satCount (c n : Nat) : Nat := min (c + n) 65535

/-- The difference of two sequence numbers by wrap (R290). -/
def seqDiff (a b : Nat) : Int := (BitVec.ofNat 32 a - BitVec.ofNat 32 b).toInt

/-- The page that an ordinal's row lies in (R390). -/
def Wcb.pageOf (w : Wcb) (o : Nat) : Nat :=
  let r := w.rows
  if o < w.sink * r then o / r else w.sink + (o - w.sink * r) / r % (w.pages - w.sink)

/-- Rows of a lap of the ring. -/
def Wcb.lap (w : Wcb) : Nat := (w.pages - w.sink) * w.rows

/-- A row that enters a ring page at row 0 while the page holds rows of an earlier lap. -/
def Wcb.reuses (w : Wcb) (o : Nat) : Bool := w.sink * w.rows + w.lap ≤ o && o % w.rows == 0

/-- The address of a frame-index entry. -/
def Wcb.entryVa (w : Wcb) (s : Nat) : Nat := (w.fidx + 32 * (s % 2 ^ w.ficap)) % 2 ^ 64

/-- The address of a page-list entry. -/
def Wcb.listVa (w : Wcb) (p : Nat) : Nat := (w.plist + 8 * p) % 2 ^ 64

/-! ## The window engines (R387, R389) -/

/-- The die whose window engine serves a port. -/
def windowDie (port : Nat) : Nat := if port == 0 then 3 else 7

/-- A window engine as an accessor. -/
def windowWho (port ctx : Nat) : Who := agentWho (engineAgent (windowDie port * 128 + 77)) ctx (windowDie port)

/-- Device memory of this package. -/
def localDev (p : Place) : Bool :=
  match p with
  | .dev _ pa => regionOf pa == .local
  | _ => false

/-- The block of a window as its engine reaches it. -/
def State.winPlace (s : State) (w : Who) (va : Nat) : Except TFault Place :=
  match s.resolve w .rmw 128 128 va with
  | .error e => .error (e.asFault va 0)
  | .ok p => if localDev p then .ok p else .error ((LErr.err Code.access none).asFault va 0)

/-- A window block at a place. -/
structure WinAt where
  loc : Loc
  key : Option Nat
  wcb : Wcb
  deriving DecidableEq, Repr

/-- The block of a registered window. -/
def State.winAt (s : State) (x : Win) : Option WinAt :=
  match s.winPlace (windowWho x.port x.ctx) x.va with
  | .error _ => none
  | .ok p => p.loc.map fun l => { loc := l, key := p.slot, wcb := Wcb.ofNat (s.locNat p.slot l 128) }

/-- The part's fields written. -/
def State.putWcb (s : State) (a : WinAt) (w : Wcb) : State := s.locWrite a.key (a.loc.add wcbPart) w.partBytes

/-- The open window with a block. -/
def State.openWin (s : State) (ctx va : Nat) : Option Win := s.sched.wins.find? fun x => x.ctx == ctx && x.va == va

/-- A window changed. -/
def State.modWin (s : State) (ctx va : Nat) (f : Win → Win) : State :=
  s.withSched fun x => { x with wins := x.wins.map fun y => if y.ctx == ctx && y.va == va then f y else y }

/-- The counters of a time port. -/
def State.timePort (s : State) (p : Nat) : TimePort := FMap.lookD s.link.ports p { udp := 0, rxok := 0, nowin := 0, malf := 0 }

/-- A time port changed. -/
def State.modPort (s : State) (p : Nat) (f : TimePort → TimePort) : State :=
  s.withLink fun x => { x with ports := FMap.put x.ports p (f (s.timePort p)) }

/-- A 32-bit counter that wraps, one higher. -/
def wrap32 (n : Nat) : Nat := (n + 1) % 2 ^ 32

/-! ## Token frames at a port (R387, R412) -/

/-- The header of a token frame: rows, stream, stamp, sequence number, log2 of the row size. -/
structure FrameHdr where
  rows   : Nat
  stream : Nat
  stamp  : Nat
  seq    : Nat
  rowlog : Nat
  deriving DecidableEq, Repr

/-- The header of a payload, or none for a malformed frame. -/
def frameHdr (payload : List Byte) : Option FrameHdr :=
  let v := leNat (payload.take 32)
  let h : FrameHdr :=
    { rows := bitsOf v 31 16, stream := bitsOf v 63 32, stamp := bitsOf v 127 64, seq := bitsOf v 159 128
      rowlog := bitsOf v 163 160 }
  if 32 ≤ payload.length && bitsOf v 15 0 == 1 && 1 ≤ h.rows && h.rows ≤ 64 && 6 ≤ h.rowlog && h.rowlog ≤ 12 &&
      bitsOf v 255 164 == 0 && payload.length == 32 + h.rows * 2 ^ h.rowlog then some h else none

/-- TOKEN_FRAME: a datagram at a time port; one that is no token frame of the port is not its concern. -/
def execTokenFrame (x : Frame) (s : State) : Host.Outcome State Fault Refusal :=
  if 2 ≤ x.port || x.udp != (s.timePort x.port).udp then stutter s
  else
    match frameHdr x.payload with
    | none => .next (s.modPort x.port fun p => { p with malf := wrap32 p.malf })
    | some h =>
      match s.sched.wins.find? fun w => w.port == x.port && w.stream == h.stream with
      | none => .next (s.modPort x.port fun p => { p with nowin := wrap32 p.nowin })
      | some w =>
        .next (s.withSched fun y => { y with frames := y.frames ++ [{ ctx := w.ctx, va := w.va, frame := x }] })

/-! ## Ranges and fires (R391, R392) -/

/-- The last sequence number of the scan from s: it stops at CSEQ or at the first frame stamped above the limit. -/
def scanRange (placed : List Placed) (lim : Int) : Nat → Nat → Nat
  | 0, s => s
  | n + 1, s =>
    let q := (s + 1) % 2 ^ 32
    match placed.find? (·.seq == q) with
    | some p => if lim < (p.stamp : Int) then s else scanRange placed lim n q
    | none => scanRange placed lim n q

/-- The last frame of the range after s. -/
def rangeLast (placed : List Placed) (cseq : Nat) (lim : Int) (s : Nat) : Nat :=
  scanRange placed lim (seqDiff cseq s).toNat s

/-- The limit of an armed slot's tick. -/
def TickSlot.limit (x : TickSlot) : Int := (x.next : Int) - x.lag

/-- The slot at its next tick. -/
def TickSlot.later (x : TickSlot) : TickSlot := { x with next := x.next + (1 + x.skip) * x.period, skip := 0, held := none }

/-- A tick launches nothing: it counts as missed, its range is carried forward. -/
def State.missTick (s : State) (c i : Nat) : State :=
  s.modTick c i fun x => { x.later with missed := x.missed + 1 }

/-- The gang of a fire. -/
def tickCand (c i : Nat) (x : TickSlot) (r : Lrec) (h : KHdr) (last flags : Nat) : Cand :=
  { origin := .tick c i, ctx := c, part := x.part, ordinal := 0, hdr := h, image := r.kernel, args := r.args, record := x.lrec
    lrec := x.lrec, lflags := 8 + flags, lanes := h.lanes, cword := r.cword, cvalue := r.cvalue, claim := none
    range := some { first := (x.served + 1) % 2 ^ 32, count := (seqDiff last x.served).toNat, last := last }, rank := x.next }

/-- A fire of the range through `last`: the launch record is read and checked afresh (R392). -/
def State.fireTick (s : State) (c i : Nat) (x : TickSlot) (last flags : Nat) : State :=
  match s.agentRead (s.schedWho c) x.lrec 64 with
  | .error e =>
    let s := match e.agentFault x.lrec 0 with
      | some f => s.errXlate c f.noTeam
      | none => s
    s.missTick c i
  | .ok (bs, s) =>
    let v := leNat bs
    let r := Lrec.ofNat v
    let k := s.checkKernel x.part c r v
    if k.1 != LStatus.ok then (k.2.2.missTick c i).tickStatus c x.lrec k.1
    else
      match k.2.1 with
      | none => s.missTick c i
      | some h =>
        k.2.2.modTick c i fun y =>
          { y.later with cand := some (tickCand c i x r h last flags), served := last }

/-- LATE and held in a fire's flags. -/
def lateFlag : Nat := 1
def heldFlag : Nat := 16

/-- The policies. -/
def policyFire : Nat := 0
def policyHold : Nat := 1

/-- A complete frame of a window is stamped above a limit: CSTAMP, the largest stamp of one, is, or is 0 of a frame (R388,
R391). -/
def stampedAbove (placed : List Placed) (cseq cstamp : Nat) (lim : Int) : Bool :=
  lim < (cstamp : Int) && (cstamp != 0 || placed.any fun p => p.count != 0 && reached cseq p.seq)

/-- A tick of an armed slot evaluated. -/
def State.evalTick (s : State) (c i : Nat) (x : TickSlot) : State :=
  if x.cand.isSome then s.missTick c i
  else
    match s.openWin c x.win with
    | none => s.missTick c i
    | some w =>
      match s.winAt w with
      | none => s.missTick c i
      | some a =>
        let last := rangeLast w.placed a.wcb.cseq x.limit x.served
        let late := !stampedAbove w.placed a.wcb.cseq a.wcb.cstamp x.limit
        if !late || x.policy == policyFire then s.fireTick c i x last (if late then lateFlag else 0)
        else if x.policy == policyHold then s.modTick c i fun y => { y with held := some (x.next + x.hold) }
        else s.missTick c i

/-- No frame of a window waits for its engine. -/
def State.noFrames (s : State) (ctx va : Nat) : Bool := !s.sched.frames.any fun f => f.ctx == ctx && f.va == va

/-- TICK of a slot of a context: its time has come and every frame that arrived is placed (R389, R391). -/
def execTick (c i : Nat) (s : State) : Host.Outcome State Fault Refusal :=
  match FMap.look (s.ctx c).ticks i with
  | none => stutter s
  | some x =>
    if i < 16 && x.next ≤ s.clk.ns && x.held.isNone && s.noFrames c x.win then .next (s.evalTick c i x) else stutter s

/-- The end of a slot's hold: a held fire goes through CSEQ with LATE. -/
def State.endHold (s : State) (c i : Nat) (x : TickSlot) : State :=
  match (s.openWin c x.win).bind s.winAt with
  | none => s.missTick c i
  | some a => s.fireTick c i x a.wcb.cseq (lateFlag + heldFlag)

/-- HOLD_EXPIRY: at T + g a held fire goes through CSEQ with LATE. -/
def execHoldExpiry (c i : Nat) (s : State) : Host.Outcome State Fault Refusal :=
  match FMap.look (s.ctx c).ticks i with
  | none => stutter s
  | some x =>
    match x.held with
    | none => stutter s
    | some d =>
      if d ≤ s.clk.ns && s.noFrames c x.win then .next (s.endHold c i x) else stutter s

/-- The held fires of a window that a newly complete frame releases. -/
def State.releaseHeld (s : State) (c : Nat) (w : Win) (cstamp cseq : Nat) : State :=
  (s.ctx c).ticks.foldl (fun s t =>
    if t.2.win == w.va && t.2.held.isSome && stampedAbove w.placed cseq cstamp t.2.limit then
      s.fireTick c t.1 t.2 (rangeLast w.placed cseq t.2.limit t.2.served) heldFlag
    else s) s

/-! ## Frames at a window (R390) -/

/-- Rows that a frame of n rows would enter at row 0 of a reused page. -/
def Wcb.fresh (w : Wcb) (n : Nat) : List Nat := ((List.range n).map (w.nrow + ·)).filter w.reuses

/-- The page a row reuses may be evicted. -/
def Wcb.evictable (w : Wcb) (placed : List Placed) (o : Nat) : Bool :=
  let x := o - w.lap
  x + w.rows ≤ w.nrow &&
    (placed.filter fun f => f.first < x + w.rows && x < f.first + f.count).all fun f =>
      reached w.cons f.seq && f.stamp + w.span < w.cstamp

/-- Visible records of the pool and their block; none when it cannot serve. -/
def State.poolAt (s : State) (who : Who) (w : Wcb) (n : Nat) : Option (Loc × Option Nat × Qcb) × State :=
  match s.serve who w.pool with
  | (none, s) => (none, s)
  | (some (b, key, q), s) =>
    if q.kind == kindRecord && q.rsize == 4 && (s.qaux b).bound.isNone && n ≤ q.tail - q.claim then (some (b, key, q), s)
    else (none, s)

/-- Records that the retire queue of a domain slot has room for. -/
def State.retireRoom (s : State) (ctx : Nat) (d : DomSlot) : Nat × State :=
  match s.serve (s.nodeWho detector ctx) d.queue with
  | (none, s) => (0, s)
  | (some (_, _, q), s) => (if q.kind == kindRetire then q.head + 2 ^ q.rcap - q.resv else 0, s)

/-- An access of the engine checked, inside the context's device memory or chip scratchpad. -/
def State.winReach (s : State) (who : Who) (a : Access) (n va : Nat) : Except TFault Unit :=
  match s.resolve who a n 1 va with
  | .error e => .error (e.asFault va a.code)
  | .ok p => if homedPlace p then .ok () else .error ((LErr.err Code.access none).asFault va a.code)

/-- Every address of a list checked. -/
def State.winReachAll (s : State) (who : Who) (a : Access) (n : Nat) : List Nat → Except TFault Unit
  | [] => .ok ()
  | va :: r =>
    match s.winReach who a n va with
    | .error e => .error e
    | .ok () => s.winReachAll who a n r

/-- An address that the engine reads. -/
def State.winAddr (s : State) (who : Who) (va : Nat) : Except TFault Nat :=
  match s.winReach who .rd 8 va with
  | .error e => .error e
  | .ok () =>
    match s.agentRead who va 8 with
    | .error e => .error (e.asFault va 0)
    | .ok (bs, _) => .ok (leNat bs)

/-- The addresses of the pages that a frame's rows enter: a reused page's is that of the pool record it will get. -/
def State.winPages (s : State) (who : Who) (w : Wcb) (pool : Option Qcb) (fresh : List Nat) :
    List Nat → Except TFault (List (Nat × Nat))
  | [] => .ok []
  | p :: r =>
    let va := match pool, fresh.idxOf? p with
      | some q, some j => q.slotVa (q.claim + j)
      | _, _ => w.listVa p
    match s.winReach who (if fresh.contains p then .rmw else .rd) 8 (w.listVa p) with
    | .error e => .error e
    | .ok () =>
      match s.winAddr who va with
      | .error e => .error e
      | .ok a =>
        match s.winReachAll who .wr 1
            ((List.range (w.pageBytes / 4096)).map (fun i => a + 4096 * i) ++ [a + w.pageBytes - 1]) with
        | .error e => .error e
        | .ok () =>
          match s.winPages who w pool fresh r with
          | .error e => .error e
          | .ok l => .ok ((p, a) :: l)

/-- Bytes the engine writes, in pieces within 512 bytes. -/
def State.winWrite (s : State) (who : Who) : Nat → Nat → List Byte → State
  | 0, _, _ => s
  | fuel + 1, va, bs =>
    if bs.isEmpty then s
    else
      let k := min bs.length (512 - va % 512)
      let s := match s.agentWrite who va (bs.take k) with
        | .ok s => s
        | .error _ => s
      s.winWrite who fuel (va + k) (bs.drop k)

/-- A page retired with the action pool, tagged with the current epoch (R303, R390 step 1, R396). -/
def State.retirePage (s : State) (ctx : Nat) (w : Wcb) (d : DomSlot) (page : Nat) : State :=
  (s.retireAppend ctx w.dslot d fun e => retireRecord page w.pageBytes 0 w.pool e 0).2

/-- A reused page is evicted (R390 steps 1 to 4). -/
def State.evictPage (s : State) (who : Who) (w : Wcb) (d : DomSlot) (p : Nat) : State :=
  match s.winAddr who (w.listVa p) with
  | .error _ => s
  | .ok old =>
    let s := s.retirePage who.ctx w d old
    match s.meetBlock who w.pool with
    | .ok b key q pl =>
      match s.winAddr who (q.slotVa q.claim) with
      | .error _ => s
      | .ok new =>
        (((s.usePlace who .rmw pl).qPut key b qClaim (q.claim + 1)).winWrite who 2 (w.listVa p) (leBytes 8 new)).qMarkDone
          key b q.claim 1
    | _ => s

/-- The 24 bytes of a frame-index entry. -/
def indexEntry (stamp seq rows first : Nat) (lost : Bool) : List Byte :=
  leBytes 8 stamp ++ leBytes 8 (seq + rows * 2 ^ 32 + if lost then 2 ^ 48 else 0) ++ leBytes 8 first

/-- The rows of a frame written. -/
def State.writeRows (s : State) (who : Who) (w : Wcb) (pages : List (Nat × Nat)) (n : Nat) (body : List Byte) : State :=
  let size := 2 ^ w.rowsz
  (List.range n).foldl (fun s i =>
    let o := w.nrow + i
    let page := ((pages.find? (·.1 == w.pageOf o)).map (·.2)).getD 0
    s.winWrite who (size / 512 + 2) (page + o % w.rows * size) ((body.drop (i * size)).take size)) s

/-- The sequence numbers that are written as lost before a frame. -/
def lostBefore (w : Wcb) (placed : List Placed) (seq : Nat) : List Nat :=
  let d := (seqDiff seq w.cseq).toNat
  ((List.range (d - w.reorder - 1)).map fun k => (w.cseq + 1 + k) % 2 ^ 32).filter fun q => !placed.any (·.seq == q)

/-- CSEQ after the consecutive valid entries, and the largest stamp among them. -/
def advanceSeq (valid : List Placed) : Nat → Nat → Nat → Nat × Nat
  | 0, c, m => (c, m)
  | n + 1, c, m =>
    match valid.find? (·.seq == (c + 1) % 2 ^ 32) with
    | none => (c, m)
    | some p => advanceSeq valid n ((c + 1) % 2 ^ 32) (max m p.stamp)

/-- What a frame's placement needs once its tests are passed. -/
structure Landing where
  fresh : List Nat
  dom   : Option DomSlot
  pages : List (Nat × Nat)
  deriving DecidableEq, Repr

/-- A frame that passed every test is placed. -/
def State.landFrame (s : State) (x : Win) (a : WinAt) (h : FrameHdr) (body : List Byte) (l : Landing) : State :=
  let who := windowWho x.port x.ctx
  let w := a.wcb
  let s := match l.dom with
    | some d => l.fresh.foldl (fun (s : State) p => s.evictPage who w d p) s
    | none => s
  let gone := lostBefore w x.placed h.seq
  let s := gone.foldl (fun s q => s.winWrite who 2 (w.entryVa q) (indexEntry 0 q 0 0 true)) s
  let s := s.writeRows who w l.pages h.rows body
  let s := s.winWrite who 2 (w.entryVa h.seq) (indexEntry h.stamp h.seq h.rows w.nrow false)
  let me : Placed := { seq := h.seq, stamp := h.stamp, first := w.nrow, count := h.rows }
  let valid := me :: (gone.map fun q => { seq := q, stamp := 0, first := 0, count := 0 }) ++ x.placed
  let adv := advanceSeq valid valid.length w.cseq w.cstamp
  let ring : Bool := l.pages.any fun p => w.sink ≤ p.1
  let state := if !l.fresh.isEmpty then WState.running
    else if w.state == WState.filling && ring then WState.running else w.state
  let w' : Wcb :=
    { w with cseq := adv.1, cstamp := adv.2, nrow := w.nrow + h.rows, lost := satCount w.lost gone.length, state := state
             evict := (w.evict + l.fresh.length) % 2 ^ 32 }
  let s := s.putWcb a w'
  let s := if adv.1 == w.cseq then s else s.wakeEvent (a.loc.add wcbPart)
  let near (p : Placed) : Bool := seqDiff adv.1 p.seq < 2 ^ 23
  let x' : Win := { x with placed := valid.filter near }
  let s := s.modWin x.ctx x.va fun _ => x'
  let s := s.modPort x.port fun p => { p with rxok := wrap32 p.rxok }
  s.releaseHeld x.ctx x' adv.2 adv.1

/-- A frame at its window: the tests of R390 in their order, then its placement. -/
def State.placeFrame (s : State) (x : Win) (a : WinAt) (h : FrameHdr) (body : List Byte) : State :=
  let who := windowWho x.port x.ctx
  let w := a.wcb
  let dropAt (w : Wcb) (s : State) (f : Wcb → Wcb) : State := s.putWcb a (f w)
  let drop := dropAt w
  let full (y : Wcb) : Wcb := { y with full := satCount y.full 1 }
  let bad (y : Wcb) : Wcb := { y with bad := satCount y.bad 1 }
  if h.rowlog != w.rowsz then drop s bad
  else if seqDiff h.seq w.cseq ≤ 0 || x.placed.any (·.seq == h.seq) then
    drop s fun y => { y with dup := satCount y.dup 1 }
  else if (2 ^ w.ficap : Nat) < seqDiff h.seq w.cons then drop s full
  else
    let os := w.fresh h.rows
    let fresh := os.map w.pageOf
    let entered := ((List.range h.rows).map fun i => w.pageOf (w.nrow + i)).eraseDups
    let entries := (lostBefore w x.placed h.seq ++ [h.seq]).map w.entryVa
    let finish (w : Wcb) (s : State) (pool : Option Qcb) (d : Option DomSlot) : State :=
      let r : Except TFault (List (Nat × Nat)) := match s.winReachAll who .wr 24 entries with
        | .error e => .error e
        | .ok () => s.winPages who w pool fresh entered
      match r with
      | .error f => dropAt w (s.errXlate x.ctx f.noTeam) bad
      | .ok pages => s.landFrame x { a with wcb := w } h body { fresh := fresh, dom := d, pages := pages }
    if os.isEmpty then finish w s none none
    else if !os.all (w.evictable x.placed) then drop s full
    else
      match s.poolAt who w os.length with
      | (none, s) => drop s fun y => full { y with state := WState.starved }
      | (some (_, _, q), s) =>
        -- the pool records are found: the window is Starved no longer, whatever becomes of the frame (R389)
        let w := if w.state == WState.starved then { w with state := WState.running } else w
        match FMap.look (s.ctx x.ctx).doms w.dslot with
        | none => dropAt w s full
        | some d =>
          let r := s.retireRoom x.ctx d
          if r.1 < os.length then dropAt w r.2 full else finish w r.2 (some q) (some d)

/-- The next frame that waits for a window. -/
def State.frameFor (s : State) (x : Win) : Option FrameIn := s.sched.frames.find? fun f => f.ctx == x.ctx && f.va == x.va

/-- The engine of a window acts on a frame that arrived for it (R389, R390). -/
def State.takeFrame (s : State) (x : Win) (f : FrameIn) : State :=
  let s := s.withSched fun y => { y with frames := y.frames.erase f }
  match s.winPlace (windowWho x.port x.ctx) x.va, s.winAt x, frameHdr f.frame.payload with
  | .ok p, some a, some h => (s.usePlace (windowWho x.port x.ctx) .rmw p).placeFrame x a h (f.frame.payload.drop 32)
  | .error e, _, _ => (s.errXlate x.ctx e.noTeam).modPort x.port fun p => { p with nowin := wrap32 p.nowin }
  | _, _, _ => s

/-- WINDOW_FRAME: window w's engine acts on the next frame that arrived for it. -/
def execWindowFrame (w : Nat) (s : State) : Host.Outcome State Fault Refusal :=
  match s.sched.wins[w]? with
  | none => stutter s
  | some x =>
    match s.frameFor x with
    | none => stutter s
    | some f => .next (s.takeFrame x f)

/-! ## Ticks whose time has come (R389, R391) -/

/-- The frames that wait for a window are placed, n at most. -/
def State.takeFrames (s : State) (ctx va : Nat) : Nat → State
  | 0 => s
  | n + 1 =>
    match s.openWin ctx va with
    | none => s
    | some x =>
      match s.frameFor x with
      | none => s
      | some f => (s.takeFrame x f).takeFrames ctx va n

/-- The ticks of a slot whose time has come are evaluated, n at most, the frames that arrived before them placed first. -/
def State.runSlot (s : State) (c i : Nat) : Nat → State
  | 0 => s
  | n + 1 =>
    match FMap.look (s.ctx c).ticks i with
    | none => s
    | some x =>
      let due := match x.held with
        | some d => d ≤ s.clk.ns
        | none => x.next ≤ s.clk.ns
      if !due then s
      else
        let s := s.takeFrames c x.win s.sched.frames.length
        match FMap.look (s.ctx c).ticks i with
        | none => s
        | some x =>
          let s := match x.held with
            | some d => if d ≤ s.clk.ns then s.endHold c i x else s
            | none => if x.next ≤ s.clk.ns then s.evalTick c i x else s
          s.runSlot c i n

/-- The evaluations that a slot can be due for: its ticks and the ends of their holds. -/
def TickSlot.dueCount (ns : Nat) (x : TickSlot) : Nat := 2 * ((ns - x.next) / max x.period 1 + 1)

/-- Every tick whose time has come is evaluated, before the machine goes on to another cycle. -/
def State.closeTicks (s : State) : State :=
  (s.sched.ctxs.flatMap fun c => (c.2.ticks.filter (·.1 < 16)).map fun t => (c.1, t.1, t.2.dueCount s.clk.ns)).foldl
    (fun s x => s.runSlot x.1 x.2.1 x.2.2) s

/-! ## The window instructions (R393 to R396) -/

/-! Status values of R393. -/
namespace WStat
def ok : Nat := 0
def full : Nat := 1
def empty : Nat := 2
def badwin : Nat := 3
def badrec : Nat := 4
def notick : Nat := 5
def range : Nat := 6
end WStat

/-- The result of a window instruction. -/
def Team.setWin (t : Team) (d status v : Nat) : Team := t.setResult d (v + status * 2 ^ 60)

/-- The block a team names: its fields, what reading it used, and whether it is well-formed (R388, R393). -/
def State.teamWin (s : State) (t : Team) (va : Nat) : Except Trap (WinAt × Bool × State) := do
  match ← s.resolveLanes t .rmw 128 128 [(none, va)] with
  | [p] =>
    match p.loc with
    | some l =>
      if localDev p then
        let s := (s.usePlaces t .rmw [p]).meetHome t.cluster p
        let v := s.locNat p.slot l 128
        return ({ loc := l, key := p.slot, wcb := Wcb.ofNat v }, (Wcb.ofNat v).ok v, s)
      else raise Code.access
    | none => raise Code.access
  | _ => raise Code.access

/-- The open window of a team's context that a block names, if the block is well-formed. -/
def State.teamOpen (s : State) (t : Team) (va : Nat) (good : Bool) : Option Win :=
  if good then s.openWin (s.ctxOf t) va else none

/-- The first tick at or after a time. -/
def firstTick (t0 period : Int) (ns : Nat) : Nat :=
  let d : Int := (ns : Int) - t0
  (if d ≤ 0 then t0 else t0 + (d + period - 1) / period * period).toNat

/-- The launch record is counted with one gang and passes R344 (R393). -/
def State.tickRecord (s : State) (c p va : Nat) : Bool × State :=
  match s.agentRead (s.schedWho c) va 64 with
  | .error _ => (false, s)
  | .ok (bs, s) =>
    let v := leNat bs
    let r := Lrec.ofNat v
    if r.mode != modeCounted || r.count != 1 then (false, s)
    else
      let k := s.checkKernel p c r v
      (k.1 == LStatus.ok, k.2.2)

/-- TICKARM (R394). -/
def tickarmOp (o : Ec) (s : State) (t : Team) : Except Trap Done := do
  let b := o.b.toNat
  let policy := bitsOf o.e.toNat 1 0
  let va ← t.addr o.a.toNat
  let lrec ← t.addr o.c.toNat
  let t0 ← t.int b
  let period ← t.int (b + 1)
  let lag ← t.int (b + 2)
  let g ← if policy == policyHold then t.int (b + 3) else .ok 0
  require (10000 ≤ period && period ≤ 2 ^ 40 && 0 ≤ lag && lag ≤ 2 ^ 40 &&
    (policy != policyHold || (0 < g && g < period))) Code.arith
  let (a, good, s) ← s.teamWin t va.toNat
  let c := s.ctxOf t
  let part := ((s.gangOf t).map (·.src.part)).getD 0
  let fin (s : State) (status v : Nat) : Except Trap Done := .ok (.next (s.modTeam t.id fun u => u.setWin o.d.toNat status v))
  match s.teamOpen t va.toNat good with
  | none => fin s WStat.badwin 0
  | some _ =>
    let r := s.tickRecord c part lrec.toNat
    if !r.1 then fin r.2 WStat.badrec 0
    else
      match (List.range 16).find? fun i => (FMap.look (r.2.ctx c).ticks i).isNone with
      | none => fin r.2 WStat.full 0
      | some i =>
        let x : TickSlot :=
          { win := va.toNat, next := firstTick t0 period s.clk.ns, period := period.toNat, lag := lag.toNat, hold := g.toNat
            policy := policy, lrec := lrec.toNat, part := part, served := a.wcb.cons, missed := 0, skip := 0, held := none, cand := none }
        fin (r.2.modCtx c fun y => { y with ticks := FMap.put y.ticks i x }) WStat.ok i

/-- TICKARM. -/
def execTickarm (h : Hd) (o : Ec) (s : State) : Host.Outcome State Fault Refusal :=
  issueLong s h.fb (fun _ => true) (tickarmOp o)

/-- A slot is disarmed: a held fire is discarded, a gang that waits to be placed stands on under a number of its own. -/
def Ctx.disarm (x : Ctx) (i : Nat) : Ctx :=
  match FMap.look x.ticks i with
  | none => x
  | some y =>
    let ticks := FMap.del x.ticks i
    match y.cand with
    | none => { x with ticks := ticks }
    | some k =>
      let j := ((List.range ticks.length).map (16 + ·)).find? fun j => (FMap.look ticks j).isNone
      let j := j.getD (16 + ticks.length)
      match k.origin with
      | .tick c _ => { x with ticks := FMap.put ticks j { y with held := none, cand := some { k with origin := .tick c j } } }
      | _ => { x with ticks := ticks }

/-- TICKDIS (R394). -/
def tickdisOp (o : Ec) (s : State) (t : Team) : Except Trap Done := do
  let n ← t.int o.a.toNat
  let c := s.ctxOf t
  let armed := 0 ≤ n && n < 16 && (FMap.look (s.ctx c).ticks n.toNat).isSome
  let s := if armed then s.modCtx c fun x => x.disarm n.toNat else s
  return .next (s.modTeam t.id fun u => u.setWin o.d.toNat (if armed then WStat.ok else WStat.notick) 0)

/-- TICKDIS. -/
def execTickdis (h : Hd) (o : Ec) (s : State) : Host.Outcome State Fault Refusal :=
  issueLong s h.fb (fun _ => true) (tickdisOp o)

/-- PTE.PIN of every entry that maps a part of a page set or cleared, in all the replicas of its leaf (R195, R199). -/
def State.pinPage (s : State) (ctx va n : Nat) (on : Bool) : State :=
  (List.range (n / 4096)).foldl (fun s i =>
    match s.walk (s.ctx ctx).key (va + 4096 * i) 3 (s.ctx ctx).root with
    | .error _ => s
    | .ok x =>
      let key := (s.ctx ctx).key
      let set (s : State) (a : Nat) : State :=
        let b := s.homeByte (some key) (a + 1)
        s.homeStore (some key) (a + 1) (if on then b ||| 1 else b &&& 0xFE)
      let mark (e : Tlb) : Tlb :=
        if e.ctx == ctx && x.entries.contains e.entry then { e with leaf := { e.leaf with pin := on } } else e
      (x.entries.foldl set s).withMem fun m => { m with tlb := m.tlb.map mark }) s

/-- The sink pages of a window pinned or unpinned. -/
def State.pinSinks (s : State) (who : Who) (w : Wcb) (on : Bool) : State :=
  (List.range w.sink).foldl (fun s p =>
    match s.winAddr who (w.listVa p) with
    | .error _ => s
    | .ok a => if 2 ^ 57 ≤ a || inWindow a then s else s.pinPage who.ctx a w.pageBytes on) s

/-- WCLAIM.open (R395). -/
def wclaimOpenOp (o : Ec) (s : State) (t : Team) : Except Trap Done := do
  let va := (← t.addr o.a.toNat).toNat
  let (a, good, s) ← s.teamWin t va
  let s := s.ecBefore t o
  let c := s.ctxOf t
  let w := a.wcb
  let fin (s : State) (status : Nat) : Except Trap Done :=
    .ok (.next ((if o.acq && status == WStat.ok then s.acquire t o.scope.toNat else s).modTeam t.id fun u =>
      u.setWin o.d.toNat status 0))
  let hoop := ((FMap.look (s.ctx c).doms w.dslot).map (·.kind)) == some 3
  if !good || w.state != WState.closed || (s.openWin c va).isSome || !hoop ||
      s.sched.wins.any (fun x => x.port == w.port && x.stream == w.stream) then fin s WStat.badwin
  else if 32 ≤ (s.sched.wins.filter (·.port == w.port)).length then fin s WStat.full
  else
    let s := s.withSched fun x =>
      { x with wins := x.wins ++ [{ port := w.port, stream := w.stream, ctx := c, va := va, placed := [] }] }
    let s := s.pinSinks (windowWho w.port c) w true
    fin (s.putWcb a { w with state := WState.filling }) WStat.ok

/-- WCLAIM.open. -/
def execWclaimOpen (h : Hd) (o : Ec) (s : State) : Host.Outcome State Fault Refusal :=
  issueLong s h.fb (fun _ => true) (wclaimOpenOp o)

/-- A range mode of WCLAIM: the range is read inside a reader section (R395). -/
def wclaimRange (o : Ec) (s : State) (t : Team) (va : Nat) (pick : Gang → Win → Wcb → Option (Nat × Nat)) :
    Except Trap Done := do
  let (a, good, s) ← s.teamWin t va
  let w := a.wcb
  require ((t.reader w.dslot).depth != 0) Code.rsecdepth
  let s := s.ecBefore t o
  let fin (s : State) (status v : Nat) : Except Trap Done := .ok (.next (s.modTeam t.id fun u => u.setWin o.d.toNat status v))
  match s.teamOpen t va good, s.gangOf t with
  | some x, some g =>
    match pick g x w with
    | none => fin s WStat.notick 0
    | some (n, last) =>
      if n == 0 then fin s WStat.empty w.cons
      else fin (if o.acq then s.acquire t o.scope.toNat else s) WStat.ok (last + n * 2 ^ 32)
  | _, _ => fin s WStat.badwin 0

/-- WCLAIM: the frames after CONS through the last complete one stamped at or below a limit. -/
def wclaimOp (o : Ec) (s : State) (t : Team) : Except Trap Done := do
  let va ← t.addr o.a.toNat
  let lim ← t.int o.b.toNat
  wclaimRange o s t va.toNat fun _ x w =>
    let last := rangeLast x.placed w.cseq lim w.cons
    some ((seqDiff last w.cons).toNat, last)

/-- WCLAIM (R395). -/
def execWclaim (h : Hd) (o : Ec) (s : State) : Host.Outcome State Fault Refusal :=
  issueLong s h.fb (fun _ => true) (wclaimOp o)

/-- WCLAIM.tick: the range of the fire that launched the gang. -/
def wclaimTickOp (o : Ec) (s : State) (t : Team) : Except Trap Done := do
  let va ← t.addr o.a.toNat
  wclaimRange o s t va.toNat fun g _ _ => g.src.range.map fun r => (r.count, r.last)

/-- WCLAIM.tick (R395). -/
def execWclaimTick (h : Hd) (o : Ec) (s : State) : Host.Outcome State Fault Refusal :=
  issueLong s h.fb (fun _ => true) (wclaimTickOp o)

/-- WREL: CONS moves to a sequence number from CONS to CSEQ. -/
def wrelOp (o : Ec) (s : State) (t : Team) : Except Trap Done := do
  let va := (← t.addr o.a.toNat).toNat
  let n ← t.int o.b.toNat
  let (a, good, s) ← s.teamWin t va
  let s := s.ecBefore t o
  let w := a.wcb
  let q := (n % 2 ^ 32).toNat
  let fin (s : State) (status : Nat) : Except Trap Done := .ok (.next (s.modTeam t.id fun u => u.setWin o.d.toNat status 0))
  if (s.teamOpen t va good).isNone then fin s WStat.badwin
  else if !(reached q w.cons && reached w.cseq q) then fin s WStat.range
  else fin (s.putWcb a { w with cons := q }) WStat.ok

/-- WREL (R396). -/
def execWrel (h : Hd) (o : Ec) (s : State) : Host.Outcome State Fault Refusal :=
  issueLong s h.fb (fun _ => true) (wrelOp o)

/-- A window leaves its engine: its ticks are disarmed, its sink pages unpinned; frames not yet placed find no window. -/
def State.closeWin (s : State) (x : Win) (a : WinAt) : State :=
  let mine (i : Nat × TickSlot) : Bool := i.1 < 16 && i.2.win == x.va
  let ks := ((s.ctx x.ctx).ticks.filter mine).map (·.1)
  let s := s.modCtx x.ctx fun c => ks.foldl Ctx.disarm c
  let s := s.pinSinks (windowWho x.port x.ctx) a.wcb false
  let late := (s.sched.frames.filter fun f => f.ctx == x.ctx && f.va == x.va).length
  let s := s.modPort x.port fun p => { p with nowin := (p.nowin + late) % 2 ^ 32 }
  let s := s.withSched fun y =>
    { y with
      wins := y.wins.filter fun w => !(w.ctx == x.ctx && w.va == x.va)
      frames := y.frames.filter fun f => !(f.ctx == x.ctx && f.va == x.va) }
  s.putWcb a { a.wcb with state := WState.closed }

/-- Every page of the page list retired, in its order. -/
def State.retireAll (s : State) (who : Who) (w : Wcb) (d : DomSlot) : State :=
  (List.range w.pages).foldl (fun s p =>
    match s.winAddr who (w.listVa p) with
    | .error f => s.errXlate who.ctx f.noTeam
    | .ok a => s.retirePage who.ctx w d a) s

/-- WREL.close: all its retire records in one step, or FULL and nothing. -/
def wrelCloseOp (o : Ec) (s : State) (t : Team) : Except Trap Done := do
  let va := (← t.addr o.a.toNat).toNat
  let (a, good, s) ← s.teamWin t va
  let s := s.ecBefore t o
  let c := s.ctxOf t
  let fin (s : State) (status : Nat) : Except Trap Done := .ok (.next (s.modTeam t.id fun u => u.setWin o.d.toNat status 0))
  match s.teamOpen t va good with
  | none => fin s WStat.badwin
  | some x =>
    match FMap.look (s.ctx c).doms a.wcb.dslot with
    | none => fin s WStat.full
    | some d =>
      let r := s.retireRoom c d
      if r.1 < a.wcb.pages then fin r.2 WStat.full
      else fin ((r.2.retireAll (windowWho x.port c) a.wcb d).closeWin x a) WStat.ok

/-- WREL.close (R396). -/
def execWrelClose (h : Hd) (o : Ec) (s : State) : Host.Outcome State Fault Refusal :=
  issueLong s h.fb (fun _ => true) (wrelCloseOp o)

end Sys2Proof.Machine
end

