-- ==== Sys2Proof/Machine/Collective.lean ====
section
/-! DEFINITION. Chains as their engines walk them, and collectives (spec/15_queue.md R319 to R323; spec/20_link.md R402 to
R406). -/

namespace Sys2Proof.Machine

/-! ## Collective items (R402 to R404) -/

/-! The operations of R403. -/
namespace COp
def allReduce : Nat := 0
def reduceScatter : Nat := 1
def allGather : Nat := 2
def broadcast : Nat := 3
def barrier : Nat := 4
def noop : Nat := 5
end COp

/-- The tag of a collective type. -/
def collTag (ty : Nat) : Tag := ([Tag.i32, Tag.n32, Tag.i64, Tag.f32, Tag.f64][ty]?).getD Tag.i32

/-- Bytes of an element. -/
def elemBytes (ty : Nat) : Nat := if ty == 2 || ty == 4 then 8 else 4

/-- The collective engine of a die. -/
def collEngine (die : Nat) : Nat := die * 128 + 76

/-- Source and destination bytes among m members. -/
def collSizes (op ty count m : Nat) : Nat × Nat :=
  let n := count * elemBytes ty
  if op == COp.reduceScatter then (m * n, n)
  else if op == COp.allGather then (n, m * n)
  else if op == COp.allReduce || op == COp.broadcast then (n, n)
  else (0, 0)

/-- The fields of a collective group descriptor. -/
structure Cgd where
  group   : BitVec 32
  die     : Nat
  timeout : Nat
  members : List Nat
  deriving DecidableEq, Repr

/-- No value of a list stands twice in it. -/
def allDistinct : List Nat → Bool
  | [] => true
  | x :: r => !r.contains x && allDistinct r

/-- The descriptor of 320 bytes, or none when it breaks its limits. -/
def cgdOf (self : Option Nat) (bs : List Byte) : Option Cgd :=
  let v := leNat bs
  let m := bitsOf v 40 32
  let ids := (List.range m).map fun i => bitsOf v (8 * (64 + i) + 7) (8 * (64 + i))
  let clean := bitsOf v 47 41 == 0 && bitsOf v 63 51 == 0 && bitsOf v 511 96 == 0 && v / 2 ^ (8 * (64 + m)) == 0
  let here := match self with
    | some p => ids.contains p
    | none => false
  if clean && 1 ≤ m && m ≤ 256 && allDistinct ids && here then
    some { group := BitVec.ofNat 32 v, die := bitsOf v 50 48, timeout := bitsOf v 95 64, members := ids }
  else none

/-- Bytes an item names lie in this package's device memory, or with `seg` in chip scratchpad as well. -/
def State.collReach (s : State) (w : Who) (a : Access) (seg : Bool) : Nat → Nat → Nat → Except LErr Unit
  | 0, _, _ => .ok ()
  | fuel + 1, va, n =>
    if n == 0 then .ok ()
    else
      match s.resolve w a (inBlock va n) 1 (va % 2 ^ 64) with
      | .error e => .error e
      | .ok p =>
        if if seg then homedPlace p else localDev p then s.collReach w a seg fuel (va + inBlock va n) (n - inBlock va n)
        else .error (.err Code.access none)

/-- Bytes an item reads. -/
def State.collLoad (s : State) (e : Nat) (w : Who) (seg : Bool) (va n : Nat) : Except LErr (List Byte × State) :=
  match s.collReach w .rd seg (n / 512 + 2) va n with
  | .error x => .error x
  | .ok () =>
    match s.engLoad e w va n with
    | .error x => .error x
    | .ok (bs, _, s) => .ok (bs, s)

/-- Bytes an item writes: all of them, or none. -/
def State.collStore (s : State) (w : Who) (va : Nat) (bs : List Byte) : Except LErr State :=
  match s.collReach w .wr true (bs.length / 512 + 2) va bs.length with
  | .error x => .error x
  | .ok () => .ok (s.winWrite w (bs.length / 512 + 2) va bs)

/-- Another member's contribution agrees with an item's own. -/
def CollItem.agrees (i : CollItem) (f : Flit) : Bool :=
  f.digest == i.digest && f.op == i.op && f.ty == i.ty && f.red == i.red && f.count == i.count

/-- A message of an item to every other member, on the collective channel (R399). -/
def State.toMembers (s : State) (i : CollItem) (to' : List Nat) (body : PodOut) : State :=
  s.byDie i.die fun s =>
    ((i.members ++ to').eraseDups.filter (some · != s.pkg)).foldl (fun s p => s.sendOut p .collective body) s

/-- A contribution taken into an item: one that disagrees fails it with BADDESC, and its senders get a mismatch, which ends
their items so (R402). -/
def State.takeFlit (s : State) (i : CollItem) (f : Flit) : CollItem × State :=
  if !i.agrees f then
    ({ i with status := some (i.status.getD EStat.baddesc) }, s.toMembers i [f.pkg] (.mismatch i.group i.turn))
  else if i.members.length ≤ f.ordinal || i.flits.any (·.ordinal == f.ordinal) then (i, s)
  else ({ i with flits := i.flits ++ [f] }, s)

/-- A mismatch that another member returns for a collective of a group at a die: its item here ends with BADDESC (R402). -/
def State.mismatched (s : State) (die : Nat) (g : BitVec 32) (turn : Nat) : State :=
  s.withEng fun e => { e with colls := e.colls.map fun i =>
    if i.die == die && i.group == g && i.turn == turn && !i.members.isEmpty then
      { i with status := some (i.status.getD EStat.baddesc) } else i }

/-- The collectives begun on a group at a die. -/
def State.turnsOf (s : State) (die : Nat) (g : BitVec 32) : Nat :=
  ((s.eng.turns.find? fun x => x.1 == die && x.2.1 == g).map (·.2.2)).getD 0

/-- An item joins the next collective of its group: its contribution goes to the other members, and those that arrived
before it are taken. -/
def State.joinColl (s : State) (i : CollItem) (data : List Byte) : State :=
  let j := s.turnsOf i.die i.group
  let i := { i with turn := j }
  let mine : Flit :=
    { pkg := s.pkg.getD 0, die := i.die, group := i.group, seq := j, ordinal := i.self, digest := i.digest, op := i.op, ty := i.ty, red := i.red
      count := i.count, data := data }
  let i := { i with flits := [mine] }
  let here (f : Flit) : Bool := f.die == i.die && f.group == i.group && f.seq == j
  let fs := s.eng.early.filter here
  let s := s.toMembers i [] (.flit mine)
  let s := s.withEng fun e =>
    { e with
      early := e.early.filter (!here ·)
      turns := e.turns.filter (fun x => !(x.1 == i.die && x.2.1 == i.group)) ++ [(i.die, i.group, j + 1)] }
  let r := fs.foldl (fun (x : CollItem × State) f => x.2.takeFlit x.1 f) (i, s)
  r.2.withEng fun e => { e with colls := e.colls ++ [r.1] }

/-- An item begins: its barrier object, its fields, its acquire, its descriptor, its source (R99, R402, R403). An item whose
descriptor is sound joins its collective even when it fails. -/
def State.beginColl (s : State) (i : CollItem) (bad : Bool) : State :=
  let e := collEngine i.die
  let w := s.itemWho e i.ctx i.team
  let add (s : State) (i : CollItem) : State := s.withEng fun x => { x with colls := x.colls ++ [i] }
  let fail (s : State) (i : CollItem) (st : Nat) : State := add s { i with status := some st }
  match s.itemBarrier w i.bar with
  | .error st => fail s i st
  | .ok b =>
    let i : CollItem := { i with barLoc := b }
    if bad then fail s i EStat.baddesc
    else if i.op == COp.noop then add s i
    else if i.descVa % 64 != 0 then fail s i EStat.align
    else
      let s := match i.team.bind s.team with
        | some t => if i.acq && 4 ≤ i.scope then s.writeBackAll t.cluster else s
        | none => s
      match s.collLoad e w false i.descVa 320 with
      | .error x => fail s i x.status
      | .ok (bs, s) =>
        match cgdOf s.pkg bs with
        | none => fail s i EStat.baddesc
        | some g =>
          let sizes := collSizes i.op i.ty i.count g.members.length
          let i : CollItem :=
            { i with
              die := g.die, group := g.group, members := g.members
              self := (g.members.idxOf? (s.pkg.getD 0)).getD 0
              digest := (Config.shake256 bs).take 32
              began := s.now, limit := if g.timeout == 0 then none else some (g.timeout * oneUs) }
          if fourMiB < sizes.1 || fourMiB < sizes.2 then s.joinColl { i with status := some EStat.baddesc } []
          else if i.op == COp.broadcast && i.self != 0 then s.joinColl i []
          else
            match s.collLoad e w true i.source sizes.1 with
            | .error x => s.joinColl { i with status := some x.status } []
            | .ok (data, s) => s.joinColl i data

/-! ## Results (R404) -/

/-- Element k of a contribution. -/
def elemAt (ty : Nat) (data : List Byte) (k : Nat) : Nat := leNat ((data.drop (k * elemBytes ty)).take (elemBytes ty))

/-- One element position reduced over member ordinals in the tree of R179: no flush-to-zero, RNE, sums wrapped. -/
def reduceElem (ty red : Nat) (datas : List (List Byte)) (k : Nat) : Nat :=
  let tag := collTag ty
  let op := RedOp.ofField red
  let nodes := datas.map fun d => some (redIn tag false (elemAt ty d k), Sticky.none)
  let r := (redTree (redComb op tag false) 8 (nodes ++ List.replicate (256 - nodes.length) none)).getD (0, Sticky.none)
  (redOut op tag false r.1).1

/-- Elements n of a reduction from position k. -/
def reduceFrom (ty red : Nat) (datas : List (List Byte)) (k n : Nat) : List Byte :=
  (List.range n).flatMap fun j => leBytes (elemBytes ty) (reduceElem ty red datas (k + j))

/-- The contributions of an item in order of ordinal. -/
def CollItem.datas (i : CollItem) : List (List Byte) :=
  (List.range i.members.length).map fun o => ((i.flits.find? (·.ordinal == o)).map (·.data)).getD []

/-- The member's result. -/
def CollItem.result (i : CollItem) : List Byte :=
  if i.op == COp.allReduce then reduceFrom i.ty i.red i.datas 0 i.count
  else if i.op == COp.reduceScatter then reduceFrom i.ty i.red i.datas (i.self * i.count) i.count
  else if i.op == COp.allGather then i.datas.flatten
  else if i.op == COp.broadcast then i.datas.headD []
  else []

/-- The bytes that the member of an ordinal contributes: its source, of which a broadcast reads only ordinal 0's. -/
def CollItem.share (i : CollItem) (o : Nat) : Nat :=
  if i.op == COp.broadcast && o != 0 then 0 else (collSizes i.op i.ty i.count i.members.length).1

/-- Every member's contribution has arrived whole. -/
def CollItem.whole (i : CollItem) : Bool :=
  (List.range i.members.length).all fun o => i.flits.any fun f => f.ordinal == o && f.data.length == i.share o

/-- Bytes of an item's destination. -/
def CollItem.total (i : CollItem) : Nat := (collSizes i.op i.ty i.count (max 1 i.members.length)).2

/-! ## Completion (R403) -/

/-- An item that precedes another in its completion order (R322, R331). -/
def CollItem.precedes (a b : CollItem) : Bool :=
  match a.src, b.src with
  | .direct m, .direct n => a.die == b.die && a.ctx == b.ctx && m < n
  | .chain x _ _ m, .chain y _ _ n => x == y && m < n
  | _, _ => false

/-- A collective item with this number. -/
def State.coll (s : State) (id : Nat) : Option CollItem := s.eng.colls.find? (·.id == id)

/-- The gang whose windows hold a place is on no core: its bytes are in a save image. -/
def State.locAway (s : State) : Loc → Bool
  | .scratch g _ _ => (s.gang g).all (·.off)
  | .cluster g _ => (s.gang g).all (·.off)
  | _ => false

/-- The barrier arrivals of an item, piece by piece, with an error to record. An object that a save has taken off the cores is
not there to be Active (log entry 54). -/
def State.collArrive (s : State) (i : CollItem) (ns : List Nat) (err : Option (Nat × Nat)) : State :=
  match i.barLoc with
  | none => s
  | some b =>
    ns.foldl (fun (s : State) (n : Nat) =>
      if s.locAway b then s.errStray i.ctx noCore i.bar (-n) (collEngine i.die)
      else s.barArrive i.ctx noCore b i.bar n (collEngine i.die) err) s

/-- An item ends with a status. -/
def State.endColl (s : State) (i : CollItem) (status landed : Nat) : State :=
  let s := if status % 16 == 0 then s
    else
      (s.collArrive i [i.total - landed] (some (BarCode.engfault, status))).errEngine i.ctx (s.itemCore i.team) status
        (collEngine i.die) i.src
  (s.chainDone (s.itemWho (collEngine i.die) i.ctx i.team) i.src status).withEng fun e =>
    { e with colls := e.colls.filter (·.id != i.id) }

/-- The destination written once the whole result is formed, then the arrivals and the completion word. -/
def State.landColl (s : State) (i : CollItem) : State :=
  let e := collEngine i.die
  let w := s.itemWho e i.ctx i.team
  let bs := i.result
  match s.collStore w i.dst bs with
  | .error x => s.endColl i x.status 0
  | .ok s =>
    let s := s.engRelease e i.team i.rel i.scope
    let s := s.collArrive i ((piecesFrom (bs.length / 512 + 2) i.dst 0 bs.length).map (·.2.2)) none
    match s.completionWrite e w i.cword i.cvalue with
    | .ok s => s.endColl i 0 bs.length
    | .error x => (s.cwordFault i.ctx i.cword x).endColl i x.status bs.length

/-- CGD.TIMEOUT has passed for an item (R403); time in a stall does not count (R415). -/
def State.collLate (s : State) (i : CollItem) : Bool :=
  i.limit.any (· ≤ s.waited [i.die * 64 + 61, i.die * 64 + 63] i.began)

/-- COLLECTIVE_COMPLETE: an item that failed, or whose members have all contributed within its time, after every item before
it. -/
def execCollectiveComplete (x : Nat) (s : State) : Host.Outcome State Fault Refusal :=
  match s.coll x with
  | none => stutter s
  | some i =>
    if s.eng.colls.any fun y => y.precedes i then stutter s
    else
      match i.status with
      | some e => .next ((s.engRelease (collEngine i.die) i.team i.rel i.scope).endColl i e 0)
      | none => if i.whole && !s.collLate i then .next (s.landColl i) else stutter s

/-- COLLECTIVE_TIMEOUT: CGD.TIMEOUT has passed (R403). -/
def execCollectiveTimeout (x : Nat) (s : State) : Host.Outcome State Fault Refusal :=
  match s.coll x with
  | none => stutter s
  | some i =>
    if i.status.isNone && s.collLate i then
      .next (s.withEng fun e => { e with colls := e.colls.map fun y =>
        if y.id == x then { y with status := some EStat.timeout } else y })
    else stutter s

/-- COLLECTIVE_FLIT: a member's contribution arrives; one for a collective not yet begun here waits. -/
def execCollectiveFlit (f : Flit) (s : State) : Host.Outcome State Fault Refusal :=
  match s.eng.colls.find? fun i => i.die == f.die && i.group == f.group && i.turn == f.seq && !i.members.isEmpty with
  | some i =>
    let r := s.takeFlit i f
    .next (r.2.withEng fun e => { e with colls := e.colls.map fun y => if y.id == i.id then r.1 else y })
  | none =>
    if f.seq < s.turnsOf f.die f.group then stutter s else .next (s.withEng fun e => { e with early := e.early ++ [f] })

/-! ## XCOLL (R406) -/

/-- An item before it begins. -/
def CollItem.fresh (id die ctx : Nat) (team : Option Nat) (src : ItemSrc) : CollItem :=
  { id := id, die := die, ctx := ctx, team := team, src := src, op := 0, ty := 0, red := 0, count := 0, acq := false, rel := false
    scope := 0, dst := 0, source := 0, descVa := 0, cword := 0, cvalue := 0, bar := 0, barLoc := none, group := 0, turn := 0, members := []
    self := 0, digest := [], began := 0, limit := none, flits := [], status := none }

/-- The die that serves a group, as its descriptor names it; the team's own while it cannot be read. -/
def State.collDie (s : State) (t : Team) (va : Nat) : Nat :=
  match s.collLoad (collEngine t.die) (s.itemWho (collEngine t.die) (s.ctxOf t) (some t.id)) false va 8 with
  | .ok (bs, _) => bitsOf (leNat bs) 50 48
  | .error _ => t.die

/-- XCOLL. -/
def xcollOp (o : Ec) (s : State) (t : Team) : Except Trap Done := do
  let c := o.c.toNat
  let op := bitsOf o.e.toNat 2 0
  let desc ← t.addr o.a.toNat
  let src ← t.addr o.b.toNat
  let dst ← t.addr c
  let n ← t.int (c + 1)
  let cword ← t.addr (c + 2)
  let cvalue ← t.scalar (c + 3) Tag.any
  let bar ← t.addr (c + 4)
  require (0 ≤ n && n ≤ 2 ^ 22 && !(op == COp.barrier && n != 0)) Code.arith
  let die := s.collDie t desc.toNat
  let e := collEngine die
  let direct (i : CollItem) : Bool := match i.src with
    | .direct _ => true
    | _ => false
  if 64 ≤ (s.eng.colls.filter fun i => i.die == die && direct i).length then .error .stall
  else
    let ctx := s.ctxOf t
    let seq := s.nextSeq e ctx
    let k := s.newId
    let s := k.2.withEng fun g => { g with seqs := FMap.put g.seqs (e * 128 + ctx) (seq + 1) }
    let i : CollItem :=
      { CollItem.fresh k.1 die ctx (some t.id) (.direct seq) with
        op := op, ty := bitsOf o.e.toNat 5 3, red := bitsOf o.e.toNat 7 6, count := n.toNat, acq := o.acq, rel := o.rel
        scope := o.scope.toNat, dst := dst.toNat, source := src.toNat, descVa := desc.toNat, cword := cword.toNat
        cvalue := cvalue.toNat % 2 ^ 32, bar := bar.toNat }
    return .next ((s.beginColl i false).modTeam t.id fun u => u.setResult o.d.toNat seq)

/-- XCOLL (R406). -/
def execXcoll (h : Hd) (o : Ec) (s : State) : Host.Outcome State Fault Refusal :=
  issueLong s h.fb (fun _ => true) (xcollOp o)

/-! ## Chains (R322, R405) -/

/-- The item of a collective chain entry's 512 bits, and whether its fields break their limits. -/
def collChainItem (i : CollItem) (v : Nat) : CollItem × Bool :=
  let op := bitsOf v 3 0
  let bad := 6 ≤ op || 5 ≤ bitsOf v 11 9 || bitsOf v 13 12 == 3 || bitsOf v 15 14 != 0 || bitsOf v 511 448 != 0 ||
    bitsOf v 383 352 != 0 || (!(v.testBit 4 || v.testBit 5) && bitsOf v 8 6 != 0) || (op == COp.barrier && bitsOf v 63 32 != 0)
  ({ i with
     op := op, ty := bitsOf v 11 9, red := bitsOf v 13 12, count := bitsOf v 63 32, acq := v.testBit 4, rel := v.testBit 5
     scope := bitsOf v 8 6, dst := bitsOf v 127 64, source := bitsOf v 191 128, descVa := bitsOf v 255 192
     cword := bitsOf v 319 256, cvalue := bitsOf v 351 320, bar := bitsOf v 447 384 }, bad)

/-- Chain entries that an engine works on. -/
def State.chainWork (s : State) (e : Nat) : Nat :=
  let chain (x : ItemSrc) : Bool := match x with
    | .chain _ _ _ _ => true
    | _ => false
  (s.eng.items.filter fun i => i.engine == e && chain i.src).length +
    (s.eng.colls.filter fun i => collEngine i.die == e && chain i.src).length

/-- The engine claims the next visible entry of a chain and begins it; an entry it cannot read is a failed item. -/
def State.walkChain (s : State) (ctx va : Nat) (b : Loc) (key : Option Nat) (q : Qcb) : State :=
  let i := q.claim
  let entry := q.slotVa i
  let owner := ((s.qaux b).owners.find? (·.1 == i)).map (·.2)
  let w := agentWho (engineAgent q.engine) ctx (q.engine / 128)
  let n := s.newId
  let s := (n.2.qPut key b qClaim (i + 1)).noteServed (s.chainWho ctx) va
  let src : ItemSrc := .chain b key entry i
  let r := s.agentRead w entry 64
  let v := match r with
    | .ok (bs, _) => leNat bs
    | .error _ => 0
  let failed := match r with
    | .ok _ => none
    | .error e => some e.status
  let s := match r with
    | .ok (_, s) => s
    | .error _ => s
  if localEngine q.engine == 76 then
    let c := collChainItem (CollItem.fresh n.1 (q.engine / 128) ctx owner src) v
    match failed with
    | some e => s.withEng fun x => { x with colls := x.colls ++ [{ c.1 with status := some e }] }
    | none => s.beginColl c.1 c.2
  else
    let x := chainItem n.1 q.engine ctx owner src v s.now
    match failed with
    | some e => s.withEng fun g => { g with items := g.items ++ [{ x with begun := true, status := some e }] }
    | none => (s.withEng fun g => { g with items := g.items ++ [x] }).beginItem x

/-- CHAIN_ENTRY: the engine of a chain block takes its next visible entry; eight at once (R322). -/
def execChainEntry (ctx : Nat) (block : Word) (s : State) : Host.Outcome State Fault Refusal :=
  let va := block.toNat
  if (s.ctx ctx).st == .free || s.isUnreached (s.chainWho ctx) va then stutter s
  else
    match s.serve (s.chainWho ctx) va with
    | (none, s') => .next s'
    | (some (b, key, q), s') =>
      if q.kind != kindChain || q.tail ≤ q.claim || 8 ≤ s.chainWork q.engine then stutter s
      else .next (s'.walkChain ctx va b key q)

end Sys2Proof.Machine
end

