-- ==== Sys2Proof/Machine/Link.lean ====
section
/-! DEFINITION. Fabric links, multicast forking and the pod (spec/20_link.md R398 to R401; spec/10_sync_word.md R219). -/

namespace Sys2Proof.Machine

/-! ## Link states (R398) -/

/-- Fabric links of the package. -/
def fabricLinks : Nat := 18

/-- A link. -/
def State.fabricLink (s : State) (l : Nat) : Link := FMap.lookD s.link.links l { st := .down, replay := 0, since := 0 }

/-- A link replaced. -/
def State.setLink (s : State) (l : Nat) (x : Link) : State := s.withLink fun y => { y with links := FMap.put y.links l x }

/-- A link enters a state. -/
def State.enterLink (s : State) (l : Nat) (st : LinkState) : State := s.setLink l { st := st, replay := 0, since := s.now }

/-- A link in use. -/
def LinkState.sends (x : LinkState) : Bool := x == .up || x == .degraded

/-- 10 ms in cycles. -/
def tenMs : Nat := 10000 * oneUs

/-- A link's training has run out of time. -/
def Link.late (x : Link) (now : Nat) : Bool := x.since + tenMs ≤ now

/-- LINK_TRAINING_REQUEST of the physical function. -/
def execLinkTrainingRequest (l : Nat) (s : State) : Host.Outcome State Fault Refusal :=
  if fabricLinks ≤ l || s.linkState l == .training then stutter s else .next (s.enterLink l .training)

/-- LINK_TRAINED within 10 ms: all 8 lanes, 4 to 7, or fewer. -/
def execLinkTrained (l lanes : Nat) (s : State) : Host.Outcome State Fault Refusal :=
  if s.linkState l != .training || 8 < lanes || (s.fabricLink l).late s.now then stutter s
  else .next (s.enterLink l (if lanes == 8 then .up else if 4 ≤ lanes then .degraded else .down))

/-- LINK_TRAINING_TIMEOUT: 10 ms have passed. -/
def execLinkTrainingTimeout (l : Nat) (s : State) : Host.Outcome State Fault Refusal :=
  if s.linkState l == .training && (s.fabricLink l).late s.now then .next (s.enterLink l .down) else stutter s

/-- FLIT_CRC_FAIL: the flit is replayed; the eighth replay of one flit retrains the link. -/
def execFlitCrcFail (l : Nat) (s : State) : Host.Outcome State Fault Refusal :=
  let x := s.fabricLink l
  if !x.st.sends then stutter s
  else if 8 ≤ x.replay + 1 then .next (s.enterLink l .training)
  else .next (s.setLink l { x with replay := x.replay + 1 })

/-- LINK_FENCE of the physical function. -/
def execLinkFence (l : Nat) (s : State) : Host.Outcome State Fault Refusal :=
  if (s.linkState l).sends then .next (s.enterLink l .fenced) else stutter s

/-! ## Flits that leave (R398, R399) -/

/-- The link a flit of a die takes to a package: the primary while it is Up or Degraded, else the backup (R399). -/
def State.routeLink (s : State) (die pkg : Nat) : Nat :=
  let r := s.route die pkg
  if (s.linkState r.1).sends then r.1 else r.2

/-- Two messages wait for one link in one channel: they leave in their order. -/
def State.sameWay (s : State) (a b : OutFlit) : Bool :=
  a.chan == b.chan && s.routeLink a.die a.pkg == s.routeLink b.die b.pkg

/-- A message leaves on a link. -/
def State.leave (s : State) (l : Nat) (c : Chan) (body : PodOut) : State :=
  s.withHost fun h => { h with podOut := h.podOut ++ [{ link := l, chan := c, body := body }] }

/-- Waiting message k leaves, where its link is in use and no earlier one waits for the same link and channel. -/
def State.sendNext (s : State) (k : Nat) : State :=
  match s.link.out[k]? with
  | none => s
  | some f =>
    let l := s.routeLink f.die f.pkg
    if !(s.linkState l).sends || (s.link.out.take k).any (s.sameWay f) then s
    else (s.withLink fun x => { x with out := x.out.eraseIdx k }).leave l f.chan f.body

/-! ## Multicast forking (R401) -/

/-- Bytes of another package's write reach their home here under their page. -/
def State.podWrite (s : State) (p : PodPage) (pa : Nat) (bs : List Byte) : State :=
  (s.homeWrite (some p.slot) pa bs).touchLine (homeSlice p.place p.hdie pa) p.hint pa

/-- The request names this package's memory: PA[45:0] in its first two regions, populated. -/
def podLocal (pa n : Nat) : Bool := regionOf pa == .local && populated pa && populated (pa + n - 1)

/-- A multicast flit enters an input buffer of a router die; a copy arrives here where this package is of its set. -/
def State.mcastIn (s : State) (die port : Nat) (dests : List Nat) (p : PodPage) (pa : Nat) (bs : List Byte) : State :=
  let here (k : Nat) : Bool := s.pkg == some k
  let s := if dests.any here && podLocal pa bs.length then s.podWrite p pa bs else s
  let rest := dests.filter (!here ·)
  if rest.isEmpty then s
  else s.withLink fun x =>
    { x with mcast := x.mcast ++ [{ die := die, port := port, dests := rest, page := p, pa := pa, bytes := bs }] }

/-- The destinations of a flit that a branch link of its die takes. -/
def State.branchOf (s : State) (k : Nat) (m : Mcast) : List Nat := m.dests.filter fun d => s.routeLink m.die d == k

/-- The flit that a branch takes next: of those with destinations there, the oldest of the lowest input port. -/
def State.branchNext (s : State) (die k : Nat) : Option Mcast :=
  let ms := s.link.mcast.filter fun m => m.die == die && s.branchOf k m != []
  match leastOf (ms.map (·.port)) with
  | none => none
  | some p => ms.find? (·.port == p)

/-- A branch takes its copy of the first such flit of a list; a flit that every branch has taken is gone. -/
def takeBranch (m : Mcast) (gone : List Nat) : List Mcast → List Mcast
  | [] => []
  | x :: r =>
    if x == m then
      let d := x.dests.filter (!gone.contains ·)
      if d.isEmpty then r else { x with dests := d } :: r
    else x :: takeBranch m gone r

/-- MULTICAST_FLIT: branch link k of a router die takes the flit that stands first there. -/
def execMulticastFlit (die k : Nat) (s : State) : Host.Outcome State Fault Refusal :=
  match s.branchNext die k with
  | none => stutter s
  | some m =>
    if !(s.linkState k).sends then stutter s
    else
      .next ((s.withLink fun x => { x with mcast := takeBranch m (s.branchOf k m) x.mcast }).leave k .multicast
        (.copies (s.branchOf k m) m.pa m.bytes))

/-! ## Accesses in flight to a package that became unreachable (R400; log entry 13) -/

/-- The cycle since which no link reaches a package from a die: when the later of its two links went down. -/
def State.deadSince (s : State) (die pkg : Nat) : Nat :=
  let r := s.route die pkg
  max (s.fabricLink r.1).since (s.fabricLink r.2).since

/-- An access has been held for 65,536 cycles for want of a route (R400); time in a stall of its links does not count (R415). -/
def State.stranded (s : State) (f : Fly) : Bool :=
  f.pkgs.any fun p => !s.podReachable f.die p &&
    65536 ≤ s.waited [f.die * 64 + 61, f.die * 64 + 63] (s.deadSince f.die p)

/-- The lane registers of a file put back as they were in another. -/
def LaneFile.putBack (f old : LaneFile) (vs : List Nat) : LaneFile :=
  let mine (v : Nat) : Bool := vs.contains v
  let join {α : Type} (size : Nat) (m o : FMap α) : FMap α :=
    (o.filter fun c => mine (c.1 / size)).foldl (fun m c => FMap.put m c.1 c.2) (m.filter fun c => !mine (c.1 / size))
  { bits := join 1024 f.bits old.bits, tags := join 32 f.tags old.tags, taint := join 1 f.taint old.taint }

/-- The scalar registers put back as they were. -/
def putBackScalars (m old : FMap SReg) (ss : List Nat) : FMap SReg :=
  (old.filter fun c => ss.contains c.1).foldl (fun m c => FMap.put m c.1 c.2) (m.filter fun c => !ss.contains c.1)

/-- The accumulators put back as they were. -/
def Accs.putBack (a old : Accs) (cs : List Nat) : Accs :=
  let mine (c : Nat) : Bool := cs.contains c
  let join {α : Type} (size : Nat) (m o : FMap α) : FMap α :=
    (o.filter fun c => mine (c.1 / size)).foldl (fun m c => FMap.put m c.1 c.2) (m.filter fun c => !mine (c.1 / size))
  { elems := join 32768 a.elems old.elems, tags := join 32 a.tags old.tags, void := join 1 a.void old.void
    rank := join 1024 a.rank old.rank }

/-- The team as it was before an instruction that writes nothing: it stands at it again. -/
def Team.takeBack (t : Team) (f : Fly) : Team :=
  { t with pc := f.pc, clause := f.clause, file := t.file.putBack f.file f.vs, sregs := putBackScalars t.sregs f.sregs f.ss
           acc := t.acc.putBack f.acc f.cs, sticky := t.sticky &&& ~~~f.raised }

/-- A saved team of a group that halts while its gang is saved: it will be restored Halted, but for one that is Parked or has
ended. -/
def Team.haltSaved (t : Team) : Team :=
  match t.back with
  | .parked _ | .ended => t
  | _ => if t.st == .saved then { t with back := .halted } else t

/-- An access of a team ends with ACCESS: its messages are gone, it writes nothing, and its group halts at it (R356, R400). -/
def State.strand (s : State) (t : Team) (k : Nat) (f : Fly) : State :=
  let s := s.withLink fun x => { x with out := x.out.filter fun o => !(o.team == some t.id && f.pkgs.contains o.pkg) }
  let u := { t with pend := t.pend.eraseIdx k }.takeBack f
  let s := s.setTeam u
  if u.st == .saved then
    let s := (s.teamsOfGroup u.gang u.group).foldl (fun s v => s.modTeam v.id Team.haltSaved) s
    let s := s.modTeam u.id fun v => { v with back := .halted, err := Code.access }
    match s.gangOf u with
    | none => s
    | some g => s.pushEvent g u.group 0 Code.access none
  else ((s.withdraw u).takeTrap u (.err Code.access none)).leavePipe u.id

/-- POD_ACCESS_TIMEOUT: no route came back within 65,536 cycles; the group of the issuing team halts with ACCESS and the
instruction writes nothing. -/
def execPodAccessTimeout (t : Nat) (s : State) : Host.Outcome State Fault Refusal :=
  match s.team t with
  | none => stutter s
  | some u =>
    match u.pend.findIdx? fun p => p.fly.any s.stranded with
    | none => stutter s
    | some k =>
      match (u.pend[k]?).bind (·.fly) with
      | none => stutter s
      | some f => .next (s.strand u k f)

/-! ## Requests of other packages (R219) -/

/-- A reply to another package from the die of a line's home. -/
def State.podReply (s : State) (pkg die : Nat) (bs : List Byte) : State :=
  s.byDie die fun s => s.sendOut pkg .response (.reply pkg bs)

/-- A request on n bytes of this package at the home slice of its page; it meets the slice line with the page's hint. -/
def State.podAt (s : State) (p : PodPage) (pa n : Nat) (f : State → Nat → State) : Host.Outcome State Fault Refusal :=
  if podLocal pa n then
    let slice := homeSlice p.place p.hdie pa
    .next (f (s.touchLine slice p.hint pa) slice)
  else stutter s

/-- The atomic of another package at the execution point of its word: the old value returns. -/
def State.podAtomic (s : State) (pkg slice slot pa op ty : Nat) (ftz : Bool) (v w : Nat) : State :=
  let n := atomSize ty
  let l : Loc := .dev pa
  let s := s.withMem fun m => m.touchWord (slice / 36) l
  let old := s.locNat (some slot) l n
  let new := (atomNew ftz op ty old v w).1
  let s := s.locWrite (some slot) l (leBytes n new)
  let s := if crosses op ty old new w then s.wakeEvent l else s
  s.podReply pkg (slice / 36) (leBytes n old)

/-- POD_REQUEST of another package at a home in this one (R80, R98, R200, R214, R219). -/
def execPodRequest (q : PodReq) (s : State) : Host.Outcome State Fault Refusal :=
  match q with
  | .load pkg p pa n => s.podAt p pa n fun s d => s.podReply pkg (d / 36) (s.homeRead (some p.slot) pa n)
  | .store _ p pa bs => s.podAt p pa bs.length fun s _ => s.homeWrite (some p.slot) pa bs
  | .atomic pkg p pa op ty ftz v w =>
    let n := atomSize ty
    if pa % n == 0 && op ≤ 8 && ty ≤ 3 then
      s.podAt p pa n fun s d =>
        s.podAtomic pkg d p.slot pa op ty ftz (v.toNat % 2 ^ (8 * n)) (w.toNat % 2 ^ (8 * n))
    else stutter s
  | .orByte _ p pa b => s.podAt p pa 1 fun s _ => s.homeStore (some p.slot) pa (s.homeByte (some p.slot) pa ||| b)
  | .notice pkg p pa cl => s.podAt p pa 1 fun s d => s.narrowNotice d (pa / 512) (releaser (some pkg) cl)
  | .promote pkg p pa scope cl => s.podAt p pa 1 fun s d => s.promote d (pa / 512) scope (releaser (some pkg) cl)
  | .flush _ p pa scope => s.podAt p pa 1 fun s _ => if scope == 7 then s.dropLine (pa / 512) else s

end Sys2Proof.Machine
end

