-- ==== Sys2Proof/Machine/Host.lean ====
section
/-! DEFINITION. The host's accesses: doorbells, BAR windows, posted writes and registers (spec/20_link.md R408, R409, R412;
spec/05_ordering.md R100; spec/21_service.md R419). -/

namespace Sys2Proof.Machine

/-! ## Ownership and windows (R408) -/

/-- A function owns a context: its pages and windows are not those of others. -/
def State.owns (s : State) (f c : Nat) : Bool := c < 128 && (s.ctx c).st != .free && (s.ctx c).func == f

/-- The ingress as an accessor. -/
def State.hostWho (s : State) (ctx : Nat) : Who := s.nodeWho ingress ctx

/-- CTXA.BASE of a function for a context. -/
def State.winBaseOf (s : State) (f c : Nat) : Nat := FMap.lookD s.host.bases (f * 128 + c) 0

/-- Bytes of a BAR2 window. -/
def barWindow : Nat := 2 ^ 29

/-- The places of n bytes, in pieces within 512 bytes, checked before any is used. -/
def State.hostReach (s : State) (c : Nat) (a : Access) : Nat → Nat → Nat → Except TFault Unit
  | 0, _, _ => .ok ()
  | fuel + 1, va, n =>
    if n == 0 then .ok ()
    else
      match s.resolve (s.hostWho c) a (inBlock va n) 1 (va % 2 ^ 64) with
      | .error e => .error (e.asFault va a.code)
      | .ok _ => s.hostReach c a fuel (va + inBlock va n) (n - inBlock va n)

/-- The n bytes a BAR2 read returns. -/
def State.hostRead (s : State) (c : Nat) : Nat → Nat → Nat → List Byte × State
  | 0, _, _ => ([], s)
  | fuel + 1, va, n =>
    if n == 0 then ([], s)
    else
      let k := inBlock va n
      let r := match s.agentRead (s.hostWho c) va k with
        | .ok r => r
        | .error _ => (List.replicate k 0, s)
      let q := r.2.hostRead c fuel (va + k) (n - k)
      (r.1 ++ q.1, q.2)

/-! ## Posted writes (R100, R408, R409) -/

/-- Posted writes of a function in flight. -/
def State.inFlight (s : State) (f : Nat) : List Posted := s.host.posted.filter (·.func == f)

/-- A posted write enters; the ingress stalls at 256 of a function. -/
def State.post (s : State) (p : Posted) : Host.Outcome State Fault Refusal :=
  if 256 ≤ (s.inFlight p.func).length then stutter s
  else .next (s.withHost fun h => { h with posted := h.posted ++ [p] })

/-- DOORBELL: one posted write to offset 0 of a context's page; another function's is discarded. -/
def execDoorbell (f c : Nat) (bytes : List Byte) (s : State) : Host.Outcome State Fault Refusal :=
  if !s.owns f c then stutter s else s.post { func := f, ctx := c, va := 0, bytes := bytes, relaxed := false, bell := true }

/-- BAR2_WRITE: a posted write through a context's window. -/
def execBar2Write (f c off : Nat) (bytes : List Byte) (relaxed : Bool) (s : State) : Host.Outcome State Fault Refusal :=
  if !s.owns f c || barWindow < off + bytes.length then stutter s
  else s.post { func := f, ctx := c, va := s.winBaseOf f c + off, bytes := bytes, relaxed := relaxed, bell := false }

/-- A reply to a BAR2 read. -/
def State.reply (s : State) (f : Nat) (bs : Option (List Byte)) : State :=
  s.withHost fun h => { h with replies := h.replies ++ [{ func := f, bytes := bs }] }

/-- BAR2_READ: it returns once every earlier posted write of its function has taken effect; one that faults completes with
Unsupported Request, another function's window reads zero. -/
def execBar2Read (f c off n : Nat) (s : State) : Host.Outcome State Fault Refusal :=
  if !(s.inFlight f).isEmpty || barWindow < off + n || 4096 < n then stutter s
  else if !s.owns f c then .next (s.reply f (some (List.replicate n 0)))
  else
    let va := s.winBaseOf f c + off
    match s.hostReach c .rd (n / 512 + 2) va n with
    | .error e => .next ((s.errXlate c e.noTeam).reply f none)
    | .ok () =>
      let r := s.hostRead c (n / 512 + 2) va n
      .next (r.2.reply f (some r.1))

/-- A BAR2 write takes effect, or is dropped when it faults. -/
def State.hostWrite (s : State) (p : Posted) : State :=
  match s.hostReach p.ctx .wr (p.bytes.length / 512 + 2) p.va p.bytes.length with
  | .error e => s.errXlate p.ctx e.noTeam
  | .ok () => s.winWrite (s.hostWho p.ctx) (p.bytes.length / 512 + 2) p.va p.bytes

/-- A DOORBELL item (R454). -/
def State.errBell (s : State) (p : Posted) (status : Nat) : State :=
  s.errItem p.ctx 10 status noCore
    (padTo 8 (p.bytes.take 8) ++ leBytes 8 (p.func + p.ctx * 2 ^ 8) ++ padTo 32 ((p.bytes.drop 16).take 32))

/-- The kinds a doorbell may append to (R312). -/
def bellKinds : List Nat := [kindLaunch, kindRecord, kindToken, kindChain]

/-- A doorbell appends its record, which commits with it (R100), or is refused (R409). Bytes 8 to 15 of the
write are not judged (log entry 53). -/
def State.ringBell (s : State) (p : Posted) : State :=
  if p.bytes.length < 16 then s.errBell p QStatus.badbell
  else
    match s.serve (s.hostWho p.ctx) (leNat (p.bytes.take 8)) with
    | (none, s) => s.errBell p QStatus.badq
    | (some (b, key, q), s) =>
      if !bellKinds.contains q.kind then s.errBell p QStatus.kind
      else if p.bytes.length != 16 + 2 ^ q.rsize then s.errBell p QStatus.badbell
      else if q.head + 2 ^ q.rcap < q.resv + 1 then s.errBell p QStatus.full
      else s.appendNow (s.hostWho p.ctx).agent p.ctx key b q (p.bytes.drop 16)

/-- A posted write takes effect; one to a context its function no longer owns is discarded. -/
def State.effect (s : State) (p : Posted) : State :=
  if !s.owns p.func p.ctx then s else if p.bell then s.ringBell p else s.hostWrite p

/-- POSTED_WRITE_EFFECT: posted write k of a function takes effect, after every earlier one unless it is relaxed (R100). -/
def execPostedWriteEffect (f k : Nat) (s : State) : Host.Outcome State Fault Refusal :=
  match (s.inFlight f)[k]? with
  | none => stutter s
  | some p =>
    if k != 0 && !p.relaxed then stutter s
    else .next ((s.withHost fun h => { h with posted := h.posted.erase p }).effect p)

/-! ## Registers (R399, R408, R412, R419) -/

/-- PODID of the physical function; ignored while any context runs (R399). -/
def State.writePodid (s : State) (f v : Nat) : State :=
  if f != 0 || s.sched.ctxs.any (fun c => c.2.st == .running) then s else s.withLink fun x => { x with podid := v % 2 ^ 9 }

/-- SVC.PLIMIT, clipped (R419). -/
def State.writePlimit (s : State) (f v : Nat) : State :=
  if f != 0 then s else s.withSvc fun x => { x with plimit := max 1000 (min 4200 v) }

/-- PODID. -/
def execPodid (f : Nat) (v : Word) (s : State) : Host.Outcome State Fault Refusal := .next (s.writePodid f v.toNat)

/-- SVC_PLIMIT. -/
def execSvcPlimit (f : Nat) (v : Word) (s : State) : Host.Outcome State Fault Refusal := .next (s.writePlimit f v.toNat)

/-- The command registers of a function changed. -/
def State.modFunc (s : State) (f : Nat) (g : Func → Func) : State :=
  s.withHost fun h => { h with funcs := FMap.put h.funcs f (g (s.func f)) }

/-- Where the model puts TP.UDP of a time port in the physical function's BAR0 (log entry 15). -/
def udpOffset (port : Nat) : Nat := 0x900 + 8 * port

/-- A function register written; CMDCONS and unassigned offsets take no write. -/
def State.writeReg (s : State) (f off v : Nat) : State :=
  if off == 0 then s.modFunc f fun x => { x with cmdbase := v / 64 * 64 }
  else if off == 8 then s.modFunc f fun x => { x with cmdsize := v }
  else if off == 16 then s.modFunc f fun x => { x with cmdprod := v }
  else if 0x20 ≤ off && off < 0x20 + 8 * 128 && off % 8 == 0 then
    s.withHost fun h => { h with bases := FMap.put h.bases (f * 128 + (off - 0x20) / 8) (v / barWindow * barWindow) }
  else if off == 0x840 then s.writePodid f v
  else if off == 0x800 then s.writePlimit f v
  else if f == 0 && off == udpOffset 0 then s.modPort 0 fun p => { p with udp := v % 2 ^ 16 }
  else if f == 0 && off == udpOffset 1 then s.modPort 1 fun p => { p with udp := v % 2 ^ 16 }
  else s

/-- REGISTER_WRITE (R408). -/
def execRegisterWrite (f off : Nat) (v : Word) (s : State) : Host.Outcome State Fault Refusal :=
  if 64 ≤ f then stutter s else .next (s.writeReg f off v.toNat)

/-! ## BAR0 reads (R408) -/

/-- The value of a function register; none for an offset without one. -/
def State.regValue (s : State) (f off : Nat) : Option Nat :=
  let x := s.func f
  let port (i o : Nat) : Nat :=
    let p := s.timePort i
    ([p.udp, p.rxok, p.nowin, p.malf][o]?).getD 0
  if off == 0 then some x.cmdbase
  else if off == 8 then some x.cmdsize
  else if off == 16 then some x.cmdprod
  else if off == 24 then some x.cmdcons
  else if 0x20 ≤ off && off < 0x20 + 8 * 128 then some (s.winBaseOf f ((off - 0x20) / 8))
  else if f != 0 then none
  else if off == 0x800 then some s.svc.plimit
  else if off == 0x808 then some s.svc.power
  else if off == 0x810 then some s.svc.ratemin
  else if off == 0x818 then some s.svc.softlost
  else if off == 0x840 then some s.link.podid
  else if udpOffset 0 ≤ off && off < udpOffset 0 + 64 then some (port ((off - udpOffset 0) / 8 % 2) ((off - udpOffset 0) / 16))
  else none

/-- A byte of a function's BAR0: a register's, zero in the page of a context that the function does not own, and a free value
where the spec gives none. -/
def State.barByte (s : State) (f o : Nat) : Byte :=
  if o < 4096 then
    match s.regValue f (o / 8 * 8) with
    | some v => BitVec.ofNat 8 (v / 256 ^ (o % 8))
    | none => Config.barByte s.fresh o
  else if 0x80000 ≤ o && !s.owns f ((o - 0x80000) / 4096) then 0
  else Config.barByte s.fresh o

/-- The host reads n bytes of a function's BAR0. -/
def State.bar0Read (s : State) (f off n : Nat) : State :=
  if 64 ≤ f || 2 ^ 20 < off + n || 4096 < n then s
  else s.reply f (some ((List.range n).map fun i => s.barByte f (off + i)))

/-! ## The power governor (R419) -/

/-- The mean of a list of counts. -/
def mean (l : List Nat) : Nat := if l.isEmpty then 0 else l.foldl (· + ·) 0 / l.length

/-- GOVERNOR_EVAL: every 10 microseconds the rate of each core is set from the measured input power. -/
def execGovernorEval (watts : Nat) (s : State) : Host.Outcome State Fault Refusal :=
  let last := (s.svc.evals.head?.map (·.1)).getD 0
  if s.now < last + 10 * oneUs then stutter s
  else
    let rate (c : Nat) : Nat := (Config.governorRate s.fresh c).toNat
    let low := (List.range Config.cores).foldl (fun m c => min m (rate c)) 255
    let evals := (s.now, watts, low) :: s.svc.evals.filter fun e => s.now < e.1 + 1000 * oneUs
    let s := { s with cores := (List.range Config.cores).map fun c => (c, { s.core c with rate := rate c }) }
    .next (s.withSvc fun x =>
      { x with evals := evals, power := mean (evals.map (·.2.1)), ratemin := (evals.map (·.2.2)).foldl min 255 })

end Sys2Proof.Machine
end

