-- ==== Sys2Proof/Machine/Service.lean ====
section
/-! DEFINITION. Service commands: recalibration, firmware, fencing and attestation (spec/21_service.md R413 to R418). -/

namespace Sys2Proof.Machine

/-! ## Service commands (R413) -/

/-! Outcomes of a service command. -/
namespace SvcOut
def done : Nat := 0
def badsig : Nat := 1
def rollback : Nat := 2
def busy : Nat := 3
def failed : Nat := 4
end SvcOut

/-- An accepted service command with its outcome. -/
def State.outcome (s : State) (v : Nat) : Answer := { status := CStat.ok, value := v, state := s }

/-- A service command: the physical function with context 0, or DENIED. -/
def State.runService (s : State) (f value : Nat) (act : State → Cmd → Answer) : Host.Outcome State Fault Refusal :=
  match s.command f with
  | none => stutter s
  | some c =>
    if c.value != value then stutter s
    else
      let a := if f != 0 || c.ctx != 0 then s.answer CStat.denied else act s c
      .next (a.state.finish f a.status a.value)

/-- A gang stands on a core that a test accepts. -/
def Gang.standsOn (g : Gang) (p : Nat → Bool) : Bool := g.held && g.groups.any fun x => p x.core

/-- The gangs with a group on a core that a test accepts are pre-empted; a handler's runs to its end (R361). -/
def State.preemptOn (s : State) (p : Nat → Bool) : State :=
  let hit (g : Gang) : Bool := g.st == .resident && !g.isHandler && g.standsOn p
  { s with gangs := s.gangs.map fun (g : Nat × Gang) => (g.1, if hit g.2 then { g.2 with preempt := true } else g.2) }

/-! ## Recalibration (R414, R415) -/

/-- A cluster lies on an island. -/
def onIsland (island cl : Nat) : Bool := cl / 72 * 64 + cl % 72 / 2 == island && cl < Config.clusters

/-- No gang is on a cluster of an island. -/
def State.islandFree (s : State) (island : Nat) : Bool := !s.gangs.any fun g => g.2.held && onIsland island g.2.cluster

/-- The islands in recalibration that no gang is on any more are stopped (R415). -/
def State.settleRecal (s : State) : State :=
  let starts := s.svc.recal.filter fun i => !s.stalled i && s.islandFree i
  if starts.isEmpty then s
  else s.withSvc fun x => { x with stalls := x.stalls ++ starts.map fun i => { island := i, since := s.now, lifted := none } }

/-- RECAL: one at a time on a die; the gangs of a cluster island are pre-empted, and the island is stopped once they are gone. -/
def State.cmdRecal (s : State) (c : Cmd) : Answer :=
  if 512 ≤ c.op0 then s.answer CStat.arg
  else if s.svc.recal.any fun i => i / 64 == c.op0 / 64 then s.outcome SvcOut.busy
  else
    ((s.preemptOn fun core => onIsland c.op0 (core / 8)).withSvc fun x =>
      { x with recal := x.recal ++ [c.op0] }).settleRecal.outcome SvcOut.done

/-- RECAL. -/
def execRecal (f : Nat) (s : State) : Host.Outcome State Fault Refusal := s.runService f 16 State.cmdRecal

/-- RECAL_COMPLETE: the island runs again, once no gang is on a cluster island. -/
def execRecalComplete (island : Nat) (s : State) : Host.Outcome State Fault Refusal :=
  let close (x : Stall) : Stall := if x.island == island && x.lifted.isNone then { x with lifted := some s.now } else x
  if !s.svc.recal.contains island || !s.islandFree island then stutter s
  else .next (s.withSvc fun x => { x with recal := x.recal.filter (· != island), stalls := x.stalls.map close })

/-! ## Firmware (R416) -/

/-- The local islands of a controller. -/
def controllerIslands : Nat → List Nat
  | 0 => [60]
  | 1 => [59]
  | 2 => [58]
  | 3 => [54, 55, 56, 57]
  | 4 => [61]
  | 6 => [61]
  | _ => []

/-- A controller's firmware; before any load the one it started with. -/
def State.firmware (s : State) (c : Nat) : Firmware :=
  FMap.lookD s.svc.fw c { measure := padTo 64 ((Config.bootFirmware c).1.take 64), version := (Config.bootFirmware c).2.toNat }

/-- FWLOAD: the digest and its signature, then the version; a failed check leaves the running firmware in place. -/
def State.cmdFwload (s : State) (c : Cmd) : Answer :=
  if 8 ≤ c.op0 || c.op2 < 64 + 64 + 3309 then s.answer CStat.arg
  else if s.svc.recal.any fun i => (controllerIslands c.op0).contains (i % 64) then s.outcome SvcOut.busy
  else
    let image := s.homeRead none (hostPa c.op1) c.op2
    let body := image.take (c.op2 - 64 - 3309)
    let digest := (image.drop (c.op2 - 64 - 3309)).take 64
    let sig := image.drop (c.op2 - 3309)
    let h := Config.fwHeader (image.take 64)
    if (Config.shake256 body).take 64 != digest || !Config.mldsaVerify Config.vendorKey digest sig || h.1 != c.op0 then
      s.outcome SvcOut.badsig
    else if h.2.toNat < (s.firmware c.op0).version then s.outcome SvcOut.rollback
    else
      (s.withSvc fun x => { x with fw := FMap.put x.fw c.op0 { measure := digest, version := h.2.toNat } }).outcome SvcOut.done

/-- FWLOAD. -/
def execFwload (f : Nat) (s : State) : Host.Outcome State Fault Refusal := s.runService f 17 State.cmdFwload

/-! ## Fencing (R22, R418) -/

/-- A core is to be fenced: it takes no gang any more, and those on it are pre-empted (R418). -/
def State.fence (s : State) (core : Nat) : State :=
  (s.preemptOn (· == core)).withSvc fun x =>
    { x with closing := if x.closing.contains core then x.closing else core :: x.closing }

/-- A core that is to be fenced is fenced once no gang is on it: the outcome of the command, or none while it waits. -/
def State.fenced (s : State) (core v : Nat) : Option Answer :=
  let s := s.fence core
  if s.gangs.any fun g => g.2.standsOn (· == core) then none
  else
    some ((s.withSvc fun x =>
      { x with closing := x.closing.filter (· != core)
               fenced := if x.fenced.contains core then x.fenced else core :: x.fenced }).outcome v)

/-- A service command that may wait for the gangs of a core: each run of it asks for their pre-emption, and it completes once they
are gone. -/
def State.runFence (s : State) (f value : Nat) (act : State → Cmd → Option Answer) : Host.Outcome State Fault Refusal :=
  match s.command f with
  | none => stutter s
  | some c =>
    if c.value != value then stutter s
    else if f != 0 || c.ctx != 0 then .next ((s.answer CStat.denied).state.finish f CStat.denied 0)
    else if Config.cores ≤ c.op0 then .next ((s.answer CStat.arg).state.finish f CStat.arg 0)
    else
      match act s c with
      | some a => .next (a.state.finish f a.status a.value)
      | none => .next (s.fence c.op0)

/-- A core's self-test fails; that of a core that waits to be fenced has failed. -/
def State.testFails (s : State) (core : Nat) : Bool :=
  s.svc.closing.contains core || (Config.failedCores s.fresh).contains core

/-- SELFTEST: a core that fails is fenced. -/
def State.cmdSelftest (s : State) (c : Cmd) : Option Answer :=
  if s.testFails c.op0 then s.fenced c.op0 SvcOut.failed else some (s.outcome SvcOut.done)

/-- SELFTEST. -/
def execSelftest (f : Nat) (s : State) : Host.Outcome State Fault Refusal := s.runFence f 18 State.cmdSelftest

/-- FENCE: without a test. -/
def State.cmdFence (s : State) (c : Cmd) : Option Answer := s.fenced c.op0 SvcOut.done

/-- FENCE. -/
def execFenceCore (f : Nat) (s : State) : Host.Outcome State Fault Refusal := s.runFence f 19 State.cmdFence

/-- UNFENCE: a self-test, and the core's return to placement when it passes. -/
def State.cmdUnfence (s : State) (c : Cmd) : Option Answer :=
  if s.testFails c.op0 then s.fenced c.op0 SvcOut.failed
  else some ((s.withSvc fun x => { x with fenced := x.fenced.filter (· != c.op0) }).outcome SvcOut.done)

/-- UNFENCE. -/
def execUnfence (f : Nat) (s : State) : Host.Outcome State Fault Refusal := s.runFence f 20 State.cmdUnfence

/-- DIE_FENCED: die 0 is fenced; the mirrors on die 4 serve its package nodes (R22). -/
def execDieFenced (s : State) : Host.Outcome State Fault Refusal := .next (s.withSvc fun x => { x with die0 := true })

/-! ## Attestation (R417) -/

/-- Bits set in a bitmap of n bytes. -/
def bitmapBytes (n : Nat) (p : Nat → Bool) : List Byte :=
  (List.range n).map fun i => BitVec.ofNat 8 ((List.range 8).foldl (fun v j => if p (8 * i + j) then v + 2 ^ j else v) 0)

/-- The report but its signature. -/
def State.reportBody (s : State) (nonce : List Byte) : List Byte :=
  leBytes 8 (0x0001 + 0x0100 * 2 ^ 16) ++ padTo 32 (nonce.take 32) ++ leBytes 8 s.clk.ns ++
    ((List.range 8).flatMap fun c => padTo 64 ((s.firmware c).measure.take 64)) ++
    ((List.range 8).flatMap fun c => leBytes 4 (s.firmware c).version) ++
    bitmapBytes 576 (fun c => s.svc.fenced.contains c) ++ bitmapBytes 16 (fun c => (s.ctx c).st != .free) ++
    padTo 1952 (Config.identityKey.take 1952)

/-- ATTEST: the report is written at a host address. -/
def State.cmdAttest (s : State) (c : Cmd) : Answer :=
  let body := s.reportBody (s.homeRead none (hostPa c.op1) 32)
  let sig := padTo 3309 ((Config.mldsaSign body).take 3309)
  (s.homeWrite none (hostPa c.op0) (body ++ sig)).outcome SvcOut.done

/-- ATTEST. -/
def execAttest (f : Nat) (s : State) : Host.Outcome State Fault Refusal := s.runService f 21 State.cmdAttest

end Sys2Proof.Machine
end

