-- ==== Sys2Proof/Machine/Dispatch.lean ====
section
/-! DEFINITION. The dispatch of every instruction to its meaning. -/

namespace Sys2Proof.Machine

/-- One instruction or event of spec/opcode_table.json: its meaning. -/
def exec (i : Instr) (s : State) : Host.Outcome State Fault Refusal :=
  match i with
  | .iadd h o => Sys2Proof.Machine.execIadd h o s
  | .isub h o => Sys2Proof.Machine.execIsub h o s
  | .imul h o => Sys2Proof.Machine.execImul h o s
  | .imulh h o => Sys2Proof.Machine.execImulh h o s
  | .imad h o => Sys2Proof.Machine.execImad h o s
  | .imadw h o => Sys2Proof.Machine.execImadw h o s
  | .idiv h o => Sys2Proof.Machine.execIdiv h o s
  | .irem h o => Sys2Proof.Machine.execIrem h o s
  | .imin h o => Sys2Proof.Machine.execImin h o s
  | .imax h o => Sys2Proof.Machine.execImax h o s
  | .iabs h o => Sys2Proof.Machine.execIabs h o s
  | .isat h o => Sys2Proof.Machine.execIsat h o s
  | .andl h o => Sys2Proof.Machine.execAndl h o s
  | .orl h o => Sys2Proof.Machine.execOrl h o s
  | .xorl h o => Sys2Proof.Machine.execXorl h o s
  | .andn h o => Sys2Proof.Machine.execAndn h o s
  | .shl h o => Sys2Proof.Machine.execShl h o s
  | .shr h o => Sys2Proof.Machine.execShr h o s
  | .sar h o => Sys2Proof.Machine.execSar h o s
  | .rot h o => Sys2Proof.Machine.execRot h o s
  | .bfx h o => Sys2Proof.Machine.execBfx h o s
  | .bfi h o => Sys2Proof.Machine.execBfi h o s
  | .popc h o => Sys2Proof.Machine.execPopc h o s
  | .clz h o => Sys2Proof.Machine.execClz h o s
  | .brev h o => Sys2Proof.Machine.execBrev h o s
  | .lea h o => Sys2Proof.Machine.execLea h o s
  | .mov h o => Sys2Proof.Machine.execMov h o s
  | .movi h o => Sys2Proof.Machine.execMovi h o s
  | .movs h o => Sys2Proof.Machine.execMovs h o s
  | .sel h o => Sys2Proof.Machine.execSel h o s
  | .icmp h o => Sys2Proof.Machine.execIcmp h o s
  | .fcmp h o => Sys2Proof.Machine.execFcmp h o s
  | .pand h o => Sys2Proof.Machine.execPand h o s
  | .por h o => Sys2Proof.Machine.execPor h o s
  | .pxor h o => Sys2Proof.Machine.execPxor h o s
  | .pnot h o => Sys2Proof.Machine.execPnot h o s
  | .kmov h o => Sys2Proof.Machine.execKmov h o s
  | .kand h o => Sys2Proof.Machine.execKand h o s
  | .kor h o => Sys2Proof.Machine.execKor h o s
  | .kbit h o => Sys2Proof.Machine.execKbit h o s
  | .kset h o => Sys2Proof.Machine.execKset h o s
  | .fadd h o => Sys2Proof.Machine.execFadd h o s
  | .fsub h o => Sys2Proof.Machine.execFsub h o s
  | .fmul h o => Sys2Proof.Machine.execFmul h o s
  | .ffma h o => Sys2Proof.Machine.execFfma h o s
  | .fmin h o => Sys2Proof.Machine.execFmin h o s
  | .fmax h o => Sys2Proof.Machine.execFmax h o s
  | .fsfu h o => Sys2Proof.Machine.execFsfu h o s
  | .hadd2 h o => Sys2Proof.Machine.execHadd2 h o s
  | .hmul2 h o => Sys2Proof.Machine.execHmul2 h o s
  | .hfma2 h o => Sys2Proof.Machine.execHfma2 h o s
  | .badd2 h o => Sys2Proof.Machine.execBadd2 h o s
  | .bmul2 h o => Sys2Proof.Machine.execBmul2 h o s
  | .bfma2 h o => Sys2Proof.Machine.execBfma2 h o s
  | .frot h o => Sys2Proof.Machine.execFrot h o s
  | .cvt h o => Sys2Proof.Machine.execCvt h o s
  | .reint h o => Sys2Proof.Machine.execReint h o s
  | .pack4 h o => Sys2Proof.Machine.execPack4 h o s
  | .unpk4 h o => Sys2Proof.Machine.execUnpk4 h o s
  | .pack8 h o => Sys2Proof.Machine.execPack8 h o s
  | .unpk8 h o => Sys2Proof.Machine.execUnpk8 h o s
  | .idp4 h o => Sys2Proof.Machine.execIdp4 h o s
  | .edp4 h o => Sys2Proof.Machine.execEdp4 h o s
  | .rng h o => Sys2Proof.Machine.execRng h o s
  | .sadd h o => Sys2Proof.Machine.execSadd h o s
  | .smul h o => Sys2Proof.Machine.execSmul h o s
  | .sand h o => Sys2Proof.Machine.execSand h o s
  | .sor h o => Sys2Proof.Machine.execSor h o s
  | .sshl h o => Sys2Proof.Machine.execSshl h o s
  | .scmp h o => Sys2Proof.Machine.execScmp h o s
  | .smov h o => Sys2Proof.Machine.execSmov h o s
  | .smovi h o => Sys2Proof.Machine.execSmovi h o s
  | .red h o => Sys2Proof.Machine.execRed h o s
  | .scan h o => Sys2Proof.Machine.execScan h o s
  | .vcnt h o => Sys2Proof.Machine.execVcnt h o s
  | .fkey h o => Sys2Proof.Machine.execFkey h o s
  | .shfl h o => Sys2Proof.Machine.execShfl h o s
  | .xcl h o => Sys2Proof.Machine.execXcl h o s
  | .ld h o => Sys2Proof.Machine.execLd h o s
  | .st h o => Sys2Proof.Machine.execSt h o s
  | .lds h o => Sys2Proof.Machine.execLds h o s
  | .sts h o => Sys2Proof.Machine.execSts h o s
  | .ldc h o => Sys2Proof.Machine.execLdc h o s
  | .fence h o => Sys2Proof.Machine.execFence h o s
  | .pref h o => Sys2Proof.Machine.execPref h o s
  | .cflush h o => Sys2Proof.Machine.execCflush h o s
  | .probe h o => Sys2Proof.Machine.execProbe h o s
  | .mma h o => Sys2Proof.Machine.execMma h o s
  | .czero h o => Sys2Proof.Machine.execCzero h o s
  | .crd h o => Sys2Proof.Machine.execCrd h o s
  | .cwr h o => Sys2Proof.Machine.execCwr h o s
  | .cmov h o => Sys2Proof.Machine.execCmov h o s
  | .mmask h o => Sys2Proof.Machine.execMmask h o s
  | .mbud h o => Sys2Proof.Machine.execMbud h o s
  | .crank h o => Sys2Proof.Machine.execCrank h o s
  | .rkins h o => Sys2Proof.Machine.execRkins h o s
  | .rkfold h o => Sys2Proof.Machine.execRkfold h o s
  | .rkmerge h o => Sys2Proof.Machine.execRkmerge h o s
  | .rkout h o => Sys2Proof.Machine.execRkout h o s
  | .rkfloor h o => Sys2Proof.Machine.execRkfloor h o s
  | .qapp h o => Sys2Proof.Machine.execQapp h o s
  | .qclaim h o => Sys2Proof.Machine.execQclaim h o s
  | .qdone h o => Sys2Proof.Machine.execQdone h o s
  | .qflush h o => Sys2Proof.Machine.execQflush h o s
  | .qstat h o => Sys2Proof.Machine.execQstat h o s
  | .xcopy h o => Sys2Proof.Machine.execXcopy h o s
  | .xgather h o => Sys2Proof.Machine.execXgather h o s
  | .xmcast h o => Sys2Proof.Machine.execXmcast h o s
  | .xchain h o => Sys2Proof.Machine.execXchain h o s
  | .launch h o => Sys2Proof.Machine.execLaunch h o s
  | .tickarm h o => Sys2Proof.Machine.execTickarm h o s
  | .tickdis h o => Sys2Proof.Machine.execTickdis h o s
  | .wclaimOpen h o => Sys2Proof.Machine.execWclaimOpen h o s
  | .wclaim h o => Sys2Proof.Machine.execWclaim h o s
  | .wclaimTick h o => Sys2Proof.Machine.execWclaimTick h o s
  | .wrel h o => Sys2Proof.Machine.execWrel h o s
  | .wrelClose h o => Sys2Proof.Machine.execWrelClose h o s
  | .xcoll h o => Sys2Proof.Machine.execXcoll h o s
  | .bra h o => Sys2Proof.Machine.execBra h o s
  | .brau h o => Sys2Proof.Machine.execBrau h o s
  | .call h o => Sys2Proof.Machine.execCall h o s
  | .ret h o => Sys2Proof.Machine.execRet h o s
  | .ifc h o => Sys2Proof.Machine.execIfc h o s
  | .elsec h o => Sys2Proof.Machine.execElsec h o s
  | .endif h o => Sys2Proof.Machine.execEndif h o s
  | .loop h o => Sys2Proof.Machine.execLoop h o s
  | .brk h o => Sys2Proof.Machine.execBrk h o s
  | .cont h o => Sys2Proof.Machine.execCont h o s
  | .endl h o => Sys2Proof.Machine.execEndl h o s
  | .exit h o => Sys2Proof.Machine.execExit h o s
  | .nop h o => Sys2Proof.Machine.execNop h o s
  | .yield h o => Sys2Proof.Machine.execYield h o s
  | .sleep h o => Sys2Proof.Machine.execSleep h o s
  | .region h o => Sys2Proof.Machine.execRegion h o s
  | .setx h o => Sys2Proof.Machine.execSetx h o s
  | .rgrow h o => Sys2Proof.Machine.execRgrow h o s
  | .rshrink h o => Sys2Proof.Machine.execRshrink h o s
  | .sread h o => Sys2Proof.Machine.execSread h o s
  | .trap h o => Sys2Proof.Machine.execTrap h o s
  | .ctxq h o => Sys2Proof.Machine.execCtxq h o s
  | .tnow h o => Sys2Proof.Machine.execTnow h o s
  | .atom h o => Sys2Proof.Machine.execAtom h o s
  | .redM h o => Sys2Proof.Machine.execRedM h o s
  | .waita h o => Sys2Proof.Machine.execWaita h o s
  | .wake h o => Sys2Proof.Machine.execWake h o s
  | .binit h o => Sys2Proof.Machine.execBinit h o s
  | .breg h o => Sys2Proof.Machine.execBreg h o s
  | .barr h o => Sys2Proof.Machine.execBarr h o s
  | .barrd h o => Sys2Proof.Machine.execBarrd h o s
  | .bexp h o => Sys2Proof.Machine.execBexp h o s
  | .bwait h o => Sys2Proof.Machine.execBwait h o s
  | .btest h o => Sys2Proof.Machine.execBtest h o s
  | .rsecEnter h o => Sys2Proof.Machine.execRsecEnter h o s
  | .rsecLeave h o => Sys2Proof.Machine.execRsecLeave h o s
  | .publ h o => Sys2Proof.Machine.execPubl h o s
  | .retire h o => Sys2Proof.Machine.execRetire h o s
  | .gpseq h o => Sys2Proof.Machine.execGpseq h o s
  | .gpwait h o => Sys2Proof.Machine.execGpwait h o s
  | .clauseIssue p => Sys2Proof.Machine.execClauseIssue p s
  | .clauseTimeslice p => Sys2Proof.Machine.execClauseTimeslice p s
  | .boost t => Sys2Proof.Machine.execBoost t s
  | .longLatencyComplete t k => Sys2Proof.Machine.execLongLatencyComplete t k s
  | .sleepEnd t => Sys2Proof.Machine.execSleepEnd t s
  | .waitaTimeout t => Sys2Proof.Machine.execWaitaTimeout t s
  | .waitWake t => Sys2Proof.Machine.execWaitWake t s
  | .gpwaitTimeout t => Sys2Proof.Machine.execGpwaitTimeout t s
  | .gpwaitMet t => Sys2Proof.Machine.execGpwaitMet t s
  | .bwaitWake t => Sys2Proof.Machine.execBwaitWake t s
  | .wordOpStart c => Sys2Proof.Machine.execWordOpStart c s
  | .wordOpComplete c w => Sys2Proof.Machine.execWordOpComplete c w s
  | .operandTimeout c w => Sys2Proof.Machine.execOperandTimeout c w s
  | .recordWrite r => Sys2Proof.Machine.execRecordWrite r s
  | .rowRetry r => Sys2Proof.Machine.execRowRetry r s
  | .chainEntry ctx block => Sys2Proof.Machine.execChainEntry ctx block s
  | .directItem x => Sys2Proof.Machine.execDirectItem x s
  | .pieceLand x => Sys2Proof.Machine.execPieceLand x s
  | .engineItemComplete x => Sys2Proof.Machine.execEngineItemComplete x s
  | .engineTimeout x => Sys2Proof.Machine.execEngineTimeout x s
  | .blockRetry a => Sys2Proof.Machine.execBlockRetry a s
  | .collectiveFlit f => Sys2Proof.Machine.execCollectiveFlit f s
  | .collectiveComplete x => Sys2Proof.Machine.execCollectiveComplete x s
  | .collectiveTimeout x => Sys2Proof.Machine.execCollectiveTimeout x s
  | .launchAccept p => Sys2Proof.Machine.execLaunchAccept p s
  | .rowStageClaim l => Sys2Proof.Machine.execRowStageClaim l s
  | .flushTimerExpiry l => Sys2Proof.Machine.execFlushTimerExpiry l s
  | .tileStageClaim l => Sys2Proof.Machine.execTileStageClaim l s
  | .gangPlace l => Sys2Proof.Machine.execGangPlace l s
  | .teamEnd t => Sys2Proof.Machine.execTeamEnd t s
  | .launchComplete l => Sys2Proof.Machine.execLaunchComplete l s
  | .handlerEvent c => Sys2Proof.Machine.execHandlerEvent c s
  | .trapRetry t => Sys2Proof.Machine.execTrapRetry t s
  | .watchdogExpiry g => Sys2Proof.Machine.execWatchdogExpiry g s
  | .preemptStop g => Sys2Proof.Machine.execPreemptStop g s
  | .saveComplete g => Sys2Proof.Machine.execSaveComplete g s
  | .gangRestore g => Sys2Proof.Machine.execGangRestore g s
  | .killComplete g => Sys2Proof.Machine.execKillComplete g s
  | .rgrowGrant c => Sys2Proof.Machine.execRgrowGrant c s
  | .growthDeadlock c => Sys2Proof.Machine.execGrowthDeadlock c s
  | .carveCommit p => Sys2Proof.Machine.execCarveCommit p s
  | .carveTimeout p => Sys2Proof.Machine.execCarveTimeout p s
  | .graceCheck d => Sys2Proof.Machine.execGraceCheck d s
  | .advanceComplete d => Sys2Proof.Machine.execAdvanceComplete d s
  | .retireAction c j => Sys2Proof.Machine.execRetireAction c j s
  | .retireRetry c j => Sys2Proof.Machine.execRetireRetry c j s
  | .graceWarning d => Sys2Proof.Machine.execGraceWarning d s
  | .promoteProbe cluster => Sys2Proof.Machine.execPromoteProbe cluster s
  | .postedWriteEffect f k => Sys2Proof.Machine.execPostedWriteEffect f k s
  | .tokenFrame x => Sys2Proof.Machine.execTokenFrame x s
  | .windowFrame w => Sys2Proof.Machine.execWindowFrame w s
  | .tick c j => Sys2Proof.Machine.execTick c j s
  | .holdExpiry c j => Sys2Proof.Machine.execHoldExpiry c j s
  | .ptpSync ns frac => Sys2Proof.Machine.execPtpSync ns frac s
  | .lockLoss => Sys2Proof.Machine.execLockLoss s
  | .linkTrainingRequest l => Sys2Proof.Machine.execLinkTrainingRequest l s
  | .linkTrained l lanes => Sys2Proof.Machine.execLinkTrained l lanes s
  | .linkTrainingTimeout l => Sys2Proof.Machine.execLinkTrainingTimeout l s
  | .flitCrcFail l => Sys2Proof.Machine.execFlitCrcFail l s
  | .linkFence l => Sys2Proof.Machine.execLinkFence l s
  | .multicastFlit die k => Sys2Proof.Machine.execMulticastFlit die k s
  | .podAccessTimeout t => Sys2Proof.Machine.execPodAccessTimeout t s
  | .governorEval watts => Sys2Proof.Machine.execGovernorEval watts s
  | .doorbell f c bytes => Sys2Proof.Machine.execDoorbell f c bytes s
  | .bar2Write f c off bytes relaxed => Sys2Proof.Machine.execBar2Write f c off bytes relaxed s
  | .bar2Read f c off n => Sys2Proof.Machine.execBar2Read f c off n s
  | .podid f v => Sys2Proof.Machine.execPodid f v s
  | .svcPlimit f v => Sys2Proof.Machine.execSvcPlimit f v s
  | .registerWrite f off v => Sys2Proof.Machine.execRegisterWrite f off v s
  | .functionLevelReset f => Sys2Proof.Machine.execFunctionLevelReset f s
  | .reset => Sys2Proof.Machine.execReset s
  | .state f => Sys2Proof.Machine.execState f s
  | .resumet f => Sys2Proof.Machine.execResumet f s
  | .resumeg f => Sys2Proof.Machine.execResumeg f s
  | .kill f => Sys2Proof.Machine.execKill f s
  | .inval f => Sys2Proof.Machine.execInval f s
  | .invalComplete k => Sys2Proof.Machine.execInvalComplete k s
  | .errstat f => Sys2Proof.Machine.execErrstat f s
  | .create f => Sys2Proof.Machine.execCreate f s
  | .start f => Sys2Proof.Machine.execStart f s
  | .switchout f => Sys2Proof.Machine.execSwitchout f s
  | .switchin f => Sys2Proof.Machine.execSwitchin f s
  | .destroy f => Sys2Proof.Machine.execDestroy f s
  | .preempt f => Sys2Proof.Machine.execPreempt f s
  | .carve f => Sys2Proof.Machine.execCarve f s
  | .hrestart f => Sys2Proof.Machine.execHrestart f s
  | .partition f => Sys2Proof.Machine.execPartition f s
  | .keyload f => Sys2Proof.Machine.execKeyload f s
  | .recal f => Sys2Proof.Machine.execRecal f s
  | .recalComplete island => Sys2Proof.Machine.execRecalComplete island s
  | .fwload f => Sys2Proof.Machine.execFwload f s
  | .selftest f => Sys2Proof.Machine.execSelftest f s
  | .fenceCore f => Sys2Proof.Machine.execFenceCore f s
  | .unfence f => Sys2Proof.Machine.execUnfence f s
  | .attest f => Sys2Proof.Machine.execAttest f s
  | .unassignedCommand f => Sys2Proof.Machine.execUnassignedCommand f s
  | .dieFenced => Sys2Proof.Machine.execDieFenced s
  | .podRequest q => Sys2Proof.Machine.execPodRequest q s

end Sys2Proof.Machine
end

