-- ==== Sys2Proof/Machine/Near.lean ====
section
/-! DEFINITION. The lane registers that each instruction reads and writes, for the near slots (spec/03_work.md R64, R65;
spec/08_team.md R186). -/

namespace Sys2Proof.Machine

/-- The lane registers an instruction uses, and its lanes. -/
structure NearUse where
  act    : Mask
  reads  : List Nat
  writes : List Nat
  deriving DecidableEq, Repr

/-- No lane register. -/
def NearUse.none : NearUse := { act := 0, reads := [], writes := [] }

/-- An RRR word whose fields D, A, B and C are so many lane registers. -/
def Team.rrrUse (t : Team) (h : Hd) (o : Rrr) (d a b c : Nat) : NearUse :=
  { act := t.active h
    reads := t.operRegs h.ixA o.a a ++ t.operRegs false o.b b ++ t.operRegs false o.c c
    writes := t.operRegs h.ixD o.d d }

/-- A word that writes so many lane registers at D and reads none. -/
def Team.putUse (t : Team) (h : Hd) (d : BitVec 8) (k : Nat) : NearUse :=
  { act := t.active h, reads := [], writes := t.operRegs h.ixD d k }

/-- The offset register of a memory operand. -/
def Team.offUse (t : Team) (b : BitVec 8) (noOff : Bool) : List Nat := if noOff then [] else t.operRegs false b 1

/-- Lane registers from one on, as a matrix word names them. -/
def Team.mxRegs (t : Team) (o : Mx) (k : Nat) : List Nat := t.operRegs false (BitVec.ofNat 8 (bitsOf o.m.toNat 13 6)) k

/-- The lane registers that CRD and CWR move columns through. -/
def Team.colRegs (t : Team) (o : Mx) : List Nat :=
  match t.int o.a.toNat with
  | .ok v => regList (bitsOf o.m.toNat 13 6) (ColSel.of v (bitsOf o.m.toNat 13 6)).regs
  | .error _ => []

/-- The lane registers that an instruction of a team uses. -/
def Team.nearUse (t : Team) : Instr → NearUse
  | .iadd h o | .isub h o | .imul h o | .imulh h o | .idiv h o | .irem h o | .imin h o | .imax h o
  | .fadd h o | .fsub h o | .fmul h o | .fmin h o | .fmax h o =>
    let k := regsOf o.ty.toNat
    t.rrrUse h o k k k 0
  | .ffma h o =>
    let k := regsOf o.ty.toNat
    t.rrrUse h o k k k k
  | .imad h o | .bfi h o | .hfma2 h o | .bfma2 h o | .idp4 h o | .edp4 h o => t.rrrUse h o 1 1 1 1
  | .imadw h o => t.rrrUse h o 2 1 1 2
  | .iabs h o | .isat h o | .reint h o | .scan h o => t.rrrUse h o (regsOf o.ty.toNat) (regsOf o.ty.toNat) 0 0
  | .andl h o | .orl h o | .xorl h o | .andn h o | .sel h o =>
    let k := if o.e.getLsbD 0 then 2 else 1
    t.rrrUse h o k k k 0
  | .shl h o | .shr h o | .sar h o | .rot h o | .shfl h o =>
    let k := if o.e.getLsbD 0 then 2 else 1
    t.rrrUse h o k k 1 0
  | .mov h o =>
    let k := if o.e.getLsbD 0 then 2 else 1
    t.rrrUse h o k k 0 0
  | .bfx h o | .hadd2 h o | .hmul2 h o | .badd2 h o | .bmul2 h o => t.rrrUse h o 1 1 1 0
  | .popc h o | .clz h o | .brev h o | .fsfu h o | .fkey h o => t.rrrUse h o 1 1 0 0
  | .lea h o => { t.putUse h o.d 2 with reads := t.operRegs false o.e 1 }
  | .movi h o => t.putUse h o.d 1
  | .movs h o => t.putUse h o.d (if o.e.getLsbD 0 then 2 else 1)
  | .icmp h o | .fcmp h o => t.rrrUse h o 0 (regsOf o.ty.toNat) (regsOf o.ty.toNat) 0
  | .kmov h o => t.rrrUse h o (if o.e == 2 then 1 else 0) (if o.e == 1 then 1 else 0) 0 0
  | .kbit h o | .kset h o => t.rrrUse h o 0 0 1 0
  | .frot h o => t.rrrUse h o 2 2 1 1
  | .cvt h o =>
    let src : Nat := (o.e >>> 2).toNat
    let join := Wf.cvtCase o.ty.toNat src == some .join
    t.rrrUse h o (regsOf o.ty.toNat) (regsOf src) (if join then 1 else 0) (if o.rm == 4 then 1 else 0)
  | .pack4 h o => t.rrrUse h o 1 4 0 (if o.rm == 4 then 1 else 0)
  | .pack8 h o => t.rrrUse h o 1 8 0 (if o.rm == 4 then 1 else 0)
  | .unpk4 h o => t.rrrUse h o 4 1 0 0
  | .unpk8 h o => t.rrrUse h o 8 1 0 0
  | .rng h o => t.rrrUse h o 4 0 4 0
  | .red h o => t.rrrUse h o 0 (regsOf o.ty.toNat) 0 0
  | .vcnt h o => t.putUse h o.d 1
  | .xcl h o =>
    let n := (o.e &&& 15).toNat + 1
    t.rrrUse h o n n 0 0
  | .ld h o | .ldc h o => { t.putUse h o.d (regsOf (memTag o.ty.toNat)) with reads := t.offUse o.b o.noOff }
  | .st h o =>
    { act := t.active h
      reads := t.operRegs h.ixD o.d (if memSize o.ty.toNat == 8 then 2 else 1) ++ t.offUse o.b o.noOff, writes := [] }
  | .pref h o | .cflush h o => { act := t.active h, reads := t.offUse o.b o.noOff, writes := [] }
  | .atom h o =>
    let k := regsOf (atomTag o.ty.toNat)
    { t.putUse h o.d k with
      reads := t.operRegs false o.c (if o.op == 7 || o.op == 8 then 2 * k else k) ++ t.offUse o.b o.noOff }
  | .redM h o =>
    let k := regsOf (atomTag o.ty.toNat)
    { act := t.active h, writes := []
      reads := t.operRegs false o.c (if o.op == 7 || o.op == 8 then 2 * k else k) ++ t.offUse o.b o.noOff }
  | .mma h o =>
    { act := t.active h, writes := []
      reads := if o.m.getLsbD 8 then [bitsOf (t.sreg (o.c.toNat + 3)).bits.toNat 7 0] else [] }
  | .crd h o => { act := t.active h, reads := [], writes := t.colRegs o }
  | .cwr h o => { act := t.active h, reads := t.colRegs o, writes := [] }
  | .rkins h o => { act := t.active h, reads := t.mxRegs o 2, writes := [] }
  | .rkfloor h o => { act := t.active h, reads := [], writes := t.mxRegs o 1 }
  | _ => .none

end Sys2Proof.Machine
end

