-- ==== Sys2Proof/Machine/Inputs.lean ====
section
/-! DEFINITION. The passing of time, the order of a cycle's requests, and the inputs of a step that are no row of
spec/opcode_table.json (log entries 1, 2 and 7): evictions, soft errors, host stores, epoch acknowledgements. -/

namespace Sys2Proof.Machine

/-! ## Time (R2, R385, R386) -/

/-- Length of a cycle in nanoseconds with a 16-bit fraction (R2, R386): 1/940 microsecond. -/
def cycleLength : Nat := 69719

/-- The correction that c cycles slew: at most 500 parts in a million of their length (R385). -/
def slewed (slew : Int) (c : Nat) : Int :=
  let most : Int := (cycleLength * c / 2000 : Nat)
  max (-most) (min most slew)

/-- The time base after c cycles (R385, R386). -/
def Clock.run (k : Clock) (c : Nat) : Clock :=
  let d := slewed k.slew c
  let v := (((k.ns * 2 ^ 16 + k.frac + cycleLength * c : Nat) : Int) + d).toNat % 2 ^ 80
  { k with ns := v / 2 ^ 16, frac := v % 2 ^ 16, slew := k.slew - d }

/-- Cycles pass: the cycle count and the time base advance, the cores' budgets rise, and the watchdogs count but while
an island is stalled (R385, R386, R264, R367, R415). -/
def State.advance (s : State) (c : Nat) : State :=
  let held := s.svc.stalls.any (·.lifted.isNone)
  { s with
    now := s.now + c
    clk := s.clk.run c
    cores := s.cores.map fun x => (x.1, x.2.charge (s.unitWaits x.2) c)
    gangs := s.gangs.map fun x => (x.1, if !held && s.watched x.2 then { x.2 with idle := x.2.idle + c } else x.2) }

/-- The skid of a team is over: its group's halt is past cycle 2 (R356). -/
def State.skidOver (s : State) (t : Team) : Bool :=
  t.skidLeft != 0 && (((s.gangOf t).bind (·.groups[t.group]?)).bind (·.halt)).any fun h => h.since + 2 ≤ s.now

/-- The skids that end with a cycle. -/
def State.closeSkids (s : State) : State :=
  (((s.teams.map (·.2)).filter s.skidOver).map Team.id).foldl State.endSkid s

/-- A cycle ends: the ticks that are due by now, the tests of barrier objects and queue blocks that had requests (R240, R317,
R391), the skids that are over, and the islands that a recalibration finds free (R415). -/
def State.closeCycle (s : State) : State :=
  { s.closeTicks.closeBars.closeBlocks.closeSkids.settleRecal with cyc := { rank := 0, pipes := [], bars := [], blocks := [] } }

/-- Cycles pass, with no request in those between. -/
def State.elapse (s : State) : Nat → State
  | 0 => s
  | 1 => s.closeCycle.advance 1
  | n + 2 => (s.closeCycle.advance (n + 1)).closeCycle.advance 1

/-! ## The order of a cycle's requests (R102, R219, R239, R317, R375; log entry 7) -/

/-- The place of a team's request: ascending core, then slot. -/
def Team.issueKey (t : Team) : Nat := 1 + t.core * 64 + t.slot

/-- The place of the requests of a kind, of agents with ascending numbers: requests of other packages, word-ops, write-backs of
clusters, engines, consumers, posted writes, host commands, and the deadlines of waits, which a request of their cycle
precedes (R228). -/
def rankOf (kind agent : Nat) : Nat := kind * 1000000 + min agent 999999

/-- The package of a request. -/
def podPkg : PodReq → Nat
  | .load p _ _ _ | .store p _ _ _ | .atomic p _ _ _ _ _ _ _ | .orByte p _ _ _ | .notice p _ _ _ | .promote p _ _ _ _
  | .flush p _ _ _ => p

/-- The engine that serves a chain block. -/
def State.chainEngine (s : State) (ctx va : Nat) : Nat :=
  match s.meetBlock (s.chainWho ctx) va with
  | .ok _ _ q _ => q.engine
  | _ => 0

/-- The engine number of the agent that writes a row. -/
def State.rowEngine (s : State) (r : Nat) : Nat := ((s.eng.rows.find? (·.id == r)).map (·.agent - 1000000)).getD 0

/-- The engine number of an item. -/
def State.itemEngine (s : State) (x : Nat) : Nat := ((s.item x).map (·.engine)).getD 0

/-- The engine number of a collective item. -/
def State.collEngineOf (s : State) (x : Nat) : Nat := ((s.eng.colls.find? (·.id == x)).map fun i => collEngine i.die).getD 0

/-- The place of an event in its cycle, 0 where no rule gives one. -/
def State.eventRank (s : State) : Instr → Nat
  | .podRequest q => rankOf 1 (podPkg q)
  | .wordOpStart c | .wordOpComplete c _ | .operandTimeout c _ => rankOf 2 c
  | .promoteProbe c => rankOf 3 c
  | .directItem x | .pieceLand x | .engineItemComplete x | .engineTimeout x => rankOf 4 (s.itemEngine x)
  | .collectiveComplete x | .collectiveTimeout x => rankOf 4 (s.collEngineOf x)
  | .chainEntry c b => rankOf 4 (s.chainEngine c b.toNat)
  | .recordWrite r | .rowRetry r => rankOf 4 (s.rowEngine r)
  | .retireAction _ _ | .retireRetry _ _ => rankOf 4 (s.nodeDie detector * 128 + detector)
  | .launchAccept _ | .rowStageClaim _ | .flushTimerExpiry _ | .tileStageClaim _ | .blockRetry _ | .launchComplete _
  | .teamEnd _ | .windowFrame _ => rankOf 5 0
  | .postedWriteEffect f _ => rankOf 6 f
  | .state f | .resumet f | .resumeg f | .kill f | .inval f | .errstat f | .create f | .start f | .switchout f | .switchin f
  | .destroy f | .preempt f | .carve f | .hrestart f | .partition f | .keyload f | .recal f | .fwload f | .selftest f
  | .fenceCore f | .unfence f | .attest f | .unassignedCommand f => rankOf 7 f
  | .waitaTimeout _ => rankOf 8 0
  | _ => 0

/-- A request at a place of the order: one that comes before the last of this cycle opens the next. -/
def State.enter (s : State) (r : Nat) : State :=
  if r == 0 then s
  else
    let s := if r < s.cyc.rank then s.elapse 1 else s
    { s with cyc := { s.cyc with rank := r } }

/-- The pipe with the turn begins: each pipe once a cycle, and teams in their order. -/
def State.enterPipe (s : State) : State :=
  let late := s.cyc.pipes.contains s.turn || s.issuing.any fun t => t.issueKey ≤ s.cyc.rank
  let s := if late then s.elapse 1 else s
  { s with cyc := { s.cyc with
      rank := max s.cyc.rank ((s.issuing.map Team.issueKey).getD 0), pipes := s.turn :: s.cyc.pipes } }

/-! ## Inputs -/

/-- A domain's record with one core less to acknowledge its epoch (R291). -/
def Domain.ack (d : Domain) (core : Nat) : Domain := { d with behind := d.behind.filter (· != core) }

/-- The gang whose block holds a byte of a core's allocation space. -/
def State.storeOwner (s : State) (core off : Nat) : Option Gang :=
  s.heldGangs.find? fun g => (g.groups.zipIdx.filter (·.1.core == core)).any fun (x, i) =>
    ((x.base, x.size) :: (s.teamsOfGroup g.handle i).map fun t => (t.base, t.block)).any fun e => e.1 ≤ off && off < e.1 + e.2

/-- A double-bit error in a core's store (0) or near buffer (1) (R383): the owner is the gang whose block it is. -/
def State.softStore (s : State) (core off : Nat) (near : Bool) : State :=
  let g := s.storeOwner core off
  s.softItem (g.map (·.src.ctx)) (if near then 1 else 0) off ((g.map (·.handle)).getD 0) (if g.isSome then core else noCore)

/-- An engine item under way that reads poisoned data of the second tier ends with SOFT, with one SOFT item of store 6 (R321,
R410). -/
def State.poisonItem (s : State) (id addr : Nat) : State :=
  let soft : Nat := 7
  let hit (i : EngItem) : Bool := i.id == id && i.begun && i.status.isNone && i.landed < i.count
  let hitC (i : CollItem) : Bool := i.id == id && i.status.isNone
  let own := ((s.eng.items.find? hit).map fun i => (i.ctx, i.team)).orElse fun _ =>
    (s.eng.colls.find? hitC).map fun i => (i.ctx, i.team)
  match own with
  | none => s
  | some (c, t) =>
    (s.softItem (some c) 6 addr 0 (s.itemCore t)).withEng fun e =>
      { e with
        items := e.items.map fun i => if hit i then { i with status := some soft } else i
        colls := e.colls.map fun i => if hitC i then { i with status := some soft } else i }

/-- A translation cache of a core or a cluster drops an entry (R201). -/
def MemSt.dropTlb (m : MemSt) (a c v : Nat) : MemSt :=
  { m with tlb := m.tlb.filter fun e => !(e.agent == a && e.ctx == c && e.vbase == v) }

/-- A die's walker drops an upper-level entry (R201). -/
def MemSt.dropWalk (m : MemSt) (d c l v : Nat) : MemSt :=
  { m with walks := m.walks.filter fun e => !(e.die == d && e.ctx == c && e.level == l && e.vpre == v) }

/-- An input that is neither an event of the table nor a pipe's turn to issue. -/
def State.applyInput (s : State) : Input → State
  | .event _ => s
  | .issue _ => s
  | .turn p => { s with turn := p }
  | .elapse c => s.elapse c
  | .hostStore a bs => if a + bs.length ≤ 2 ^ 54 then s.homeWrite none (2 ^ 55 + a) bs else s
  | .dropTlb a c v => s.withMem fun m => m.dropTlb a c v
  | .dropWalk d c l v => s.withMem fun m => m.dropWalk d c l v
  | .epochAck core dom => s.withSched fun x => { x with domains := FMap.modify x.domains dom fun d => d.ack core }
  | .residue core w a => s.residueFault core w a
  | .softError c st a g => s.softItem c st a g noCore
  | .softStore core off near => s.softStore core off near
  | .poison i a => s.poisonItem i a
  | .corrected c => s.countCorrected c
  | .flitOk l => s.withLink fun x => { x with links := FMap.modify x.links l fun y => { y with replay := 0 } }
  | .mcast d port dests page pa bs => s.mcastIn d port dests page pa bs
  | .send k => s.sendNext k
  | .evictSlice line => s.evictSlice line
  | .mismatch die g turn => s.mismatched die g turn
  | .bar0Read f off n => s.bar0Read f off n
  | .route d p a b => s.withLink fun x => { x with routes := FMap.put x.routes (d * 256 + p) (a, b) }

/-- An event, as against an instruction with a word: only events arrive as inputs. -/
def isEvent (i : Instr) : Bool := i.reject == some .event

/-! ## The pipe with the turn -/

/-- The pipes keep only clauses in progress: the team exists, is Ready and bound to the pipe, and has words to issue. -/
def State.settle (s : State) : State :=
  { s with running := s.running.filter fun x =>
      match s.team x.2.1 with
      | none => false
      | some t => t.isReady && t.pipe == x.1 && (t.clause.map fun c => !c.words.isEmpty).getD false }

/-- The instruction the pipe with the turn issues next: the first word of its clause, decoded; none for an idle pipe. -/
def State.nextInstr (s : State) : Option (Except Reject Instr) :=
  match s.issuing with
  | none => none
  | some t => ((t.clause.bind (·.words.head?))).map decodeWord

/-- A word that does not decode, at issue: ILLEGAL (R131). -/
def issueIllegal (s : State) : Host.Outcome State Fault Refusal := issue s fun _ _ => raise Code.illegal

/-- The pipe with the turn issues nothing: an MMA still sweeps (R255), or the team's access to another package is under way
(log entry 13). -/
def State.pipeWaits (s : State) : Bool :=
  s.sweeping s.turn || s.issuing.any fun t => t.pend.any (·.fly.isSome)

/-- The near slots that the next instruction uses are its pipe's last used (R186; log entry 16). -/
def State.useSlots (s : State) (i : Instr) : State :=
  match s.issuing with
  | none => s
  | some t => s.useNear t (t.nearUse i).act (t.nearUse i).reads (t.nearUse i).writes

/-! ## A program's first instruction (log entry 5) -/

/-- The kernel header of the gang that withFetchWord starts where no team issues: 32 lanes, 256 registers, 16
accumulators, 256 bytes of private storage, code of 64 bytes. -/
def probeHdr : KHdr :=
  { codeSize := 64, lanes := 32, teams := 1, groups := 1, vregs := 256, accs := 16, scratch := 4096, cluster := 4096,
    priv := 256, ftz := false, i4trap := false, unwr := false, entry := 0, dataSize := 0 }

/-- A counted launch's gang 0 as R348 sets it up. -/
def probeCand : Cand :=
  { origin := .launch 0, ctx := 0, part := 0, ordinal := 0, hdr := probeHdr, image := 0, args := 0, record := 0, lrec := 0,
    lflags := 0, lanes := 32, cword := 0, cvalue := 0, claim := none, range := none, rank := 0 }

/-- A one-word clause at code offset 0. -/
def oneWord (w : Word) : Clause := { base := 0, flagA := 15, flagB := 15, yield := false, words := [w] }

/-- The state in which the pipe with the turn issues one word next, in the cycle in progress. -/
def State.placeWord (s : State) (w : Word) : State :=
  let s := { s with agenda := [.issue s.turn], cyc := { s.cyc with rank := 0, pipes := [] } }
  match s.issuing with
  | some t => s.setTeam { t with clause := some { (t.clause.getD (oneWord w)) with words := [w] } }
  | none =>
    let p := s.turn
    let t := { Team.launch probeCand s.ids 0 0 0 p 0 s.now with clause := some (oneWord w), pc := 8 }
    { s with
      ids := s.ids + 1
      gangs := FMap.put s.gangs s.ids (Gang.fresh s.ids probeCand (p / 32) (p / 4) s.now [0])
      teams := FMap.put s.teams t.id t
      running := FMap.put s.running p (t.id, s.now) }

end Sys2Proof.Machine
end

