-- ==== Sys2Proof/Machine/Step.lean ====
section
/-! DEFINITION. One step: the next input of the agenda, or else one instruction of the pipe with the turn (log entries 1, 2
and 5). -/

namespace Sys2Proof.Machine

/-- An outcome with its next state settled. -/
def settled : Host.Outcome State Fault Refusal → Host.Outcome State Fault Refusal
  | .next s => .next s.settle
  | .fault f => .fault f
  | .refused r => .refused r

/-- The pipe with the turn issues: the next instruction of its clause, or the choice of a clause. -/
def runPipe (s : State) : Host.Outcome State Fault Refusal :=
  if s.pipeWaits then .next s else
  match s.nextInstr with
  | none => exec (.clauseIssue s.turn) s
  | some (.ok i) => exec i (s.useSlots i)
  | some (.error _) => issueIllegal s

/-- One input: an event of the table has its meaning at its place in the cycle, a pipe issues, another input has its effect. -/
def runInput (i : Input) (s : State) : Host.Outcome State Fault Refusal :=
  match i with
  | .event e => if isEvent e then exec e (s.enter (s.eventRank e)) else .next s
  | .issue p => runPipe ({ s with turn := p }).enterPipe
  | i => .next (s.applyInput i)

/-- One step; with no input left a cycle passes and the pipe with the turn issues. -/
def step (s : State) : Host.Outcome State Fault Refusal :=
  match s.agenda with
  | i :: r => settled (runInput i { s with agenda := r, fresh := s.fresh + 1 })
  | [] => settled (runPipe ({ s with fresh := s.fresh + 1 }.elapse 1).enterPipe)

/-- The state in which step fetches and runs the instruction of w next. -/
def State.withFetchWord (s : State) (nbits w : Nat) : State := s.placeWord (BitVec.ofNat 64 (w % 2 ^ nbits))

end Sys2Proof.Machine
end

