-- ==== Sys2Proof/Safety.lean ====
section
/-! DEFINITION. What a safe step is, and the terms the statements use: what an instruction leaves alone. -/

namespace Sys2Proof.Machine

/-- The outcome is a next state. -/
def runs : Host.Outcome State Fault Refusal → Bool
  | .next _ => true
  | _ => false

/-- A step from the state goes on. -/
def State.safe (s : State) : Prop := runs (step s) = true

/-! ## Frames -/

/-- Every byte of every place reads as before, whatever the key slot it is read under, and so does every valid bit; device,
host and chip scratchpad memory and all caches are as before. -/
def State.sameMemory (s s' : State) : Prop :=
  s'.mem = s.mem ∧ (∀ slot l, s'.locByte slot l = s.locByte slot l) ∧ ∀ l, s'.locValid l = s.locValid l

/-- The registers, masks, flags, tables and private storage of a team are those of another: everything but its state, its
clause and program counter, its error code and its place in the schedule. -/
def Team.sameRegs (t u : Team) : Prop :=
  u.sregs = t.sregs ∧ u.preds = t.preds ∧ u.kregs = t.kregs ∧ u.file = t.file ∧ u.acc = t.acc ∧ u.prick = t.prick ∧
  u.x = t.x ∧ u.cur = t.cur ∧ u.exited = t.exited ∧ u.stack = t.stack ∧ u.sticky = t.sticky ∧ u.pend = t.pend ∧
  u.readers = t.readers ∧ u.bars = t.bars ∧ u.region = t.region ∧ u.store = t.store ∧ u.vregs = t.vregs ∧
  u.accs = t.accs ∧ u.lanes = t.lanes ∧ u.priv = t.priv ∧ u.base = t.base

/-- The scheduler, contexts, engines, links, host side, service registers and clocks are as before, and no input is taken. -/
def State.sameRest (s s' : State) : Prop :=
  s'.sched = s.sched ∧ s'.eng = s.eng ∧ s'.link = s.link ∧ s'.host = s.host ∧ s'.svc = s.svc ∧ s'.clk = s.clk ∧
  s'.now = s.now ∧ s'.cyc = s.cyc ∧ s'.ids = s.ids ∧ s'.fresh = s.fresh ∧ s'.agenda = s.agenda ∧ s'.turn = s.turn

/-- The cores are as before but for their handler queues. -/
def State.sameCores (s s' : State) : Prop := ∀ c, { s'.core c with hq := [] } = { s.core c with hq := [] }

/-- The frame of an instruction of team t that changes the team alone, to t': every other team and every other gang,
memory, the cores, and the rest of the machine are as before. -/
def State.onlyTeam (s s' : State) (t : Team) : Prop :=
  (∀ k, k ≠ t.id → s'.team k = s.team k) ∧ (∀ g, g ≠ t.gang → s'.gang g = s.gang g) ∧ s.sameMemory s' ∧ s.sameCores s' ∧
  s.sameRest s'

/-- An instruction completes in a state: it answers a next state in which its team has the registers of t' and the program
counter past the instruction, and in which nothing but the team has changed. -/
def Completes (i : Instr) (s : State) (t t' : Team) : Prop :=
  ∃ s', exec i s = .next s' ∧ (∃ u, s'.team t.id = some u ∧ t'.sameRegs u ∧ u.pc = t.pc + 8) ∧ s.onlyTeam s' t

/-! ## Lane registers -/

/-- Lane l of the team's words is active under a mask (R55). -/
def Team.live (t : Team) (act : Mask) (l : Nat) : Prop := l < 32 * (t.lanes / 32) ∧ act.getLsbD l = true

/-- Word w of the team holds an active lane (R55). -/
def Team.wordLive (t : Team) (act : Mask) (w : Nat) : Prop := w < t.lanes / 32 ∧ wordMask act w ≠ 0

/-- A lane register field of n registers names register v: the field's number, or x plus it under index apply; all n lie
below V (R119, R121). -/
def Team.names (t : Team) (ix : Bool) (r : BitVec 8) (n : Nat) (pair : Bool) (v : Nat) : Prop :=
  (v : Int) = (if ix then t.x.toInt + r.toInt else (r.toNat : Int)) ∧ v + n ≤ t.vregs ∧ (pair = true → v % 2 = 0)

/-- Every active word of the n registers from v carries a tag of the set (R50). -/
def Team.tagged (t : Team) (act : Mask) (v n : Nat) (set : List Tag) : Prop :=
  ∀ k, k < n → ∀ w, t.wordLive act w → t.vtag (v + k) w ∈ set

/-- The frame of a lane write (R46, R137 step 4): of the team, only lane registers and sticky flags change; of the registers,
only those in `dests`; of those, only the active lanes and the tags of active words, but that a word which leaves NONE has its
inactive lanes zeroed and untainted. -/
def Team.laneFrame (t t' : Team) (act : Mask) (dests : List Nat) : Prop :=
  t' = { t with file := t'.file, sticky := t'.sticky } ∧
  (∀ v l, v ∉ dests → l < 1024 → t'.lane v l = t.lane v l ∧ t'.vtaint v l = t.vtaint v l) ∧
  (∀ v w, w < 32 → (v ∉ dests ∨ ¬t.wordLive act w) → t'.vtag v w = t.vtag v w) ∧
  (∀ v l, v ∈ dests → l < 1024 → ¬t.live act l →
    (t.wordLive act (l / 32) ∧ t.vtag v (l / 32) = 0 → t'.lane v l = 0 ∧ t'.vtaint v l = false) ∧
    (¬(t.wordLive act (l / 32) ∧ t.vtag v (l / 32) = 0) → t'.lane v l = t.lane v l ∧ t'.vtaint v l = t.vtaint v l))

/-- The n registers from d hold, in every active lane, the values given, under the tags given for their active words, tainted
where a lane of `taint` is (R46, R139). -/
def Team.laneHolds (t t' : Team) (act : Mask) (d : Nat) (tags : List Tag) (val : Nat → List Lane32) (taint : Nat → Bool) : Prop :=
  ∀ k, k < tags.length →
    (∀ l, t.live act l → t'.lane (d + k) l = (val l).getD k 0 ∧ t'.vtaint (d + k) l = taint l) ∧
    ∀ w, t.wordLive act w → t'.vtag (d + k) w = tags.getD k 0

end Sys2Proof.Machine
end

