-- ==== Sys2Proof/Certificates/Slice0/Obligations.lean ====
section
/-! DEFINITION. The statements for the provers, with the terms they use. -/

open Sys2Proof Sys2Proof.Machine

namespace Sys2Proof.Claim

/-! ## Lane results -/

/-- An instruction completes with values in the registers from d: the active lanes hold them under the tags given, tainted as
given, the flags of all active lanes are raised, and nothing else changes. -/
def laneResult (i : Instr) (s : State) (t : Team) (act : Mask) (d : Nat) (tags : List Tag) (val : Nat → List Lane32)
    (taint : Nat → Bool) (flags : Nat → Sticky) : Prop :=
  ∃ t', Completes i s t t' ∧ t.laneFrame t' act ((List.range tags.length).map (d + ·)) ∧ t.laneHolds t' act d tags val taint ∧
    t'.sticky = t.sticky ||| flagsOf act t.lanes flags

/-- As laneResult, for a long-latency instruction: it also counts on its flag when a lane is active (R114). -/
def laneResultLong (i : Instr) (h : Hd) (s : State) (t : Team) (d : Nat) (tags : List Tag) (val : Nat → List Lane32)
    (taint : Nat → Bool) (flags : Nat → Sticky) : Prop :=
  ∃ t', Completes i s t (if t.active h = 0 then t' else t'.count h.fb none) ∧
    t.laneFrame t' (t.active h) ((List.range tags.length).map (d + ·)) ∧ t.laneHolds t' (t.active h) d tags val taint ∧
    t'.sticky = t.sticky ||| flagsOf (t.active h) t.lanes flags

/-- An instruction completes with n registers from d written in the active lanes, each with values, taint and, word by word,
tags of its own; no flag is raised and nothing else changes. -/
def wordResult (i : Instr) (s : State) (t : Team) (act : Mask) (d n : Nat) (tag : Nat → Nat → Tag) (val : Nat → Nat → Lane32)
    (taint : Nat → Nat → Bool) : Prop :=
  ∃ t', Completes i s t t' ∧ t.laneFrame t' act ((List.range n).map (d + ·)) ∧ t'.sticky = t.sticky ∧
    ∀ k, k < n → (∀ l, t.live act l → t'.lane (d + k) l = val k l ∧ t'.vtaint (d + k) l = taint k l) ∧
      ∀ w, t.wordLive act w → t'.vtag (d + k) w = tag k w

/-- An instruction completes with a predicate register set in the active lanes; a write to p15 is discarded (R119). -/
def predResult (i : Instr) (s : State) (t : Team) (act : Mask) (p : Nat) (val : Nat → Bool) : Prop :=
  ∃ t', Completes i s t t' ∧ t' = { t with preds := t'.preds } ∧ (∀ q, q ≠ p ∨ p = 15 → t'.pred q = t.pred q) ∧
    (p ≠ 15 → ∀ l, (t.live act l → (t'.pred p).getLsbD l = val l) ∧
      (act.getLsbD l = false → (t'.pred p).getLsbD l = (t.pred p).getLsbD l))

/-- An instruction completes with a mask register written in the active lanes (R151). -/
def maskResult (i : Instr) (s : State) (t : Team) (act : Mask) (k : Nat) (val : Nat → BitVec 16) : Prop :=
  ∃ t', Completes i s t t' ∧ t' = { t with kregs := t'.kregs } ∧
    ∀ j l, l < 1024 → (t.live act l ∧ j = k → t'.kreg j l = val l) ∧ (¬(t.live act l ∧ j = k) → t'.kreg j l = t.kreg j l)

/-- An instruction completes with a scalar register written. -/
def scalarResult (i : Instr) (s : State) (t : Team) (r : Nat) (bits : Word) (tag : Tag) (taint : Bool) : Prop :=
  ∃ t', Completes i s t t' ∧ t' = { t with sregs := t'.sregs } ∧ t'.sreg r = { bits := bits, tag := tag, taint := taint } ∧
    ∀ q, q ≠ r → t'.sreg q = t.sreg q

/-- An instruction raises an error: the machine takes it as R356 and R357 say, and the instruction has no other effect. -/
def errs (i : Instr) (s : State) (t : Team) (code : Nat) : Prop :=
  exec i s = .next ((s.takeTrap t (.err code none)).leavePipe t.id)

/-- Some register from v to v + n - 1 is tainted in a lane (R139). -/
def tainted (t : Team) (v n l : Nat) : Bool := (List.range n).any fun k => t.vtaint (v + k) l

/-! ## Integers (R143) -/

/-- The value of an operand of an integer type in a lane: I64 and I32 signed, N32 and KEY32 unsigned. -/
def opnd (t : Team) (ty : Tag) (v l : Nat) : Int :=
  if ty = 10 then (t.lane64 v l).toInt else if ty = 1 then (t.lane v l).toInt else (t.lane v l).toNat

/-- The registers that hold the low bits of a value under an integer type: two for I64, else one. -/
def regsOfInt (ty : Tag) (e : Int) : List Lane32 :=
  if ty = 10 then [BitVec.ofInt 32 e, BitVec.ofInt 32 (e / 2 ^ 32)] else [BitVec.ofInt 32 e]

/-- Registers an operand of a type takes: a pair for I64 and F64. -/
def width (ty : Tag) : Nat := if ty = 10 ∨ ty = 11 then 2 else 1

/-- The range of an integer type. -/
def least (ty : Tag) : Int := if ty = 10 then -2 ^ 63 else if ty = 1 then -2 ^ 31 else 0
def greatest (ty : Tag) : Int := if ty = 10 then 2 ^ 63 - 1 else if ty = 1 then 2 ^ 31 - 1 else 2 ^ 32 - 1

/-- What an exact result is written as: itself, or under the saturate bit the nearest value of the type's range. -/
def clampTo (ty : Tag) (sat : Bool) (e : Int) : Int := if sat then max (least ty) (min (greatest ty) e) else e

/-- The sticky flag SAT, where saturation changed the result. -/
def satFlag (ty : Tag) (sat : Bool) (e : Int) : Sticky :=
  if sat = true ∧ (e < least ty ∨ greatest ty < e) then Sticky.sat else Sticky.none

/-- Quotient and remainder toward zero, with the results of a zero divisor (R144). -/
def quotient (ty : Tag) (a b : Int) : Int :=
  if b = 0 then (if a = 0 then 0 else if ty = 2 then 2 ^ 32 - 1 else if 0 < a then 2 ^ 31 - 1 else -2 ^ 31) else a.tdiv b
def remainder (a b : Int) : Int := if b = 0 then a else a - a.tdiv b * b
def divFlag (a b : Int) : Sticky := if b = 0 ∧ a ≠ 0 then Sticky.dz else Sticky.none

/-! ## Bits -/

/-- The 32-bit value with the bits given. -/
def bits32 (f : Nat → Bool) : Lane32 :=
  (List.range 32).foldl (fun x i => if f i then x ||| (1#32 <<< i) else x) 0

/-- The one past the highest bit of the field that B names (R146). -/
def fieldTop (b : Nat) : Nat := min (b % 32 + b / 256 % 64) 32

/-- B names a field: its length is 1 to 32. -/
def isField (b : Nat) : Bool := b / 256 % 64 != 0 && b / 256 % 64 ≤ 32

/-- The field of A that B names, sign-extended or zero-extended. -/
def extracted (signed : Bool) (a : Lane32) (b : Nat) : Lane32 :=
  bits32 fun i => isField b &&
    if b % 32 + i < fieldTop b then a.getLsbD (b % 32 + i) else signed && a.getLsbD (fieldTop b - 1)

/-- A with the field that B names replaced by the low bits of C. -/
def inserted (a c : Lane32) (b : Nat) : Lane32 :=
  bits32 fun i => if isField b && b % 32 ≤ i && i < fieldTop b then c.getLsbD (i - b % 32) else a.getLsbD i

/-! ## Floating-point values -/

/-- F32 or F64 as a format, and the value of an operand of it; flush-to-zero reaches F32 alone (R32). -/
def floatFmt (ty : Tag) : Fmt := if ty = 11 then Fmt.f64 else Fmt.f32
def fval (t : Team) (ty : Tag) (v l : Nat) : NumVal :=
  if ty = 11 then decodeFloat Fmt.f64 false (t.lane64 v l).toNat else decodeFloat Fmt.f32 t.ftz (t.lane v l).toNat

/-- The registers that hold the bits of a result of a type. -/
def regsOfBits (ty : Tag) (x : Nat) : List Lane32 :=
  if width ty = 2 then [BitVec.ofNat 32 x, BitVec.ofNat 32 (x / 2 ^ 32)] else [BitVec.ofNat 32 x]

/-- The exact result e of an operation on operands, rounded once, with INV where it makes a NaN from none (R31, R152). -/
def rounded (f : Fmt) (rm : BitVec 3) (ftz : Bool) (e : NumVal) (ops : List NumVal) : Nat × Sticky :=
  let r := roundFloat f (Mode.ofField rm.toNat 0) { ftz := ftz } e
  (r.1, r.2 ||| if e.isNan && !ops.any NumVal.isNan then Sticky.inv else Sticky.none)

/-- The exact results of R152; an exact zero sum is -0 under RD alone, unless both addends are zeros of one sign. -/
def exactly (op : FloatOp) (rm : BitVec 3) (x y z : NumVal) : NumVal × List NumVal :=
  match op with
  | .add => (NumVal.add (rm == 3) x y, [x, y])
  | .sub => (NumVal.add (rm == 3) x y.negate, [x, y])
  | .mul => (NumVal.mul x y, [x, y])
  | .fma => (NumVal.add (rm == 3) (NumVal.mul x y) z, [x, y, z])

/-- The smaller or larger operand, -0 below +0; the other one where exactly one is NaN (R153). -/
def picked (larger : Bool) (x y : NumVal) : NumVal :=
  if x.isNan then y else if y.isNan then x else if NumVal.le153 x y = larger then y else x

/-- Element i of two in a register, as a 16-bit format decodes it (R34). -/
def half (f : Fmt) (ftz : Bool) (x : Lane32) (i : Nat) : NumVal := decodeFloat f ftz (x.toNat / 2 ^ (16 * i) % 2 ^ 16)

/-! ## Conditions (R149) -/

/-- A condition on an ordering; none when unordered. -/
def holds (c : Nat) (r : Option Ordering) : Bool :=
  if c = 0 then r == some .eq else if c = 1 then r != some .eq else if c = 2 then r == some .lt
  else if c = 3 then r == some .lt || r == some .eq else if c = 4 then r == some .gt
  else if c = 5 then r == some .gt || r == some .eq else if c = 6 then r == none else r != none

/-- The value of a scalar of an integer type (R48). -/
def scalarInt (ty : Tag) (x : Word) : Int :=
  if ty = 10 then x.toInt else if ty = 1 then (x.truncate 32 : Lane32).toInt else (x.truncate 32 : Lane32).toNat

end Sys2Proof.Claim

open Sys2Proof.Claim

/-! ## The lane class (spec/07_lane_ops.md) -/

/-- R143: IADD, ISUB, IMUL, IMULH, IMIN and IMAX write the exact result's low bits, or under the saturate bit the nearest value
of the type's range with SAT raised where it differs. -/
def Sys2Proof.Claim.IntegerArithmetic : Prop :=
  ∀ (s : State) (t : Team) (h : Hd) (o : Rrr) (d a b : Nat) (i : Instr) (sat : Bool) (f : Int → Int → Int),
    let ty := o.ty.toNat
    let n := width ty
    s.issuing = some t → t.names h.ixD o.d n (n == 2) d → t.names h.ixA o.a n (n == 2) a → t.names false o.b n false b →
    ty ∈ [1, 2, 9, 10] → t.tagged (t.active h) a n [ty] → t.tagged (t.active h) b n [ty] →
    (i, sat, f) ∈ [(Instr.iadd h o, o.sat, fun x y => x + y), (.isub h o, o.sat, fun x y => x - y),
      (.imul h o, o.sat, fun x y => x * y), (.imulh h o, false, fun x y => x * y / 2 ^ 32),
      (.imin h o, false, fun x y => min x y), (.imax h o, false, fun x y => max x y)] →
    laneResult i s t (t.active h) d (List.replicate n ty)
      (fun l => regsOfInt ty (clampTo ty sat (f (opnd t ty a l) (opnd t ty b l))))
      (fun l => tainted t a n l || tainted t b n l)
      (fun l => satFlag ty sat (f (opnd t ty a l) (opnd t ty b l)))

/-- R143: IMAD, ISAT, IMADW and IABS: the product and sum rounded nowhere, the clip that gives B below B and C else when B lies
above C, the wide sum under I64, the absolute value. -/
def Sys2Proof.Claim.IntegerMultiplyAddAndClip : Prop :=
  ∀ (s : State) (t : Team) (h : Hd) (o : Rrr) (d a b c : Nat),
    let ty := o.ty.toNat
    let act := t.active h
    let A := opnd t ty a
    let B := opnd t ty b
    s.issuing = some t →
    (ty ∈ [1, 2] → t.names h.ixD o.d 1 false d → t.names h.ixA o.a 1 false a → t.names false o.b 1 false b →
      t.names false o.c 1 false c → t.tagged act a 1 [ty] → t.tagged act b 1 [ty] → t.tagged act c 1 [ty] →
      let C := opnd t ty c
      let q := fun l => t.vtaint a l || t.vtaint b l || t.vtaint c l
      let clip := fun l => if A l < B l then B l else if C l < A l then C l else if C l < B l then C l else A l
      laneResult (.imad h o) s t act d [ty] (fun l => regsOfInt ty (clampTo ty o.sat (A l * B l + C l))) q
        (fun l => satFlag ty o.sat (A l * B l + C l)) ∧
      laneResult (.isat h o) s t act d [ty] (fun l => regsOfInt ty (clip l)) q
        (fun l => if clip l = A l then Sticky.none else Sticky.sat)) ∧
    (ty ∈ [1, 2] → t.names h.ixD o.d 2 true d → t.names h.ixA o.a 1 false a → t.names false o.b 1 false b →
      t.names false o.c 2 false c → t.tagged act a 1 [ty] → t.tagged act b 1 [ty] → t.tagged act c 2 [10] →
      laneResult (.imadw h o) s t act d [10, 10] (fun l => regsOfInt 10 (clampTo 10 o.sat (A l * B l + opnd t 10 c l)))
        (fun l => t.vtaint a l || t.vtaint b l || tainted t c 2 l) (fun l => satFlag 10 o.sat (A l * B l + opnd t 10 c l))) ∧
    (ty ∈ [1, 10] → t.names h.ixD o.d (width ty) (ty == 10) d → t.names h.ixA o.a (width ty) (ty == 10) a →
      t.tagged act a (width ty) [ty] →
      laneResult (.iabs h o) s t act d (List.replicate (width ty) ty)
        (fun l => regsOfInt ty (clampTo ty o.sat ((A l).natAbs : Int))) (tainted t a (width ty))
        (fun l => satFlag ty o.sat ((A l).natAbs : Int)))

/-- R144: IDIV and IREM round toward zero; a zero divisor gives 0 of 0 and else the type's bound with DZ, and the dividend as
remainder. -/
def Sys2Proof.Claim.IntegerDivision : Prop :=
  ∀ (s : State) (t : Team) (h : Hd) (o : Rrr) (d a b : Nat),
    let ty := o.ty.toNat
    let act := t.active h
    let q := fun l => quotient ty (opnd t ty a l) (opnd t ty b l)
    let stain := fun l => t.vtaint a l || t.vtaint b l
    let dz := fun l => divFlag (opnd t ty a l) (opnd t ty b l)
    s.issuing = some t → t.flagRoom h.fb = true → ty ∈ [1, 2] → t.names h.ixD o.d 1 false d → t.names h.ixA o.a 1 false a →
    t.names false o.b 1 false b → t.tagged act a 1 [ty] → t.tagged act b 1 [ty] →
    laneResultLong (.idiv h o) h s t d [ty] (fun l => regsOfInt ty (clampTo ty o.sat (q l))) stain
      (fun l => satFlag ty o.sat (q l) ||| dz l) ∧
    laneResultLong (.irem h o) h s t d [ty] (fun l => regsOfInt ty (remainder (opnd t ty a l) (opnd t ty b l))) stain dz

/-- R143 and R144: the integer instructions of the lane class. -/
def Obligations.IntegerInstructions : Prop :=
  Sys2Proof.Claim.IntegerArithmetic ∧ Sys2Proof.Claim.IntegerMultiplyAddAndClip ∧ Sys2Proof.Claim.IntegerDivision

/-- R145: AND, OR, XOR and ANDN, on one register or register by register on a pair: the common tag of the sources, else RAW. -/
def Sys2Proof.Claim.LaneLogic : Prop :=
  ∀ (s : State) (t : Team) (h : Hd) (o : Rrr) (d a b n : Nat) (i : Instr) (f : Lane32 → Lane32 → Lane32),
    let w64 := o.e.getLsbD 0
    let act := t.active h
    s.issuing = some t → n = (if w64 then 2 else 1) → t.names h.ixD o.d n w64 d → t.names h.ixA o.a n w64 a →
    t.names false o.b n false b → t.tagged act a n Tag.any → t.tagged act b n Tag.any →
    (i, f) ∈ [(Instr.andl h o, fun x y => x &&& y), (.orl h o, fun x y => x ||| y), (.xorl h o, fun x y => x ^^^ y),
      (.andn h o, fun x y => x &&& ~~~y)] →
    wordResult i s t act d n (fun k w => if t.vtag (a + k) w = t.vtag (b + k) w then t.vtag (a + k) w else Tag.raw)
      (fun k l => f (t.lane (a + k) l) (t.lane (b + k) l)) (fun k l => t.vtaint (a + k) l || t.vtaint (b + k) l)

/-- R146, its shifts: SHL, SHR, SAR and ROT of 32 bits, or 64 on a pair, by the unsigned amount in B, whatever its size; the
result takes A's tag. -/
def Sys2Proof.Claim.LaneShifts : Prop :=
  ∀ (s : State) (t : Team) (h : Hd) (o : Rrr) (d a b n : Nat) (i : Instr) (f : Lane32 → Nat → Lane32) (g : Word → Nat → Word),
    let w64 := o.e.getLsbD 0
    let act := t.active h
    s.issuing = some t → n = (if w64 then 2 else 1) → t.names h.ixD o.d n w64 d → t.names h.ixA o.a n w64 a →
    t.names false o.b 1 false b → t.tagged act a n Tag.any → t.tagged act b 1 [1, 2] →
    (i, f, g) ∈ [(Instr.shl h o, fun x k => x <<< k, fun x k => x <<< k), (.shr h o, fun x k => x >>> k, fun x k => x >>> k),
      (.sar h o, fun x k => x.sshiftRight k, fun x k => x.sshiftRight k),
      (.rot h o, fun x k => x.rotateLeft k, fun x k => x.rotateLeft k)] →
    wordResult i s t act d n (fun k w => t.vtag (a + k) w)
      (fun k l => if w64 then (g (t.lane64 a l) (t.lane b l).toNat).extractLsb' (32 * k) 32 else f (t.lane a l) (t.lane b l).toNat)
      (fun _ l => tainted t a n l || t.vtaint b l)

/-- R146, its fields and counts: BFX and BFI with the position in B[4:0] and the length in B[13:8], no field for a length of 0
or above 32; POPC, CLZ and BREV. -/
def Sys2Proof.Claim.BitFieldsAndCounts : Prop :=
  ∀ (s : State) (t : Team) (h : Hd) (o : Rrr) (d a b c : Nat),
    let ty := o.ty.toNat
    let act := t.active h
    let none := fun (_ : Nat) => Sticky.none
    let B := fun l => (t.lane b l).toNat
    s.issuing = some t → t.names h.ixD o.d 1 false d → t.names h.ixA o.a 1 false a → t.tagged act a 1 Tag.any →
    (t.names false o.b 1 false b → t.tagged act b 1 [1, 2] → ty ∈ [1, 2] →
      laneResult (.bfx h o) s t act d [ty] (fun l => [extracted (ty == 1) (t.lane a l) (B l)])
        (fun l => t.vtaint a l || t.vtaint b l) none) ∧
    (t.names false o.b 1 false b → t.names false o.c 1 false c → t.tagged act b 1 [1, 2] → t.tagged act c 1 Tag.any →
      wordResult (.bfi h o) s t act d 1 (fun _ w => t.vtag a w) (fun _ l => inserted (t.lane a l) (t.lane c l) (B l))
        (fun _ l => t.vtaint a l || t.vtaint b l || t.vtaint c l)) ∧
    laneResult (.popc h o) s t act d [2] (fun l => [BitVec.ofNat 32 ((List.range 32).filter (t.lane a l).getLsbD).length])
      (t.vtaint a) none ∧
    laneResult (.clz h o) s t act d [2]
      (fun l => [BitVec.ofNat 32 ((List.range 32).filter fun i => decide ((t.lane a l).toNat < 2 ^ i)).length]) (t.vtaint a) none ∧
    wordResult (.brev h o) s t act d 1 (fun _ w => t.vtag a w) (fun _ l => bits32 fun i => (t.lane a l).getLsbD (31 - i))
      (fun _ l => t.vtaint a l)

/-- R145 and R146: the logic, shift and bit-field instructions of the lane class. -/
def Obligations.LogicShiftsAndFields : Prop :=
  Sys2Proof.Claim.LaneLogic ∧ Sys2Proof.Claim.LaneShifts ∧ Sys2Proof.Claim.BitFieldsAndCounts

/-- R147: LEA forms sA + ext(vE) + sext(imm22), wrapped to 64 bits and tagged I64; an N32 base and offset are zero-extended, an
I32 offset is sign-extended. -/
def Sys2Proof.Claim.LaneAddresses : Prop :=
  ∀ (s : State) (t : Team) (h : Hd) (o : Ri) (d e : Nat),
    let act := t.active h
    let r := t.sreg o.a.toNat
    let base : Word := if r.tag = 2 then (r.bits.truncate 32).zeroExtend 64 else r.bits
    let ext := fun l => if t.vtag e (l / 32) = 1 then (t.lane e l).signExtend 64 else (t.lane e l).zeroExtend 64
    let sum := fun l => base + ext l + o.imm.signExtend 64
    s.issuing = some t → t.names h.ixD o.d 2 true d → t.names false o.e 1 false e → r.tag ∈ [10, 2, 12] →
    t.tagged act e 1 [1, 2] →
    laneResult (.lea h o) s t act d [10, 10] (fun l => [(sum l).extractLsb' 0 32, (sum l).extractLsb' 32 32])
      (fun l => r.taint || t.vtaint e l) (fun _ => Sticky.none)

/-- R148 and R158: MOV, MOVI, MOVS and SEL; SEL raises FORMAT where its sources' tags differ; REINT copies bits and taint under
another tag. -/
def Sys2Proof.Claim.LaneMoves : Prop :=
  ∀ (s : State) (t : Team) (h : Hd) (o : Rrr) (oi : Li) (d a b n : Nat),
    let w64 := o.e.getLsbD 0
    let act := t.active h
    let r := t.sreg o.a.toNat
    let ty := o.ty.toNat
    let p := t.pred o.c.toNat
    let same := ∀ k, k < n → ∀ w, t.wordLive act w → t.vtag (a + k) w = t.vtag (b + k) w
    s.issuing = some t →
    (t.names h.ixD oi.d 1 false d →
      wordResult (.movi h oi) s t act d 1 (fun _ _ => (oi.e >>> 2).toNat) (fun _ _ => oi.imm) (fun _ _ => false)) ∧
    (n = (if w64 then 2 else 1) → t.names h.ixD o.d n w64 d →
      (t.names h.ixA o.a n w64 a → t.tagged act a n Tag.any →
        wordResult (.mov h o) s t act d n (fun k w => t.vtag (a + k) w) (fun k l => t.lane (a + k) l)
          (fun k l => !o.e.getLsbD 1 && t.vtaint (a + k) l)) ∧
      (r.tag ∈ (if w64 then [10, 11, 12] else [1, 2, 3, 4, 5, 6, 7, 8, 9, 12]) →
        wordResult (.movs h o) s t act d n (fun _ _ => r.tag) (fun k _ => r.bits.extractLsb' (32 * k) 32) (fun _ _ => r.taint)) ∧
      (t.names h.ixA o.a n w64 a → t.names false o.b n false b → t.tagged act a n Tag.any → t.tagged act b n Tag.any → same →
        wordResult (.sel h o) s t act d n (fun k w => t.vtag (a + k) w)
          (fun k l => if p.getLsbD l then t.lane (a + k) l else t.lane (b + k) l)
          (fun k l => t.vtaint (a + k) l || t.vtaint (b + k) l)) ∧
      (t.names h.ixA o.a n w64 a → t.names false o.b n false b → t.tagged act a n Tag.any → t.tagged act b n Tag.any → ¬same →
        errs (.sel h o) s t Code.format)) ∧
    (n = width ty → ty ∈ Tag.any → t.names h.ixD o.d n (n == 2) d → t.names h.ixA o.a n (n == 2) a → t.tagged act a n Tag.any →
      wordResult (.reint h o) s t act d n (fun _ _ => ty) (fun k l => t.lane (a + k) l) (fun k l => t.vtaint (a + k) l))

/-- R147, R148 and R158: LEA, the moves, SEL and REINT. -/
def Obligations.AddressesAndMoves : Prop :=
  Sys2Proof.Claim.LaneAddresses ∧ Sys2Proof.Claim.LaneMoves

/-- R149: ICMP and FCMP set a predicate where the condition holds: signed for I32 and I64, unsigned for N32 and KEY32, -0 equal
to +0 and NaN unordered for floats, which raise no flag. -/
def Sys2Proof.Claim.LaneCompares : Prop :=
  ∀ (s : State) (t : Team) (h : Hd) (o : Rrr) (a b : Nat),
    let ty := o.ty.toNat
    let n := width ty
    let act := t.active h
    let c := (o.e >>> 2).toNat
    s.issuing = some t → t.names h.ixA o.a n (n == 2) a → t.names false o.b n false b →
    t.tagged act a n [ty] → t.tagged act b n [ty] →
    (ty ∈ [1, 2, 9, 10] → c < 6 →
      predResult (.icmp h o) s t act o.d.toNat (fun l => holds c (some (compare (opnd t ty a l) (opnd t ty b l))))) ∧
    (ty ∈ [3, 11] → c < 8 → predResult (.fcmp h o) s t act o.d.toNat (fun l => holds c (NumVal.cmp (fval t ty a l) (fval t ty b l))))

/-- R150: PAND, POR, PXOR and PNOT write the active lanes of a predicate; p15 reads ones. R151: KBIT writes bit n of a mask
register, false for n outside 0 to 15. -/
def Sys2Proof.Claim.PredicateOperations : Prop :=
  ∀ (s : State) (t : Team) (h : Hd) (o : Rrr) (b : Nat),
    let act := t.active h
    let p := fun (r : BitVec 8) l => (t.pred r.toNat).getLsbD l
    let bit := fun l => opnd t (t.vtag b (l / 32)) b l
    s.issuing = some t →
    predResult (.pand h o) s t act o.d.toNat (fun l => p o.a l && p o.b l) ∧
    predResult (.por h o) s t act o.d.toNat (fun l => p o.a l || p o.b l) ∧
    predResult (.pxor h o) s t act o.d.toNat (fun l => p o.a l ^^ p o.b l) ∧
    predResult (.pnot h o) s t act o.d.toNat (fun l => !p o.a l) ∧
    (t.names false o.b 1 false b → t.tagged act b 1 [1, 2] →
      predResult (.kbit h o) s t act o.d.toNat
        (fun l => decide (0 ≤ bit l ∧ bit l < 16) && (t.kreg o.a.toNat l).getLsbD (bit l).toNat))

/-- R151: KMOV in its three directions, KAND, KOR, KSET and KSET.clr, in the active lanes. -/
def Sys2Proof.Claim.MaskRegisters : Prop :=
  ∀ (s : State) (t : Team) (h : Hd) (o : Rrr) (d a b : Nat),
    let act := t.active h
    let k := fun l => t.kreg o.a.toNat l
    let bit := fun l => opnd t (t.vtag b (l / 32)) b l
    s.issuing = some t →
    (o.e = 0 → maskResult (.kmov h o) s t act o.d.toNat k) ∧
    (o.e = 1 → t.names h.ixA o.a 1 false a → t.tagged act a 1 Tag.any →
      maskResult (.kmov h o) s t act o.d.toNat (fun l => (t.lane a l).extractLsb' 0 16)) ∧
    (o.e = 2 → t.names h.ixD o.d 1 false d →
      wordResult (.kmov h o) s t act d 1 (fun _ _ => 2) (fun _ l => (k l).zeroExtend 32) (fun _ _ => false)) ∧
    maskResult (.kand h o) s t act o.d.toNat (fun l => k l &&& t.kreg o.b.toNat l) ∧
    maskResult (.kor h o) s t act o.d.toNat (fun l => k l ||| t.kreg o.b.toNat l) ∧
    (t.names false o.b 1 false b → t.tagged act b 1 [1, 2] →
      maskResult (.kset h o) s t act o.d.toNat (fun l =>
        if bit l < 0 ∨ 16 ≤ bit l then k l
        else if o.e.getLsbD 0 then k l &&& ~~~(1#16 <<< (bit l).toNat) else k l ||| (1#16 <<< (bit l).toNat)))

/-- R149 to R151: the compares, the predicate operations and the mask registers. -/
def Obligations.ComparesAndPredicates : Prop :=
  Sys2Proof.Claim.LaneCompares ∧ Sys2Proof.Claim.PredicateOperations ∧ Sys2Proof.Claim.MaskRegisters

/-- R152: FADD, FSUB, FMUL and FFMA compute the exact result and round it once; INV marks a NaN made from operands that are
none. -/
def Sys2Proof.Claim.FloatArithmetic : Prop :=
  ∀ (s : State) (t : Team) (h : Hd) (o : Rrr) (d a b c : Nat) (i : Instr) (op : FloatOp),
    let ty := o.ty.toNat
    let n := width ty
    let act := t.active h
    let r := fun l =>
      let e := exactly op o.rm (fval t ty a l) (fval t ty b l) (fval t ty c l)
      rounded (floatFmt ty) o.rm (t.ftz && ty == 3) e.1 e.2
    s.issuing = some t → ty ∈ [3, 11] → o.rm.toNat < 4 → t.names h.ixD o.d n (n == 2) d → t.names h.ixA o.a n (n == 2) a →
    t.names false o.b n false b → (if op = .fma then t.names false o.c n false c else c = b) →
    t.tagged act a n [ty] → t.tagged act b n [ty] → t.tagged act c n [ty] →
    (i, op) ∈ [(Instr.fadd h o, FloatOp.add), (.fsub h o, .sub), (.fmul h o, .mul), (.ffma h o, .fma)] →
    laneResult i s t act d (List.replicate n ty) (fun l => regsOfBits ty (r l).1)
      (fun l => tainted t a n l || tainted t b n l || tainted t c n l) (fun l => (r l).2)

/-- R153: FMIN and FMAX give the smaller or larger operand, -0 below +0, the other one where exactly one is NaN; no flag. -/
def Sys2Proof.Claim.FloatMinMax : Prop :=
  ∀ (s : State) (t : Team) (h : Hd) (o : Rrr) (d a b : Nat) (i : Instr) (larger : Bool),
    let ty := o.ty.toNat
    let n := width ty
    let act := t.active h
    s.issuing = some t → ty ∈ [3, 11] → t.names h.ixD o.d n (n == 2) d → t.names h.ixA o.a n (n == 2) a →
    t.names false o.b n false b → t.tagged act a n [ty] → t.tagged act b n [ty] →
    (i, larger) ∈ [(Instr.fmin h o, false), (.fmax h o, true)] →
    laneResult i s t act d (List.replicate n ty)
      (fun l => regsOfBits ty (roundFloat (floatFmt ty) .rne {} (picked larger (fval t ty a l) (fval t ty b l))).1)
      (fun l => tainted t a n l || tainted t b n l) (fun _ => Sticky.none)

/-- R155: HADD2, HMUL2, HFMA2, BADD2, BMUL2 and BFMA2 apply the rule of R152 to both 16-bit elements, and raise the flags of
either. -/
def Sys2Proof.Claim.PackedArithmetic : Prop :=
  ∀ (s : State) (t : Team) (h : Hd) (o : Rrr) (d a b c : Nat) (i : Instr) (op : FloatOp) (ty : Tag) (f : Fmt),
    let act := t.active h
    let r := fun l j =>
      let e := exactly op o.rm (half f t.ftz (t.lane a l) j) (half f t.ftz (t.lane b l) j) (half f t.ftz (t.lane c l) j)
      rounded f o.rm t.ftz e.1 e.2
    s.issuing = some t → o.rm.toNat < 4 → t.names h.ixD o.d 1 false d → t.names h.ixA o.a 1 false a →
    t.names false o.b 1 false b → (if op = .fma then t.names false o.c 1 false c else c = b) →
    t.tagged act a 1 [ty] → t.tagged act b 1 [ty] → t.tagged act c 1 [ty] →
    (i, op, ty, f) ∈ [(Instr.hadd2 h o, FloatOp.add, Tag.h16x2, Fmt.f16), (.hmul2 h o, .mul, Tag.h16x2, Fmt.f16),
      (.hfma2 h o, .fma, Tag.h16x2, Fmt.f16), (.badd2 h o, .add, Tag.b16x2, Fmt.bf16), (.bmul2 h o, .mul, Tag.b16x2, Fmt.bf16),
      (.bfma2 h o, .fma, Tag.b16x2, Fmt.bf16)] →
    laneResult i s t act d [ty] (fun l => [BitVec.ofNat 32 ((r l 0).1 + (r l 1).1 * 2 ^ 16)])
      (fun l => t.vtaint a l || t.vtaint b l || t.vtaint c l) (fun l => (r l 0).2 ||| (r l 1).2)

/-- R152, R153 and R155: floating-point arithmetic, minimum and maximum, and the packed forms. -/
def Obligations.FloatAndPackedArithmetic : Prop :=
  Sys2Proof.Claim.FloatArithmetic ∧ Sys2Proof.Claim.FloatMinMax ∧ Sys2Proof.Claim.PackedArithmetic

/-! ## Special functions, rotation and random numbers (R154, R156, R162) -/

/-- The special values of R154: the value of function fn at an operand, and the flag it raises. -/
def Sys2Proof.Claim.sfuSpecial (fn : Nat) (x : NumVal) : Option (NumVal × Sticky) :=
  let one := NumVal.fin false 1 0
  let bad := some (NumVal.nan, Sticky.inv)
  let is (v : NumVal) : Option (NumVal × Sticky) := some (v, Sticky.none)
  if x.isNan then is .nan
  else if x.isZero then
    if fn = 0 ∨ fn = 1 then some (.inf x.neg, Sticky.dz)
    else if fn = 4 then some (.inf true, Sticky.dz)
    else if fn = 2 ∨ fn = 5 ∨ fn = 7 then is (.zero x.neg)
    else if fn = 6 then is (.fin false 1 (-1)) else is one
  else if x.neg ∧ (fn = 1 ∨ fn = 2 ∨ fn = 4) then bad
  else if x.isInf then
    if fn = 0 then is (.zero x.neg)
    else if fn = 1 then is (.zero false)
    else if fn = 2 ∨ fn = 4 then is (.inf false)
    else if fn = 3 then is (if x.neg then .zero false else .inf false)
    else if fn = 5 then is (.fin x.neg 1 0)
    else if fn = 6 then is (if x.neg then .zero false else one)
    else bad
  else none

/-- The functions that give an exact result y at a finite x: the reciprocal of a power of two, the square root of a square, the
reciprocal root of a power of four, the powers of two of integers, and the logarithm of a power of two. -/
def Sys2Proof.Claim.sfuExact (fn : Nat) (x y : NumVal) : Prop :=
  (∃ s k, fn = 0 ∧ NumVal.cmp x (.fin s 1 k) = some .eq ∧ y = .fin s 1 (-k)) ∨
  (∃ k, fn = 1 ∧ NumVal.cmp x (.fin false 1 (2 * k)) = some .eq ∧ y = .fin false 1 (-k)) ∨
  (∃ n k, fn = 2 ∧ 0 < n ∧ NumVal.cmp x (.fin false (n * n) (2 * k)) = some .eq ∧ y = .fin false n k) ∨
  (∃ n : Int, fn = 3 ∧ n ≠ 0 ∧ NumVal.cmp x (.ofInt n) = some .eq ∧ y = .fin false 1 n) ∨
  (∃ n : Int, fn = 4 ∧ NumVal.cmp x (.fin false 1 n) = some .eq ∧ y = .ofInt n)

/-- A value v lies strictly below, or strictly above, the reciprocal, the reciprocal root or the root of a positive x. -/
def Sys2Proof.Claim.sfuSide (fn : Nat) (r : Ordering) (v x : NumVal) : Prop :=
  if fn = 0 then NumVal.cmp (.mul v x) (.fin false 1 0) = some r
  else if fn = 1 then NumVal.cmp (.mul (.mul v v) x) (.fin false 1 0) = some r
  else NumVal.cmp (.mul v v) x = some r

/-- The rounding of a value that lies between two bounds: that of both, inexact, or a free value where they round apart. -/
def Sys2Proof.Claim.between (rd : NumVal → Nat × Sticky) (lo hi : NumVal) (free : Nat) : Nat × Sticky :=
  if rd lo = rd hi then ((rd lo).1, (rd lo).2 ||| Sticky.inx) else (free, Sticky.inx)

/-- R154: the value of each function at an operand. Special values and exact results are as the table and the text have them,
and an exact result raises no INX. A reciprocal, root or reciprocal root that is not exact is what every value close enough
to it on either side rounds to. The other functions round an enclosure of their value; where its bounds round apart, which
no operand is known to do, the result is the free value of log entry 11. -/
def Sys2Proof.Claim.SpecialFunctionValues : Prop :=
  ∀ (fn rm : Nat) (ftz : Bool) (a : Nat),
    let x := decodeFloat Fmt.f32 ftz a
    let rd := roundFloat Fmt.f32 (Mode.ofField rm 0) { ftz := ftz }
    let out := sfuResult fn rm ftz a
    fn ≤ 8 → rm < 4 →
    (∀ v f, sfuSpecial fn x = some (v, f) → out = ((rd v).1, (rd v).2 ||| f)) ∧
    (∀ y, sfuExact fn x y → out = rd y) ∧
    (sfuSpecial fn x = none → (∀ y, ¬sfuExact fn x y) → fn ≤ 2 →
      ∃ lo hi : NumVal, lo.neg = false ∧ hi.neg = false ∧ (∀ m e, x = .fin x.neg m e →
        sfuSide fn .lt lo (.fin false m e) ∧ sfuSide fn .gt hi (.fin false m e)) ∧
        ∀ v, v = lo ∨ v = hi → out = rd (if x.neg then v.negate else v)) ∧
    (sfuSpecial fn x = none → ∀ lo hi, (sfu fn x).1 = .between lo hi → out = between rd lo hi (Config.special fn a))

/-- R156: the two outputs for x0 and x1 under the angle p * w, each rounded once. NaN and an infinite w give NaN; no rotation
gives the inputs, exactly (for an infinite x the model's choice, log entry 29); a zero angle has sine 0 of w's sign and
cosine 1. Else, with sine and cosine as fixed-point numbers within d of the exact ones (`sinCos`), each output is the
rounding of the sum of the two products, which lie between bounds; a free value where the bounds round apart (log
entry 11). -/
def Sys2Proof.Claim.RotationValues : Prop :=
  ∀ (down : Bool) (x y w : NumVal) (p free : Nat) (mode : Mode) (ftz : Bool),
    let r := frot down x y p w
    let nan := (Enclosed.exact .nan, Sticky.none)
    let prod := fun (a : NumVal) (c : Int) => NumVal.mul a (Fix.toNum c 0)
    let low := fun (a : NumVal) (c d : Int) => prod a (if a.neg then c + d else c - d)
    let high := fun (a : NumVal) (c d : Int) => prod a (if a.neg then c - d else c + d)
    let round := roundFloat Fmt.f32 mode { ftz := ftz }
    let sum := fun (a b : NumVal) => let v := NumVal.add down a b
      (Enclosed.exact v, if v.isNan then Sticky.inv else Sticky.none)
    (x.isNan ∨ y.isNan ∨ w.isNan → r = (nan, nan)) ∧
    (¬(x.isNan ∨ y.isNan ∨ w.isNan) →
      (w.isInf → p ≠ 0 → r = ((.exact .nan, Sticky.inv), (.exact .nan, Sticky.inv))) ∧
      (p = 0 → r = ((.exact x, Sticky.none), (.exact y, Sticky.none))) ∧
      (∀ sw e, w = .fin sw 0 e → p ≠ 0 →
        r = (sum (.mul x (.ofInt 1)) (.mul y (.zero !sw)), sum (.mul x (.zero sw)) (.mul y (.ofInt 1)))) ∧
      (∀ sw m e, w = .fin sw m e → m ≠ 0 → p ≠ 0 →
        let sc := sinCos (m * p) e
        let sn := if sw then -sc.1 else sc.1
        let d := sinCosEps (m * p) e
        (x.isInf ∨ y.isInf → r = (sum (prod x sc.2) (prod y (-sn)), sum (prod x sn) (prod y sc.2))) ∧
        (x.isZero ∧ y.isZero → r = ((.exact (.add down (prod x sc.2) (prod y (-sn))), Sticky.none),
          (.exact (.add down (prod x sn) (prod y sc.2)), Sticky.none))) ∧
        (¬(x.isInf ∨ y.isInf) → ¬(x.isZero ∧ y.isZero) →
          r.1.2 = Sticky.none ∧ r.2.2 = Sticky.none ∧
          r.1.1.round Fmt.f32 mode { ftz := ftz } free =
            between round (.add false (low x sc.2 d) (low y (-sn) d)) (.add false (high x sc.2 d) (high y (-sn) d)) free ∧
          r.2.1.round Fmt.f32 mode { ftz := ftz } free =
            between round (.add false (low x sn d) (low y sc.2 d)) (.add false (high x sn d) (high y sc.2 d)) free)))

/-- The four words of a Philox counter. -/
abbrev Sys2Proof.Claim.Words4 := Lane32 × Lane32 × Lane32 × Lane32

/-- One round of Philox-4x32 on a counter under a round key (R162): the 64-bit products p and q, their halves crossed. -/
def Sys2Proof.Claim.philoxRound (k0 k1 : Lane32) (c : Words4) : Words4 :=
  let p := 0xD2511F53#64 * c.1.zeroExtend 64
  let q := 0xCD9E8D57#64 * c.2.2.1.zeroExtend 64
  (q.extractLsb' 32 32 ^^^ c.2.1 ^^^ k0, q.extractLsb' 0 32, p.extractLsb' 32 32 ^^^ c.2.2.2 ^^^ k1, p.extractLsb' 0 32)

/-- Ten rounds, the round key raised by its two constants from each to the next. -/
def Sys2Proof.Claim.philoxTen (k0 k1 : Lane32) (c : Words4) : Words4 :=
  (List.range 10).foldl (fun c r => philoxRound (k0 + BitVec.ofNat 32 r * 0x9E3779B9) (k1 + BitVec.ofNat 32 r * 0xBB67AE85) c) c

/-- R154, R156 and R162: FSFU writes the function of A rounded once, FROT the rotated pair with each output rounded once, RNG
the four words of Philox-4x32-10; each completes for every operand of the tags it takes. -/
def Obligations.SpecialFunctions : Prop :=
  Sys2Proof.Claim.SpecialFunctionValues ∧ Sys2Proof.Claim.RotationValues ∧
  ∀ (s : State) (t : Team) (h : Hd) (o : Rrr) (d a b c : Nat),
    let act := t.active h
    let sfu := fun l => sfuResult (o.e >>> 2).toNat o.rm.toNat t.ftz (t.lane a l).toNat
    let x := fun r l => decodeFloat Fmt.f32 t.ftz (t.lane r l).toNat
    let turn := fun l => frot (o.rm == 3) (x a l) (x (a + 1) l) (t.lane c l).toNat (x b l)
    let free := fun l k =>
      Config.special (9 + k) ((t.lane64 a l).toNat + (t.lane b l).toNat * 2 ^ 64 + (t.lane c l).toNat * 2 ^ 96)
    let p := fun l => (turn l).1.1.round Fmt.f32 (Mode.ofField o.rm.toNat 0) { ftz := t.ftz } (free l 0)
    let q := fun l => (turn l).2.1.round Fmt.f32 (Mode.ofField o.rm.toNat 0) { ftz := t.ftz } (free l 1)
    let key := t.sreg o.a.toNat
    let w := fun l => philoxTen (key.bits.truncate 32) (key.bits.extractLsb' 32 32)
      (t.lane b l, t.lane (b + 1) l, t.lane (b + 2) l, t.lane (b + 3) l)
    s.issuing = some t →
    (t.flagRoom h.fb = true → t.names h.ixD o.d 1 false d → t.names h.ixA o.a 1 false a → t.tagged act a 1 [3] →
      laneResultLong (.fsfu h o) h s t d [3] (fun l => [BitVec.ofNat 32 (sfu l).1]) (t.vtaint a) (fun l => (sfu l).2)) ∧
    (t.names h.ixD o.d 2 true d → t.names h.ixA o.a 2 true a → t.names false o.b 1 false b → t.names false o.c 1 false c →
      t.tagged act a 2 [3] → t.tagged act b 1 [3] → t.tagged act c 1 [2] →
      laneResult (.frot h o) s t act d [3, 3] (fun l => [BitVec.ofNat 32 (p l).1, BitVec.ofNat 32 (q l).1])
        (fun l => tainted t a 2 l || t.vtaint b l || t.vtaint c l)
        (fun l => (p l).2 ||| (turn l).1.2 ||| (q l).2 ||| (turn l).2.2)) ∧
    (t.flagRoom h.fb = true → t.names h.ixD o.d 4 false d → t.names false o.b 4 false b → key.tag ∈ [10, 2, 12] →
      t.tagged act b 4 [2, 1, 12] →
      laneResultLong (.rng h o) h s t d [2, 2, 2, 2] (fun l => [(w l).1, (w l).2.1, (w l).2.2.1, (w l).2.2.2])
        (fun l => key.taint || tainted t b 4 l) (fun _ => Sticky.none))

/-- R157: CVT in its four cases: one value into another format; two F32 values joined into a 16-bit pair; one element of such
a pair split off; each element converted. Under RS, element i of m uses the random operand rotated left by 32 / m * i. -/
def Sys2Proof.Claim.Conversions : Prop :=
  ∀ (s : State) (t : Team) (h : Hd) (o : Rrr) (d a b c : Nat) (kind : Wf.CvtCase),
    let dst := o.ty.toNat
    let src := (o.e >>> 2).toNat
    let act := t.active h
    let rho := fun l m i => if o.rm = 4 then ((t.lane c l).rotateLeft (32 / m * i)).toNat else 0
    let one := fun l m i x =>
      cvtElem (Elem.ofTag src) (Elem.ofTag dst) t.ftz (Mode.ofField o.rm.toNat (rho l m i)) o.sat (o.e.getLsbD 1) x
    let elem := fun l m i => (t.lane a l).toNat / 2 ^ (32 / m * i) % 2 ^ (32 / m)
    let m := elemCount dst
    let r := fun l => match kind with
      | .single => [one l 1 0 (if src = 10 ∨ src = 11 then (t.lane64 a l).toNat else (t.lane a l).toNat)]
      | .join => [one l 2 0 (t.lane a l).toNat, one l 2 1 (t.lane b l).toNat]
      | .split => [one l 1 0 (elem l 2 (if o.e.getLsbD 0 then 1 else 0))]
      | .elementwise => (List.range m).map fun i => one l m i (elem l m i)
    s.issuing = some t → Wf.cvtCase dst src = some kind → t.names h.ixD o.d (width dst) (width dst == 2) d →
    t.names h.ixA o.a (width src) (width src == 2) a → (if kind = .join then t.names false o.b 1 false b else b = a) →
    (if o.rm = 4 then t.names false o.c 1 false c ∧ t.tagged act c 1 [2, 1, 12] else c = a) →
    t.tagged act a (width src) [src] → t.tagged act b 1 [src] →
    laneResult (.cvt h o) s t act d (List.replicate (width dst) dst)
      (fun l => match kind with
        | .single | .split => regsOfBits dst (((r l).getD 0 (0, 0)).1)
        | .join | .elementwise => [BitVec.ofNat 32 (joinElems m ((r l).map (·.1)))])
      (fun l => tainted t a (width src) l || t.vtaint b l || t.vtaint c l)
      (fun l => (r l).foldl (fun f x => f ||| x.2) Sticky.none)

/-- R159 and R160: PACK4 and PACK8 convert four or eight registers into the elements of one; UNPK4 and UNPK8 write the
elements of one exactly into four or eight, raising only RSV4 for the INT4 code 1000b, or ARITH under INT4TRAP with nothing
written. -/
def Sys2Proof.Claim.PackingAndUnpacking : Prop :=
  ∀ (s : State) (t : Team) (h : Hd) (o : Rrr) (d a c m : Nat),
    let dst := o.ty.toNat
    let src := (o.e >>> 2).toNat
    let act := t.active h
    let rho := fun l i => if o.rm = 4 then ((t.lane c l).rotateLeft (32 / m * i)).toNat else 0
    let packed := fun l => (List.range m).map fun i =>
      cvtElem (Elem.ofTag src) (Elem.ofTag dst) t.ftz (Mode.ofField o.rm.toNat (rho l i)) false false (t.lane (a + i) l).toNat
    let elem := fun l i => (t.lane a l).toNat / 2 ^ (32 / m * i) % 2 ^ (32 / m)
    let unpacked := fun l => (List.range m).map fun i =>
      BitVec.ofNat 32 ((Elem.ofTag dst).round .rne {} ((Elem.ofTag src).decode false (elem l i))).1
    let reserved := fun l => src == 8 && (List.range 8).any fun i => (t.lane a l).toNat / 16 ^ i % 16 == 8
    s.issuing = some t →
    (t.names h.ixD o.d 1 false d → t.names h.ixA o.a m false a → t.tagged act a m [src] →
      (if o.rm = 4 then t.names false o.c 1 false c ∧ t.tagged act c 1 [2, 1, 12] else c = a) →
      ∀ i, (i, m) ∈ [(Instr.pack4 h o, 4), (.pack8 h o, 8)] →
        laneResult i s t act d [dst] (fun l => [BitVec.ofNat 32 (joinElems m ((packed l).map (·.1)))])
          (fun l => tainted t a m l || t.vtaint c l) (fun l => (packed l).foldl (fun f x => f ||| x.2) Sticky.none)) ∧
    (t.names h.ixD o.d m false d → t.names h.ixA o.a 1 false a → t.tagged act a 1 [src] →
      ∀ i, (i, m) ∈ [(Instr.unpk4 h o, 4), (.unpk8 h o, 8)] →
        ((t.i4trap = false ∨ ∀ l, t.live act l → reserved l = false) →
          laneResult i s t act d (List.replicate m dst) unpacked (t.vtaint a)
            (fun l => if reserved l then Sticky.rsv4 else Sticky.none)) ∧
        (t.i4trap = true → (∃ l, t.live act l ∧ reserved l = true) → errs i s t Code.arith))

/-- R157, R159 and R160: conversions, packing and unpacking. -/
def Obligations.ConversionsAndPacking : Prop :=
  Sys2Proof.Claim.Conversions ∧ Sys2Proof.Claim.PackingAndUnpacking

/-- R161: IDP4 and EDP4 sum four element products and C exactly; IDP4 wraps, or saturates to I32, and EDP4 rounds once. -/
def Obligations.DotProducts : Prop :=
  ∀ (s : State) (t : Team) (h : Hd) (o : Rrr) (d a b c : Nat),
    let act := t.active h
    let byte := fun (x : Lane32) k => x.extractLsb' (8 * k) 8
    let isum := fun l => (List.range 4).foldl
      (fun (x : Int) k => x + (byte (t.lane a l) k).toInt * (byte (t.lane b l) k).toInt) 0 + (t.lane c l).toInt
    let term := fun l k => NumVal.mul (decodeFloat Fmt.e4m3 false (byte (t.lane a l) k).toNat)
      (decodeFloat Fmt.e4m3 false (byte (t.lane b l) k).toNat)
    let plus := NumVal.add (o.rm == 3)
    let fsum := fun l => plus (plus (plus (plus (term l 0) (term l 1)) (term l 2)) (term l 3)) (fval t 3 c l)
    let r := fun l => roundFloat Fmt.f32 (Mode.ofField o.rm.toNat 0) { ftz := t.ftz } (fsum l)
    let stain := fun l => t.vtaint a l || t.vtaint b l || t.vtaint c l
    s.issuing = some t → t.names h.ixD o.d 1 false d → t.names h.ixA o.a 1 false a → t.names false o.b 1 false b →
    t.names false o.c 1 false c →
    (t.tagged act a 1 [7] → t.tagged act b 1 [7] → t.tagged act c 1 [1] →
      laneResult (.idp4 h o) s t act d [1] (fun l => regsOfInt 1 (clampTo 1 o.sat (isum l))) stain
        (fun l => satFlag 1 o.sat (isum l))) ∧
    (t.tagged act a 1 [6] → t.tagged act b 1 [6] → t.tagged act c 1 [3] →
      laneResult (.edp4 h o) s t act d [3] (fun l => [BitVec.ofNat 32 (r l).1]) stain (fun l => (r l).2))

/-- R163: SADD, SMUL, SAND, SOR, SMOV and SCMP act once, whatever the masks; SCMP writes the active lanes of its predicate. -/
def Sys2Proof.Claim.ScalarArithmetic : Prop :=
  ∀ (s : State) (t : Team) (h : Hd) (o : Rrr),
    let ty := o.ty.toNat
    let x := t.sreg o.a.toNat
    let y := t.sreg o.b.toNat
    let wrap := fun (v : Word) => if ty = 10 then v else (v.truncate 32 : Lane32).zeroExtend 64
    let tag := if x.tag = y.tag then x.tag else Tag.raw
    let c := (o.e >>> 2).toNat
    s.issuing = some t →
    (ty ∈ [1, 2, 10] → x.tag = ty → y.tag = ty →
      scalarResult (.sadd h o) s t o.d.toNat (wrap (x.bits + y.bits)) ty (x.taint || y.taint) ∧
      scalarResult (.smul h o) s t o.d.toNat (wrap (x.bits * y.bits)) ty (x.taint || y.taint) ∧
      (c < 6 → predResult (.scmp h o) s t (t.active h) o.d.toNat
        (fun _ => holds c (some (compare (scalarInt ty x.bits) (scalarInt ty y.bits)))))) ∧
    (x.tag ∈ Tag.any → y.tag ∈ Tag.any →
      scalarResult (.sand h o) s t o.d.toNat (x.bits &&& y.bits) tag (x.taint || y.taint) ∧
      scalarResult (.sor h o) s t o.d.toNat (x.bits ||| y.bits) tag (x.taint || y.taint)) ∧
    (x.tag ∈ Tag.any → scalarResult (.smov h o) s t o.d.toNat x.bits x.tag x.taint)

/-- R164 and R165: SSHL shifts left by n, or right by its negative, arithmetically for I64 and I32, over 64 bits for I64 and RAW
and 32 else; SMOVI writes a constant, and SMOVI.hi the high half of an I64 or RAW register, FORMAT for any other. -/
def Sys2Proof.Claim.ScalarShiftsAndConstants : Prop :=
  ∀ (s : State) (t : Team) (h : Hd) (o : Rrr) (k : Li),
    let x := t.sreg o.a.toNat
    let y := t.sreg o.b.toNat
    let n : Int := scalarInt y.tag y.bits
    let low : Lane32 := x.bits.truncate 32
    let z := t.sreg k.d.toNat
    s.issuing = some t →
    (x.tag ∈ [10, 12, 1, 2] → y.tag ∈ [10, 1] →
      scalarResult (.sshl h o) s t o.d.toNat
        (if x.tag = 10 then (if 0 ≤ n then x.bits <<< n.toNat else x.bits.sshiftRight (-n).toNat)
          else if x.tag = 12 then (if 0 ≤ n then x.bits <<< n.toNat else x.bits >>> (-n).toNat)
          else if x.tag = 1 then (if 0 ≤ n then low <<< n.toNat else low.sshiftRight (-n).toNat).zeroExtend 64
          else (if 0 ≤ n then low <<< n.toNat else low >>> (-n).toNat).zeroExtend 64)
        x.tag (x.taint || y.taint)) ∧
    (k.e.getLsbD 1 = false → scalarResult (.smovi h k) s t k.d.toNat
      (if (k.e >>> 2).toNat = 10 then k.imm.signExtend 64 else k.imm.zeroExtend 64) (k.e >>> 2).toNat false) ∧
    (k.e.getLsbD 1 = true → z.tag ∈ [10, 12] →
      scalarResult (.smovi h k) s t k.d.toNat (k.imm ++ (z.bits.truncate 32 : Lane32)) z.tag false) ∧
    (k.e.getLsbD 1 = true → z.tag ∉ [10, 12] → errs (.smovi h k) s t Code.format)

/-- R163 to R165: the scalar class. -/
def Obligations.ScalarInstructions : Prop :=
  Sys2Proof.Claim.ScalarArithmetic ∧ Sys2Proof.Claim.ScalarShiftsAndConstants

namespace Sys2Proof.Claim

/-- The value of a lane as RED and SCAN read it (R178): integers by type, floats as their bits with a subnormal F32 flushed. -/
def entering (t : Team) (ty : Tag) (v l : Nat) : Int := redIn ty t.ftz (t.laneTy ty v l)

/-- The exact value of an integer reduction over a list of lanes: sum, least or greatest, from the identity of R179. -/
def folded (op : RedOp) (ty : Tag) (val : Nat → Int) (ls : List Nat) : Int :=
  match op with
  | .sum => (ls.map val).sum
  | .min => (ls.map val).foldl min (greatest ty)
  | .max => (ls.map val).foldl max (least ty)

/-- The running value of SCAN over a list of lanes, each combination rounded in turn (R180). -/
def running (op : RedOp) (ty : Tag) (ftz : Bool) (val : Nat → Int) (ls : List Nat) : Int :=
  ls.foldl (fun acc l => (redComb op ty ftz acc (val l)).1) (redIdentity op ty)

end Sys2Proof.Claim

/-- R179: RED over an integer type writes the sum, wrapped or saturated, or the least or greatest value of the active lanes, the
identity where there is none; the tree's order does not show. -/
def Sys2Proof.Claim.IntegerReductions : Prop :=
  ∀ (s : State) (t : Team) (h : Hd) (o : Rrr) (a : Nat),
    let ty := o.ty.toNat
    let n := width ty
    let act := t.active h
    let op := RedOp.ofField (o.e &&& 3).toNat
    let ls := lanesOf act t.lanes
    let e := folded op ty (opnd t ty a) ls
    let sat := o.sat && op == .sum
    let bits : Word := if ty = 10 then BitVec.ofInt 64 (clampTo ty sat e) else (BitVec.ofInt 32 (clampTo ty sat e)).zeroExtend 64
    s.issuing = some t → t.flagRoom h.fb = true → ty ∈ [1, 2, 9, 10] → t.names h.ixA o.a n (n == 2) a → t.tagged act a n [ty] →
    let u := (t.setS o.d.toNat bits ty (ls.any (tainted t a n))).raiseFlags (satFlag ty sat e)
    Completes (.red h o) s t (if act = 0 then u else u.count h.fb none)

/-- R178 to R180: RED over a floating type combines the active lanes in the ten levels of the tree (`redTree`), each sum rounded
to nearest; SCAN writes the running value of the active lanes before or after each, rounded in that sequence. -/
def Sys2Proof.Claim.FloatReductionsAndScans : Prop :=
  ∀ (s : State) (t : Team) (h : Hd) (o : Rrr) (d a : Nat),
    let ty := o.ty.toNat
    let n := width ty
    let act := t.active h
    let op := RedOp.ofField (o.e &&& 3).toNat
    let comb := redComb op ty t.ftz
    let ls := lanesOf act t.lanes
    let upTo := fun l => ls.filter fun k => if o.e.getLsbD 2 then k < l else k ≤ l
    let before := fun l => ls.filter (· < l)
    let val := entering t ty a
    let out := fun l => redOut op ty o.sat (running op ty t.ftz val (upTo l))
    s.issuing = some t → t.flagRoom h.fb = true → t.names h.ixA o.a n (n == 2) a → t.tagged act a n [ty] →
    (ty ∈ [3, 11] →
      let nodes := (List.range (32 * (t.lanes / 32))).map fun l => if act.getLsbD l then some (val l, Sticky.none) else none
      let r := (redTree comb 10 nodes).getD (redIdentity op ty, Sticky.none)
      let u := (t.setS o.d.toNat (BitVec.ofNat 64 r.1.toNat) ty (ls.any (tainted t a n))).raiseFlags r.2
      Completes (.red h o) s t (if act = 0 then u else u.count h.fb none)) ∧
    (ty ∈ [1, 2, 3, 9, 10, 11] → t.names h.ixD o.d n (n == 2) d →
      laneResultLong (.scan h o) h s t d (List.replicate n ty) (fun l => regsOfBits ty (out l).1)
        (fun l => (upTo l).any (tainted t a n))
        (fun l => (comb (running op ty t.ftz val (before l)) (val l)).2 ||| (out l).2))

/-- R178 to R180: RED and SCAN. -/
def Obligations.ReductionsAndScans : Prop :=
  Sys2Proof.Claim.IntegerReductions ∧ Sys2Proof.Claim.FloatReductionsAndScans

/-- R181 to R183: VCNT counts the set bits of a predicate over the executing lanes, or all of the team, or those below each lane;
FKEY maps between F32 and KEY32; SHFL reads lane S where S lies in the segment and executes, else the lane itself, under the one
tag of all words read of its one or two registers, and raises FORMAT where they differ. -/
def Obligations.CountsKeysAndShuffles : Prop :=
  ∀ (s : State) (t : Team) (h : Hd) (o : Rrr) (d a b n : Nat),
    let act := t.active h
    let inv := o.e.getLsbD 0
    let counted := (lanesOf (t.pred o.a.toNat) t.lanes).filter fun l => o.e.getLsbD 0 || t.cur.getLsbD l
    let mode := (o.e >>> 1).toNat % 4
    let B := fun l => opnd t (t.vtag b (l / 32)) b l
    let S := fun l : Nat => if mode = 0 then B l else if mode = 1 then (l : Int) - B l else if mode = 2 then (l : Int) + B l
      else if B l < 0 then -1 else ((l ^^^ (B l).toNat : Nat) : Int)
    let reads := fun l => if 0 ≤ S l ∧ S l < t.lanes ∧ (o.e.getLsbD 3 = true ∨ (S l).toNat / 32 = l / 32) ∧
      t.cur.getLsbD (S l).toNat = true then (S l).toNat else l
    let common := fun g : Tag => g ≠ 0 ∧ ∀ k, k < n → ∀ l, t.live act l → t.vtag (a + k) (reads l / 32) = g
    s.issuing = some t → t.names h.ixD o.d n (n == 2) d →
    (n = 1 → wordResult (.vcnt h o) s t act d 1 (fun _ _ => 2)
      (fun _ l => BitVec.ofNat 32 (if o.e.getLsbD 1 then counted.filter (· < l) else counted).length) (fun _ _ => false)) ∧
    (n = 1 → t.names h.ixA o.a 1 false a → t.tagged act a 1 [if inv then 9 else 3] →
      wordResult (.fkey h o) s t act d 1 (fun _ _ => if inv then 3 else 9)
        (fun _ l => if inv then unkey32 (t.lane a l) else key32 (t.lane a l)) (fun _ l => t.vtaint a l)) ∧
    (n = (if o.e.getLsbD 0 then 2 else 1) → t.names h.ixA o.a n (n == 2) a → t.names false o.b 1 false b →
      t.tagged act b 1 [1, 2] →
      (∀ g, common g → wordResult (.shfl h o) s t act d n (fun _ _ => g) (fun k l => t.lane (a + k) (reads l))
        (fun k l => t.vtaint (a + k) (reads l))) ∧
      ((∀ g, ¬common g) → errs (.shfl h o) s t Code.format))

namespace Sys2Proof.Claim

/-! ## Control (R127, R170 to R177) -/

/-- An instruction completes with its clause ended at a code offset: its team has the registers of t', and nothing else has
changed. -/
def jumps (i : Instr) (s : State) (t t' : Team) (pc : Nat) : Prop :=
  ∃ s', exec i s = .next s' ∧ (∃ u, s'.team t.id = some u ∧ t'.sameRegs u ∧ u.pc = pc ∧ u.clause = none) ∧ s.onlyTeam s' t

/-- A branch may be taken to an offset: it lies in the code, and what is fetched there is a clause header (R127). -/
def goodTarget (s : State) (t : Team) (off : Nat) : Prop :=
  ∃ g, s.gangOf t = some g ∧ off < g.src.hdr.codeSize ∧ ∀ p, s.fetchPlace t g off = .ok p → isHeader (s.fetchAt p) = true

/-- A branch to an offset raises ILLEGAL. -/
def badTarget (s : State) (t : Team) (off : Nat) : Prop :=
  ∃ g, s.gangOf t = some g ∧
    (g.src.hdr.codeSize ≤ off ∨ ∃ p, s.fetchPlace t g off = .ok p ∧ isHeader (s.fetchAt p) = false)

/-- A taken branch: to its target, or ILLEGAL where that is no header of the code. -/
def branches (i : Instr) (s : State) (t t' : Team) (pc : Nat) : Prop :=
  (goodTarget s t pc → jumps i s t t' pc) ∧ (badTarget s t pc → errs i s t Code.illegal)

/-- A construct goes on with the team changed, and branches when no lane is left in the execution mask (R173). -/
def goesOn (i : Instr) (s : State) (t t' : Team) (pc : Nat) : Prop :=
  (t'.cur ≠ 0 → Completes i s t t') ∧ (t'.cur = 0 → branches i s t t' pc)

/-- The offset a branch names: relative to the header of the clause that holds it (R127). -/
def offsetOf (t : Team) (o : Li) (off : Nat) : Prop := ∃ c, t.clause = some c ∧ (off : Int) = c.base + o.imm.toInt

/-- A register of a scalar operand read as a signed value, where the instruction takes one. -/
def addend (t : Team) (used : Bool) (r : BitVec 8) : Int :=
  if used then scalarInt (t.sreg r.toNat).tag (t.sreg r.toNat).bits else 0

end Sys2Proof.Claim

/-! ## Control (spec/08_team.md) -/

/-- R170 and R171: BRA is always taken; BRAU where all, or any, lane of a non-empty execution mask has the predicate, or lacks
it under `.not`; CALL pushes the address of the next clause and RET pops it, or raises ILLEGAL for any other top entry. -/
def Sys2Proof.Claim.BranchesAndCalls : Prop :=
  ∀ (s : State) (t : Team) (h : Hd) (o : Li) (r : Rrr) (off : Nat),
    let has := fun l => (t.pred o.d.toNat).getLsbD l != o.e.getLsbD 1
    let lane := fun l => t.cur.getLsbD l = true
    let taken := (∃ l, lane l) ∧ (if o.e.getLsbD 0 then ∃ l, lane l ∧ has l = true else ∀ l, lane l → has l = true)
    s.issuing = some t → offsetOf t o off →
    branches (.bra h o) s t t off ∧
    (taken → branches (.brau h o) s t t off) ∧ (¬taken → Completes (.brau h o) s t t) ∧
    (t.stack.length < 48 →
      branches (.call h o) s t { t with stack := { kind := .call, mask := 0, ret := t.pc + 8 } :: t.stack } off) ∧
    (48 ≤ t.stack.length → errs (.call h o) s t Code.illegal) ∧
    (∀ e rest, t.stack = e :: rest → e.kind = .call → branches (.ret h r) s t { t with stack := rest } e.ret) ∧
    ((∀ e, t.stack.head? = some e → e.kind ≠ .call) → errs (.ret h r) s t Code.illegal)

/-- R173: IF pushes the failing lanes, ELSE exchanges the mask with its entry, ENDIF joins them; ILLEGAL for another top entry
and for a push past 48. -/
def Sys2Proof.Claim.Conditionals : Prop :=
  ∀ (s : State) (t : Team) (h : Hd) (o : Li) (y : Sys) (off : Nat),
    s.issuing = some t → offsetOf t o off →
    (t.stack.length < 48 → goesOn (.ifc h o) s t
      { t with cur := t.cur &&& t.pass h, stack := { kind := .ifc, mask := t.cur &&& ~~~t.pass h, ret := 0 } :: t.stack } off) ∧
    (48 ≤ t.stack.length → errs (.ifc h o) s t Code.illegal) ∧
    (∀ e rest, t.stack = e :: rest → e.kind = .ifc →
      goesOn (.elsec h o) s t { t with cur := e.mask, stack := { e with kind := .elsec, mask := t.cur } :: rest } off) ∧
    ((∀ e, t.stack.head? = some e → e.kind ≠ .ifc) → errs (.elsec h o) s t Code.illegal) ∧
    (∀ e rest, t.stack = e :: rest → e.kind = .ifc ∨ e.kind = .elsec →
      Completes (.endif h y) s t { t with cur := t.cur ||| e.mask, stack := rest }) ∧
    ((∀ e, t.stack.head? = some e → e.kind ≠ .ifc ∧ e.kind ≠ .elsec) → errs (.endif h y) s t Code.illegal)

/-- R174: LOOP pushes an empty BREAK entry and an empty CONT entry; BRK and CONT move the passing lanes to the innermost entry
of their kind, wherever it stands, and do nothing when no lane passes; ENDL revives the continuing lanes and goes back while a
lane is left, and else revives the lanes that broke. -/
def Sys2Proof.Claim.Loops : Prop :=
  ∀ (s : State) (t : Team) (h : Hd) (o : Li) (off : Nat),
    let m := t.cur &&& t.pass h
    s.issuing = some t → offsetOf t o off →
    (t.stack.length < 47 → Completes (.loop h o) s t
      { t with stack := { kind := .cont, mask := 0, ret := 0 } :: { kind := .brk, mask := 0, ret := 0 } :: t.stack }) ∧
    (47 ≤ t.stack.length → errs (.loop h o) s t Code.illegal) ∧
    (∀ i k, (i, k) ∈ [(Instr.brk h o, MaskKind.brk), (.cont h o, .cont)] →
      (∀ outer e inner, t.stack = inner ++ e :: outer → e.kind = k → (∀ x ∈ inner, x.kind ≠ k) →
        (m = 0 → Completes i s t t) ∧
        (m ≠ 0 → goesOn i s t
          { t with cur := t.cur &&& ~~~m, stack := inner ++ { e with mask := e.mask ||| m } :: outer } off)) ∧
      ((∀ x ∈ t.stack, x.kind ≠ k) → errs i s t Code.illegal)) ∧
    (∀ c b rest, t.stack = c :: b :: rest → c.kind = .cont → b.kind = .brk →
      (t.cur ||| c.mask ≠ 0 → branches (.endl h o) s t
        { t with cur := t.cur ||| c.mask, stack := { c with mask := 0 } :: b :: rest } off) ∧
      (t.cur ||| c.mask = 0 → Completes (.endl h o) s t { t with cur := b.mask, stack := rest })) ∧
    ((¬∃ c b rest, t.stack = c :: b :: rest ∧ c.kind = .cont ∧ b.kind = .brk) → errs (.endl h o) s t Code.illegal)

/-- R170 to R174: branches, calls, conditionals and loops. -/
def Obligations.ControlFlow : Prop :=
  Sys2Proof.Claim.BranchesAndCalls ∧ Sys2Proof.Claim.Conditionals ∧ Sys2Proof.Claim.Loops

/-- R176 and R177: EXIT exits the passing lanes and ends the team with its last one, or raises RSECEXIT inside a reader section;
NOP has no effect; YIELD and a SLEEP of 0 place the team last; SLEEP lasts d cycles, clipped to 32 bits, and stands until they
have passed (`SLEEP_END` in WaitsEnd). -/
def Sys2Proof.Claim.TeamLife : Prop :=
  ∀ (s : State) (t : Team) (h : Hd) (y : Sys) (o : Ri),
    let m := t.cur &&& t.pass h
    let u := { t with cur := t.cur &&& ~~~m, exited := t.exited ||| m }
    let ends := ∀ l, l < t.lanes → l < 1024 → u.exited.getLsbD l = true
    let reading := ∃ k r, (k, r) ∈ t.readers ∧ r.depth ≠ 0
    let d := (max 0 (min (o.imm.toInt + addend t (o.e.getLsbD 0) o.a) (2 ^ 32 - 1))).toNat
    let last := fun i => ∃ s', exec i s = .next s' ∧ (∃ v, s'.team t.id = some v ∧ t.sameRegs v ∧ v.pc = t.pc + 8 ∧
      v.lastIssue = 2 * s.now + 1) ∧ s.onlyTeam s' t
    s.issuing = some t →
    (¬ends → Completes (.exit h y) s t u) ∧
    (ends → reading → errs (.exit h y) s t Code.rsecexit) ∧
    (ends → ¬reading → Completes (.exit h y) s t u ∧
      ∃ s' v, exec (.exit h y) s = .next s' ∧ s'.team t.id = some v ∧ v.st = .ended) ∧
    Completes (.nop h y) s t t ∧ last (.yield h y) ∧
    (o.e.getLsbD 0 = true → (t.sreg o.a.toNat).tag ∉ [10, 1, 2] → errs (.sleep h o) s t Code.format) ∧
    ((o.e.getLsbD 0 = true → (t.sreg o.a.toNat).tag ∈ [10, 1, 2]) → t.skidLeft = 0 →
      (d = 0 → last (.sleep h o)) ∧
      (d ≠ 0 → ∃ s', exec (.sleep h o) s = .next s' ∧ (∃ v, s'.team t.id = some v ∧ t.sameRegs v ∧ v.pc = t.pc ∧
        v.st = .sleeping (s.now + d)) ∧ s.onlyTeam s' t))

/-- R186 to R189: SETX clips to 16 bits and raises SAT where it clips; REGION and RSHRINK change their team's region, or drop its
upper registers, and near slots; RGROW gives the registers at once where no older team waits and its core has one free block
for them, which is the team's own with the space above it where that is free, and another after its dirty near slots are written
back, else leaves the team Growing; a count below 0 or
above 256 raises REGBOUND. -/
def Sys2Proof.Claim.RegisterPlacement : Prop :=
  ∀ (s : State) (t : Team) (h : Hd) (r : Rrr) (o : Ri),
    let v := (if o.e.getLsbD 1 then t.x.toInt else 0) + o.imm.toInt + addend t (o.e.getLsbD 0) o.a
    let clipped := max (-32768) (min 32767 v)
    let up := (t.vregs + 7) / 8 * 8
    let more := up + 8 * o.imm.toNat
    let less := up - 8 * o.imm.toNat
    let nearOnly := fun (s' : State) => ∀ c, { s'.core c with near := [], hq := [] } = { s.core c with near := [], hq := [] }
    let changes := fun (i : Instr) (u : Team) => ∃ s', exec i s = .next s' ∧ nearOnly s' ∧ s.sameMemory s' ∧ s.sameRest s' ∧
      (∃ v, s'.team t.id = some v ∧ u.sameRegs v ∧ v.pc = t.pc + 8) ∧ ∀ k, k ≠ t.id → s'.team k = s.team k
    s.issuing = some t →
    ((o.e.getLsbD 0 = true → (t.sreg o.a.toNat).tag ∈ [10, 1, 2]) →
      Completes (.setx h o) s t ({ t with x := BitVec.ofInt 16 clipped }.raiseFlags
        (if clipped = v then Sticky.none else Sticky.sat))) ∧
    changes (.region h r) { t with region := Wf.regionRegs r } ∧
    (8 * o.imm.toNat ≤ up → ∃ u, changes (.rshrink h o) u ∧ u = { t with vregs := less, file := u.file } ∧
      ∀ k, k < less → ∀ l, l < 1024 → u.lane k l = t.lane k l ∧ u.vtag k (l / 32) = t.vtag k (l / 32) ∧
        u.vtaint k l = t.vtaint k l) ∧
    (up < 8 * o.imm.toNat → errs (.rshrink h o) s t Code.regbound) ∧
    (256 < more → errs (.rgrow h o) s t Code.regbound) ∧
    (∀ g, s.gangOf t = some g → more ≤ 256 →
      let space := allocSpace (s.waysOf t.cluster)
      let free := freeAt (s.extents t.core (some t.id)) space (teamBlock g.src.hdr more)
      s.grownFootprint t g.src.hdr more ≤ (if g.isHandler then 32768 else space) →
      (∀ b, s.growBase t o.imm.toNat = some b →
        (s.growingBefore t s.now = false →
          (b = t.base → Completes (.rgrow h o) s t { t with vregs := more }) ∧
          (b ≠ t.base → changes (.rgrow h o) { t with vregs := more, base := b } ∧
            ∃ s', exec (.rgrow h o) s = .next s' ∧
              (s'.core t.core).near = (s.core t.core).near.map fun n => if n.team = t.id then { n with dirty := false } else n)) ∧
        (g.isHandler = true → b = t.base) ∧
        (g.isHandler = false → free b = true ∧ (free t.base = true → b = t.base))) ∧
      (g.isHandler = false → s.growBase t o.imm.toNat = none → free t.base = false) ∧
      (s.growBase t o.imm.toNat = none ∨ s.growingBefore t s.now = true →
        exec (.rgrow h o) s = .next ((s.setTeam { t with st := .growing o.imm.toNat s.now }).holdTeam t)))

/-- R190: SREAD writes the value of its selector under the tag of the table; `.clr` clears the sticky flags it reads. -/
def Sys2Proof.Claim.SystemValues : Prop :=
  ∀ (s : State) (t : Team) (h : Hd) (o : Sys) (g : Gang) (v : Word) (tag : Tag),
    let n := fun (x : Nat) => BitVec.ofNat 64 x
    let u := if o.e.getLsbD 0 then { t with sticky := 0 } else t
    s.issuing = some t → s.gangOf t = some g →
    (o.imm.toNat, v, tag) ∈ [(0, n 0x0100, Tag.n32), (1, n g.src.image, Tag.i64), (2, n g.src.args, Tag.i64),
      (3, n g.src.record, Tag.i64), (4, n g.src.ordinal, Tag.i64), (5, n t.group, Tag.n32), (6, n t.index, Tag.n32),
      (7, n t.lanes, Tag.n32), (8, n t.vregs, Tag.n32), (9, (t.x.signExtend 32).zeroExtend 64, Tag.i32),
      (10, t.sticky.zeroExtend 64, Tag.n32), (11, n t.stack.length, Tag.n32), (12, n (t.pipe / 4), Tag.n32),
      (13, n g.src.part, Tag.n32), (14, n g.src.ctx, Tag.n32), (15, n s.now, Tag.i64), (16, n g.src.lflags, Tag.n32)] →
    Completes (.sread h o) s t (u.setS o.d.toNat v tag)

/-- R176, R177 and R186 to R190: the ends of clauses and teams, sleep, the placement of registers, and system values. -/
def Obligations.TeamsAndSystemValues : Prop :=
  Sys2Proof.Claim.TeamLife ∧ Sys2Proof.Claim.RegisterPlacement ∧ Sys2Proof.Claim.SystemValues

namespace Sys2Proof.Claim

/-! ## Memory (spec/09_page.md) -/

/-- Bytes of an element of a memory type, and the tag a load of it writes (R125). -/
def accessBytes (ty : Nat) : Nat := if ty = 10 ∨ ty = 11 then 8 else if ty = 13 then 1 else if ty = 14 then 2 else 4
def loadTag (ty : Nat) : Tag := if ty = 13 ∨ ty = 14 then 2 else ty

/-- An address operand (R207): N32 is zero-extended. -/
def baseOf (r : SReg) : Word := if r.tag = 2 then (r.bits.truncate 32).zeroExtend 64 else r.bits

/-- The address of lane l: base + (offset + imm6) * size in 64 bits, the offset signed whatever its tag (R207). -/
def laneVa (t : Team) (o : Mem) (b l : Nat) : Nat :=
  let off : Int := if o.noOff then 0 else (t.lane b l).toInt
  (baseOf (t.sreg o.a.toNat) + BitVec.ofInt 64 ((off + o.imm.toInt) * accessBytes o.ty.toNat)).toNat

/-- The address of LDS, STS and PROBE. -/
def scalarVa (t : Team) (o : Mem) : Nat :=
  (baseOf (t.sreg o.a.toNat) + BitVec.ofInt 64 (o.imm.toInt * accessBytes o.ty.toNat)).toNat

/-- The address operands carry their tags and lie in bounds (R207). -/
def addressed (t : Team) (act : Mask) (o : Mem) (b : Nat) : Prop :=
  (t.sreg o.a.toNat).tag ∈ [10, 2, 12] ∧ (o.noOff = false → t.names false o.b 1 false b ∧ t.tagged act b 1 [1, 2])

/-- The address registers of lane l are tainted. -/
def vaTaint (t : Team) (o : Mem) (b l : Nat) : Bool := (t.sreg o.a.toNat).taint || (!o.noOff && t.vtaint b l)

/-- Lane l's access of n bytes lies at a place: every check of R203 passed. -/
def placed (s : State) (t : Team) (a : Access) (n : Nat) (l : Option Nat) (va : Nat) (p : Place) : Prop :=
  s.resolve (t.who (s.ctxOf t) l) a n n va = .ok p

/-- The place is window memory. -/
def isWindow (p : Place) : Bool :=
  match p with
  | .dev _ _ => false
  | _ => true

/-- The n bytes of a window place, the lane-private window as its team holds it (R63). -/
def windowBytes (s : State) (t : Team) (n : Nat) (p : Place) : List Byte :=
  match p with
  | .own l o => (List.range n).map fun i => t.ownRead l (o + i)
  | .win l => s.locRead none l n
  | .dev _ _ => []

/-- The state after a long-latency instruction counts on its flag. -/
def counted (t : Team) (acts : Bool) (fb : Bool) (s : State) : State :=
  if acts then s.modTeam t.id (Team.count fb none) else s

/-- The state after an instruction that may have sent messages to other packages counts on its flag: under way until they are
answered, if it has (`countFar`, which LinksAndPod states). -/
def farCounted (s : State) (t : Team) (acts fb : Bool) (vs ss : List Nat) (s' : State) (cs : List Nat := []) : State :=
  if acts then s.countFar s' t fb vs ss cs else s'

/-- The registers of an operand of n registers. -/
def regsFrom (d n : Nat) : List Nat := (List.range n).map (d + ·)

/-- A read in Warn mode that meets invalid words leaves one warning of the lowest (R82, R454). -/
def warned (s : State) (t : Team) (bad : List Nat) : State :=
  match bad.min? with
  | none => s
  | some va => s.errItem (s.ctxOf t) 1 4 (t.pipe / 4)
      (leBytes 8 va ++ leBytes 8 (t.slot % 32 + t.group * 2 ^ 8) ++ leBytes 8 t.gang ++ leBytes 8 t.pc)

/-- The lanes' checks stop an instruction (R203): the lowest lane that errs gives its code, and a package that no link reaches
ACCESS (R400); where none errs, the lowest lane that faults parks the team. -/
def lanesStop (i : Instr) (s : State) (t : Team) (a : Access) (ls : List Nat) (va : Nat → Nat)
    (check : Nat → Except LErr Place) : Prop :=
  let faults := (ls.filter fun k => isFault (check k)).length
  let fault := fun l (x : Nat × Nat) => { va := va l, kind := x.1, access := a.code, level := x.2, lanes := faults : TFault }
  ∀ l ∈ ls,
    ((∀ j ∈ ls, j < l → isErr (check j) = false) →
      (∀ c k, check l = .error (.err c k) → exec i s = .next ((s.takeTrap t (.err c (k.map (fault l)))).leavePipe t.id)) ∧
      (check l = .error .unreachable → errs i s t Code.access)) ∧
    (∀ k v, check l = .error (.park k v) → (∀ j ∈ ls, isErr (check j) = false) → (∀ j ∈ ls, j < l → isFault (check j) = false) →
      exec i s = .next ((s.takeTrap t (.park (fault l (k, v)))).leavePipe t.id))

/-- The value in lane l of values listed in the order of the active lanes. -/
def atLane (ls vs : List Nat) (l : Nat) : Nat := (((ls.zip vs).find? (·.1 == l)).map (·.2)).getD 0

/-- A place of window memory exists: its gang does, and its group. -/
def standing (s : State) (x : Loc) : Prop :=
  match x with
  | .dev _ => False
  | .seg _ => True
  | .scratch g i _ => ∃ y, s.gang g = some y ∧ i < y.groups.length
  | .cluster g o => ∃ y, s.gang g = some y ∧ (y.shareAt o).1 < y.groups.length

/-- Two bytes lie in one word of a window. -/
def sameWord (x y : Loc) : Prop :=
  match x, y with
  | .seg a, .seg b => a / 4 = b / 4
  | .scratch g i a, .scratch h j b => g = h ∧ i = j ∧ a / 4 = b / 4
  | .cluster g a, .cluster h b => g = h ∧ a / 4 = b / 4
  | .dev a, .dev b => a / 4 = b / 4
  | _, _ => False

/-- The window memory after stores of n bytes each, in the order of a list of lanes: a byte stored holds the last store's value
and its word is valid; the rest of an invalid word becomes zero (R81); every other byte and valid bit is as before. -/
def storedWindow (s s' : State) (ls : List Nat) (n : Nat) (place : Nat → Loc) (data : Nat → List Byte) : Prop :=
  let hits := fun l x => ∃ i, i < n ∧ (place l).add i = x
  ∀ x,
    (∀ l i, l ∈ ls → i < n → (place l).add i = x → (∀ k ∈ ls, l < k → ¬hits k x) →
      s'.locByte none x = (data l).getD i 0 ∧ s'.locValid x = true) ∧
    ((∀ l ∈ ls, ¬hits l x) → (∃ l i, l ∈ ls ∧ i < n ∧ sameWord ((place l).add i) x) →
      s'.locByte none x = (if s.locValid x then s.locByte none x else 0) ∧ s'.locValid x = true) ∧
    ((∀ l i, l ∈ ls → i < n → ¬sameWord ((place l).add i) x) →
      s'.locByte none x = s.locByte none x ∧ s'.locValid x = s.locValid x)

/-- An instruction changes window memory, its own team's count and nothing else. -/
def windowOnly (i : Instr) (s : State) (t t' : Team) (s' : State) : Prop :=
  exec i s = .next s' ∧ (∃ u, s'.team t.id = some u ∧ t'.sameRegs u ∧ u.pc = t.pc + 8) ∧
  (∀ k, k ≠ t.id → s'.team k = s.team k) ∧ (∀ g, g ≠ t.gang → s'.gang g = s.gang g) ∧ s'.mem.dev = s.mem.dev ∧ s'.mem.host = s.mem.host ∧ s'.mem.l1 = s.mem.l1 ∧
  s'.mem.lines = s.mem.lines ∧ s'.mem.tlb = s.mem.tlb ∧ s.sameCores s' ∧ s.sameRest s'

/-! ## Bytes as a cluster sees them -/

/-- The cluster's L1 holds each line once, of this package's memory, with a grain of R194, and the home holds the line under no
other key slot. -/
def keyed (s : State) (cl : Nat) : Prop :=
  ((s.l1Lines cl).map (·.line)).Nodup ∧ ∀ l ∈ s.l1Lines cl, regionOf (l.line * 512) = .local ∧ l.grain ∈ [32, 128, 512] ∧
    (s.lineSlot (l.line * 512) = none ∨ s.lineSlot (l.line * 512) = some l.slot)

/-- A byte under a slot: the cluster's own dirty byte, else the home's. -/
def viewed (s : State) (cl slot a : Nat) : Byte := (s.mergedRead cl slot a 1).headD 0

end Sys2Proof.Claim

/-! ## Memory (spec/09_page.md, spec/04_memory_spaces.md) -/

/-- R207 and R208 on window memory: LD and LDC write the bytes at each active lane's address, LDS those at one, zero-extended and
under the type's tag; LDC taints what it loads. Nothing else changes, memory least of all. A read of the lane-private window
writes dirty near slots back first (R64; LoadsOfAnyMemory states it): here the team has none, or reads another window. -/
def Sys2Proof.Claim.WindowLoads : Prop :=
  ∀ (s : State) (t : Team) (h : Hd) (o : Mem) (d b : Nat) (place : Nat → Place) (q : Place),
    let n := accessBytes o.ty.toNat
    let tag := loadTag o.ty.toNat
    let act := t.active h
    let va := scalarVa t o
    let r := t.sreg o.a.toNat
    s.issuing = some t → t.flagRoom h.fb = true →
    (t.names h.ixD o.d (width tag) (width tag == 2) d → addressed t act o b → o.prom = false →
      (o.ord = 1 → o.scope.toNat < 4) →
      (∀ l, t.live act l → placed s t .rd n (some l) (laneVa t o b l) (place l) ∧ isWindow (place l) = true ∧
        s.invalidWords (laneVa t o b l) n (place l) = []) →
      ((∀ l, t.live act l → ∃ x, place l = .win x) ∨ ∀ x ∈ (s.core t.core).near, x.team = t.id → x.dirty = false) →
      ∀ i dep, (i, dep) ∈ [(Instr.ld h o, false), (.ldc h o, true)] →
        laneResultLong i h s t d (List.replicate (width tag) tag) (fun l => regsOfBits tag (leNat (windowBytes s t n (place l))))
          (fun l => dep || vaTaint t o b l) (fun _ => Sticky.none)) ∧
    (r.tag ∈ [10, 2, 12] → placed s t .rd n none va q → isWindow q = true → s.invalidWords va n q = [] →
      Completes (.lds h o) s t
        ((t.setS o.d.toNat (BitVec.ofNat 64 (leNat (windowBytes s t n q))) tag r.taint).count h.fb none))

/-- R208, R82, R92, R97, R98 and R210 on any memory: where every address passes its checks, and none reads an invalid word in
Trap mode, LD, LDC and LDS leave the warning of an invalid word, use the translations, read in ascending lane order as their
order, scope, taint and `.nol1` say, acquire, and write their registers. -/
def Obligations.LoadsOfAnyMemory : Prop :=
  ∀ (s : State) (t : Team) (h : Hd) (o : Mem) (d b : Nat) (place : Nat → Place) (q : Place),
    let n := accessBytes o.ty.toNat
    let tag := loadTag o.ty.toNat
    let act := t.active h
    let ls := lanesOf act t.lanes
    let ps := ls.map place
    let acquires := o.ord = 1 ∧ act ≠ 0
    let r := t.sreg o.a.toNat
    s.issuing = some t → t.flagRoom h.fb = true →
    (t.names h.ixD o.d (width tag) (width tag == 2) d → addressed t act o b →
      (o.prom = true → ∀ l, t.live act l → inWindow (laneVa t o b l) = false) →
      (∀ l, t.live act l → placed s t .rd n (some l) (laneVa t o b l) (place l)) →
      let bad := ls.flatMap fun l => s.invalidWords (laneVa t o b l) n (place l)
      (t.unwtrap = false ∨ bad = []) →
      ∀ i dep, (i, dep) ∈ [(Instr.ld h o, false), (.ldc h o, true)] →
        let s0 := warned s t bad
        let s1 := s0.usePlaces t .rd ps
        let s2 := if o.prom then s1.promoteAll t o.scope.toNat ps else s1
        let how := fun l => { slice := o.nol1 || (decide (4 ≤ o.scope.toNat) && (o.ord == 1 || dep)), taint := vaTaint t o b l,
                              ret := o.ret.toNat : Manner }
        let x := s2.readPlaces t n (ls.map fun l => (how l, place l))
        let s3 := if acquires then x.2.acquire t o.scope.toNat else x.2
        exec i s = .next ((farCounted s t (act != 0) h.fb (regsFrom d (width tag)) [] (s3.modTeam t.id fun u =>
          u.writeRegs act d (List.replicate (width tag) tag) (fun l => regsOfBits tag (atLane ls x.1 l))
            (fun l => dep || vaTaint t o b l))).retire t)) ∧
    (r.tag ∈ [10, 2, 12] → placed s t .rd n none (scalarVa t o) q →
      let bad := s.invalidWords (scalarVa t o) n q
      (t.unwtrap = false ∨ bad = []) →
      let x := ((warned s t bad).usePlaces t .rd [q]).readPlaces t n [({ slice := o.nol1, taint := r.taint, ret := o.ret.toNat }, q)]
      exec (.lds h o) s = .next ((farCounted s t true h.fb [] [o.d.toNat] (x.2.modTeam t.id fun u =>
        u.setS o.d.toNat (BitVec.ofNat 64 (x.1.headD 0)) tag r.taint)).retire t))

/-- R209 and R81 on group, cluster and chip scratchpad: ST stores each active lane's bytes, the highest lane last, and STS those
of a scalar register; every byte but those stored, and what becomes zero of an invalid word, reads as before. -/
def Sys2Proof.Claim.WindowStores : Prop :=
  ∀ (s : State) (t : Team) (h : Hd) (o : Mem) (d b : Nat) (place : Nat → Loc) (q : Loc),
    let n := accessBytes o.ty.toNat
    let k := if n = 8 then 2 else 1
    let act := t.active h
    let ls := lanesOf act t.lanes
    let set := if 1 ≤ o.ty.toNat ∧ o.ty.toNat ≤ 11 then [o.ty.toNat, 12] else Tag.any
    let r := t.sreg o.d.toNat
    let data := fun l => leBytes n (if n = 8 then (t.lane64 d l).toNat else (t.lane d l).toNat)
    s.issuing = some t → t.flagRoom h.fb = true →
    (t.names h.ixD o.d k (n == 8) d → t.tagged act d k set → addressed t act o b → (o.ord = 2 → o.scope.toNat < 4) →
      (∀ l, t.live act l → placed s t .wr n (some l) (laneVa t o b l) (.win (place l)) ∧
        ∀ i, i < n → standing s ((place l).add i)) →
      ∃ s', windowOnly (.st h o) s t (if act = 0 then t else t.count h.fb none) s' ∧ storedWindow s s' ls n place data) ∧
    ((t.sreg o.a.toNat).tag ∈ [10, 2, 12] → r.tag ∈ set → placed s t .wr n none (scalarVa t o) (.win q) →
      (∀ i, i < n → standing s (q.add i)) →
      ∃ s', windowOnly (.sts h o) s t (t.count h.fb none) s' ∧
        storedWindow s s' [0] n (fun _ => q) (fun _ => leBytes n r.bits.toNat))

/-- R207 and R209 in a window: loads and stores of a team's scratchpad. -/
def Obligations.WindowMemory : Prop :=
  Sys2Proof.Claim.WindowLoads ∧ Sys2Proof.Claim.WindowStores

/-- R209, R91, R98 and R210 on any memory: where every address passes its checks, ST and STS use the translations, release, and
write in ascending lane order, into the L1, through it or past it; a narrow release leaves its notices. -/
def Obligations.StoresToAnyMemory : Prop :=
  ∀ (s : State) (t : Team) (h : Hd) (o : Mem) (d b : Nat) (place : Nat → Place) (q : Place),
    let n := accessBytes o.ty.toNat
    let k := if n = 8 then 2 else 1
    let act := t.active h
    let ls := lanesOf act t.lanes
    let ps := ls.map place
    let set := if 1 ≤ o.ty.toNat ∧ o.ty.toNat ≤ 11 then [o.ty.toNat, 12] else Tag.any
    let wide := 4 ≤ o.scope.toNat
    let releases := o.ord = 2 ∧ act ≠ 0
    let how := if o.nol1 then Put.direct else if releases ∧ wide then .through else .plain
    let data := fun l => leBytes n (if n = 8 then (t.lane64 d l).toNat else (t.lane d l).toNat)
    s.issuing = some t → t.flagRoom h.fb = true →
    (t.names h.ixD o.d k (n == 8) d → t.tagged act d k set → addressed t act o b →
      (∀ l, t.live act l → placed s t .wr n (some l) (laneVa t o b l) (place l)) →
      let s1 := s.usePlaces t .wr ps
      let s2 := if releases then s1.release t o.scope.toNat else s1
      let s3 := s2.writePlaces t how o.ret.toNat (ls.map fun l => (place l, data l, tainted t d k l))
      let s4 := if releases ∧ ¬wide then s3.noticeAll t ps else s3
      exec (.st h o) s = .next ((farCounted s t (act != 0) h.fb [] [] s4).retire t)) ∧
    ((t.sreg o.a.toNat).tag ∈ [10, 2, 12] → (t.sreg o.d.toNat).tag ∈ set → placed s t .wr n none (scalarVa t o) q →
      exec (.sts h o) s = .next ((farCounted s t true h.fb [] [] ((s.usePlaces t .wr [q]).writePlaces t
        (if o.nol1 then .direct else .plain) o.ret.toNat [(q, leBytes n (t.sreg o.d.toNat).bits.toNat, false)])).retire t))

/-- R76, R80 and R87: a cluster sees its own stores: after bytes are stored through its L1, their addresses read them, and every
other address reads as before, whatever lines leave the cache; a load changes no byte the cluster sees, and one served by the
slice, or that refills its grains, returns those bytes. -/
def Obligations.CachesKeepBytes : Prop :=
  ∀ (s : State) (cl pa a k : Nat) (g : Page) (bs : List Byte) (n : Nat) (how : Serve),
    keyed s cl → regionOf pa = .local → g.grain ∈ [32, 128, 512] → pa % 512 + bs.length ≤ 512 →
    (s.lineSlot pa = none ∨ s.lineSlot pa = some g.slot) → (∀ l ∈ s.l1Lines cl, l.line = pa / 512 → l.slot = g.slot) →
    s.lineSlot a = some k → regionOf a = .local →
    let s' := s.l1Store cl g pa bs
    let x := s.l1Load cl g how pa n
    ((a < pa ∨ pa + bs.length ≤ a) → viewed s' cl k a = viewed s cl k a) ∧
    (∀ i, i < bs.length → viewed s' cl g.slot (pa + i) = bs.getD i 0) ∧
    keyed s' cl ∧ viewed x.2 cl k a = viewed s cl k a ∧
    (how ≠ .cached → pa % 512 + n ≤ 512 → s.lineSlot pa = some g.slot →
      x.1 = (List.range n).map fun i => viewed s cl g.slot (pa + i))

/-! ## Fences, prefetches, flushes and probes (R96, R212 to R215) -/

/-- R91, R92 and R96: a release leaves no dirty byte in the cluster's L1, and each byte of this package's memory that was dirty
stands at its home; an acquire leaves no valid sector. -/
def Sys2Proof.Claim.FenceEffects : Prop :=
  ∀ (s : State) (cl : Nat),
    (∀ l ∈ (s.writeBackAll cl).l1Lines cl, l.dirty = 0) ∧
    (keyed s cl → ∀ l ∈ s.l1Lines cl, ∀ i, i < 512 → l.dirty.getLsbD i = true →
      (s.writeBackAll cl).homeByte (some l.slot) (l.line * 512 + i) = l.byte i) ∧
    (∀ l ∈ (s.invalidateAll cl).l1Lines cl, l.valid = 0 ∧ ∃ k ∈ s.l1Lines cl, l = { k with valid := 0 } ∧ k.dirty ≠ 0)

/-- R213 and R79: one lane's prefetch. An address that would err or fault, or in a window, does nothing. In this package's memory
the whole grain that holds the address is valid in the cluster's L1, under the page's grain where the line was not there, and
the slice line has the hint of the instruction, or the page's; `.nol1` leaves the L1 alone; a bypass hint is written into no
line. -/
def Sys2Proof.Claim.PrefetchEffects : Prop :=
  ∀ (s : State) (t : Team) (o : Mem) (l va : Nat),
    let n := accessBytes o.ty.toNat
    let check := s.resolve (t.who (s.ctxOf t) (some l)) .rd n n va
    let s' := s.prefetch t o (some l, va)
    let cl := t.pipe / 32
    ((∀ x pa, check ≠ .ok (.dev x pa)) → s' = s) ∧
    (∀ x pa, check = .ok (.dev x pa) → regionOf pa = .local →
      let hint := if o.ret = 0 then x.leaf.ret else o.ret.toNat - 1
      let home := if x.leaf.place then x.leaf.hdie * 36 + pa / 512 % 36 else pa / 512 % 288
      (hint ≠ 3 → s'.mem.slice.find? (fun y => y.line == pa / 512) = some { line := pa / 512, slice := home, hint := hint }) ∧
      (o.nol1 = true → s'.mem.l1 = s.mem.l1 ∧ (hint = 3 → s'.mem.slice = s.mem.slice)) ∧
      (o.nol1 = false → s.freeWays cl ≠ 0 → ∃ y, s'.l1Look cl (pa / 512) = some y ∧ y.slot = x.leaf.key ∧
        ((∀ z, s.l1Look cl (pa / 512) = some z → z.slot ≠ x.leaf.key) → y.grain = grainBytes x.leaf.grain) ∧
        (y.grain ∈ [32, 128, 512] → ∀ k, k < 16 → k * 32 / y.grain = pa % 512 / y.grain → y.valid.getLsbD k = true)))

/-- R214: one line's flush. The line leaves the cluster's L1, its dirty bytes stand at their home, and no other line of the L1
changes; at system scope it leaves its slice too. A pod page is flushed at its home from pod scope on; a system page and
window memory are left alone. -/
def Sys2Proof.Claim.FlushEffects : Prop :=
  ∀ (s : State) (t : Team) (scope : Nat),
    (∀ x pa,
      let s' := s.flushLine t scope (.dev x pa)
      let cl := t.pipe / 32
      (regionOf pa = .local → s'.l1Look cl (pa / 512) = none ∧
        (∀ k, k ≠ pa / 512 → s'.l1Look cl k = s.l1Look cl k) ∧
        (∀ y i, s.l1Look cl (pa / 512) = some y → i < 512 → y.dirty.getLsbD i = true →
          s'.homeByte (some y.slot) (pa / 512 * 512 + i) = y.byte i) ∧
        (scope = 7 → ∀ y ∈ s'.mem.slice, y.line ≠ pa / 512)) ∧
      (∀ p, regionOf pa = .pod p → s'.l1Look cl (pa / 512) = none ∧
        (6 ≤ scope → s'.link.out.getLast? = some { die := s.srcDie, pkg := p, chan := .request, team := none,
                                                   body := .flush pa scope })) ∧
      (regionOf pa = .system → s' = s)) ∧
    (∀ x, s.flushLine t scope (.win x) = s) ∧ ∀ l k, s.flushLine t scope (.own l k) = s

/-- R215: the word that PROBE writes: for an address that no leaf translates the fault kind alone, for one in the window region
bit 28 alone, else the leaf's fields, whether the context holds its key slot, and the kind that a read would meet. -/
def Sys2Proof.Claim.ProbeWord : Prop :=
  ∀ (s : State) (w : Who) (va : Nat),
    let r := s.probe w va
    let c := s.ctx w.ctx
    let flag := fun b : Bool => if b then 1 else 0
    (2 ^ 57 ≤ va → r = 8 * 2 ^ 24) ∧
    (va < 2 ^ 57 → 0x01FFFFFE00000000 ≤ va → r = 2 ^ 28) ∧
    (va < 0x01FFFFFE00000000 →
      (∀ k v, s.findXlat w.agent w.ctx va w.afresh = .error (k, v) → r = k * 2 ^ 24) ∧
      (∀ x, s.findXlat w.agent w.ctx va w.afresh = .ok x →
        let l := x.leaf
        let held := l.key == c.key || c.keyshr.testBit l.key
        l.size < 8 → l.grain < 4 → l.ret < 4 → l.hdie < 8 → l.key < 128 →
        r < 2 ^ 28 ∧ ∀ hi lo v, (hi, lo, v) ∈ [(0, 0, 1), (1, 1, flag l.rd), (2, 2, flag l.wr), (3, 3, flag l.ex), (6, 4, l.size),
          (7, 7, flag l.pin), (9, 8, l.grain), (11, 10, l.ret), (12, 12, flag l.place), (15, 13, l.hdie), (22, 16, l.key),
          (23, 23, flag held),
          (27, 24, if !l.rd then 3 else if !reachable (s.xlatPa x va) then 7 else if !held then 6 else 0)] →
          bitsOf r hi lo = v))

/-- R96 and R212 to R215: FENCE writes back and invalidates the cluster's L1 at die scope and wider, and changes nothing at
narrower scopes; PREF and CFLUSH act lane by lane on what they name; PROBE writes what a read of its address would meet, and
changes nothing else. All complete, whatever their addresses hold, but a CFLUSH whose address errs or faults. -/
def Obligations.FencesPrefetchesFlushesProbes : Prop :=
  (Sys2Proof.Claim.FenceEffects ∧ Sys2Proof.Claim.PrefetchEffects ∧ Sys2Proof.Claim.FlushEffects ∧ Sys2Proof.Claim.ProbeWord) ∧
  ∀ (s : State) (t : Team) (h : Hd) (o : Mem) (b : Nat) (place : Nat → Place),
    let act := t.active h
    let ls := lanesOf act t.lanes
    let wide := 4 ≤ o.scope.toNat
    let rel := o.ord.toNat ∈ [2, 3, 4]
    let acq := o.ord.toNat ∈ [1, 3, 4]
    let s1 := if rel ∧ wide then s.writeBackAll (t.pipe / 32) else s
    let s2 := if acq ∧ wide then s1.invalidateAll (t.pipe / 32) else s1
    let check := fun l => s.resolve (t.who (s.ctxOf t) (some l)) (if inWindow (laneVa t o b l) then .wr else .rd) 1 1 (laneVa t o b l)
    s.issuing = some t → t.flagRoom h.fb = true →
    (o.ord.toNat ∈ [1, 2, 3, 4] → exec (.fence h o) s = .next ((farCounted s t true h.fb [] [] s2).retire t)) ∧
    (o.ord.toNat ∈ [1, 2, 3, 4] → ¬wide → Completes (.fence h o) s t (t.count h.fb none)) ∧
    (addressed t act o b →
      exec (.pref h o) s = .next ((farCounted s t (act != 0) h.fb [] []
        (ls.foldl (fun u l => u.prefetch t o (some l, laneVa t o b l)) s)).retire t)) ∧
    (addressed t act o b →
      ((∀ l, t.live act l → check l = .ok (place l)) →
        exec (.cflush h o) s = .next ((farCounted s t (act != 0) h.fb [] []
          (ls.foldl (fun u l => u.flushLine t o.scope.toNat (place l)) (s.usePlaces t .rd (ls.map place)))).retire t)) ∧
      lanesStop (.cflush h o) s t .rd ls (laneVa t o b) check) ∧
    ((t.sreg o.a.toNat).tag ∈ [10, 2, 12] →
      Completes (.probe h o) s t ((t.setS o.d.toNat
        (BitVec.ofNat 64 (s.probe (t.who (s.ctxOf t) none) (scalarVa t o))) 2).count h.fb none))

/-- R203, R82 and R98: the checks of LD, LDC, LDS, ST, STS, ATOM and RED.M stop the instruction before it has an effect: of the
lanes' checks, the lowest lane that errs gives its code; where none errs, the lowest lane that faults parks the team; in Trap
mode a read of an invalid word raises UNWRITTEN; a promoted load or atomic with an address in the window region raises
ILLEGAL. -/
def Obligations.MemoryErrorsAndParks : Prop :=
  ∀ (s : State) (t : Team) (h : Hd) (o : Mem) (m : Atm) (d b c : Nat),
    let n := accessBytes o.ty.toNat
    let tag := loadTag o.ty.toNat
    let act := t.active h
    let ls := lanesOf act t.lanes
    let who := fun l => t.who (s.ctxOf t) (some l)
    let check := fun a l => s.resolve (who l) a n n (laneVa t o b l)
    let one := fun a (_ : Nat) => s.resolve (t.who (s.ctxOf t) none) a n n (scalarVa t o)
    let ok := fun (f : Nat → Except LErr Place) (p : Nat → Place) => ∀ l, t.live act l → f l = .ok (p l)
    let k := if n = 8 then 2 else 1
    let set := if 1 ≤ o.ty.toNat ∧ o.ty.toNat ≤ 11 then [o.ty.toNat, 12] else Tag.any
    let size : Nat := if m.ty = 2 then 8 else 4
    let wtag : Tag := if m.ty = 0 then 1 else if m.ty = 1 then 2 else if m.ty = 2 then 10 else 3
    let words := width wtag * (if m.op = 7 ∨ m.op = 8 then 2 else 1)
    let wva := fun l => (baseOf (t.sreg m.a.toNat) +
      BitVec.ofInt 64 ((if m.noOff then 0 else (t.lane b l).toInt) * (size : Int))).toNat
    let wcheck := fun l => s.atomPlace (who l) size (wva l)
    s.issuing = some t → t.flagRoom h.fb = true →
    (t.names h.ixD o.d (width tag) (width tag == 2) d → addressed t act o b →
      ∀ i ∈ [Instr.ld h o, .ldc h o],
        (o.prom = true → (∃ l, t.live act l ∧ inWindow (laneVa t o b l) = true) → errs i s t Code.illegal) ∧
        ((o.prom = true → ∀ l, t.live act l → inWindow (laneVa t o b l) = false) →
          lanesStop i s t .rd ls (laneVa t o b) (check .rd) ∧
          ∀ p, ok (check .rd) p → t.unwtrap = true → (∃ l, t.live act l ∧ s.invalidWords (laneVa t o b l) n (p l) ≠ []) →
            errs i s t Code.unwritten)) ∧
    (t.names h.ixD o.d k (n == 8) d → t.tagged act d k set → addressed t act o b →
      lanesStop (.st h o) s t .wr ls (laneVa t o b) (check .wr)) ∧
    ((t.sreg o.a.toNat).tag ∈ [10, 2, 12] →
      lanesStop (.lds h o) s t .rd [0] (fun _ => scalarVa t o) (one .rd) ∧
      (∀ p, one .rd 0 = .ok p → t.unwtrap = true → s.invalidWords (scalarVa t o) n p ≠ [] → errs (.lds h o) s t Code.unwritten) ∧
      ((t.sreg o.d.toNat).tag ∈ set → lanesStop (.sts h o) s t .wr [0] (fun _ => scalarVa t o) (one .wr))) ∧
    (t.names false m.c words false c →
      t.tagged act c words (if 3 ≤ m.op.toNat ∧ m.op.toNat ≤ 7 then [wtag, 12] else [wtag]) →
      (t.sreg m.a.toNat).tag ∈ [10, 2, 12] → (m.noOff = false → t.names false m.b 1 false b ∧ t.tagged act b 1 [1, 2]) →
      ∀ i, (i = .redM h m ∨ (i = .atom h m ∧ t.names h.ixD m.d (width wtag) (width wtag == 2) d)) →
        (m.prom = true → (∃ l, t.live act l ∧ inWindow (wva l) = true) → errs i s t Code.illegal) ∧
        ((m.prom = true → ∀ l, t.live act l → inWindow (wva l) = false) →
          lanesStop i s t .rmw ls wva wcheck ∧
          ∀ p, ok wcheck p → t.unwtrap = true → (∃ l, t.live act l ∧ s.invalidWords (wva l) size (p l) ≠ []) →
            errs i s t Code.unwritten))

namespace Sys2Proof.Claim

/-! ## Synchronisation words (spec/10_sync_word.md) -/

/-- The tag and the bits of an atomic's type field. -/
def wordTag (ty : Nat) : Tag := if ty = 0 then 1 else if ty = 1 then 2 else if ty = 2 then 10 else 3
def wordBits (ty : Nat) : Nat := if ty = 2 then 64 else 32

/-- The value of an atomic's operand under an integer type. -/
def wordVal (ty x : Nat) : Int :=
  if ty = 0 then (BitVec.ofNat 32 x).toInt else if ty = 2 then (BitVec.ofNat 64 x).toInt else x

/-- The new value of an atomic and its flags (R224): an F32 sum never flushes, min and max flush their operands under KHDR.FTZ
(R153). -/
def atomicResult (ftz : Bool) (op ty old v w : Nat) : Nat × Sticky :=
  let x := fun z => decodeFloat Fmt.f32 z old
  let y := fun z => decodeFloat Fmt.f32 z v
  if op = 0 ∧ ty = 3 then rounded Fmt.f32 0 false (NumVal.add false (x false) (y false)) [x false, y false]
  else if (op = 1 ∨ op = 2) ∧ ty = 3 then ((roundFloat Fmt.f32 .rne {} (picked (op == 2) (x ftz) (y ftz))).1, Sticky.none)
  else (if op = 0 ∨ op = 8 then (old + v) % 2 ^ wordBits ty
    else if op = 1 then (if wordVal ty old ≤ wordVal ty v then old else v)
    else if op = 2 then (if wordVal ty v ≤ wordVal ty old then old else v)
    else if op = 3 then old &&& v else if op = 4 then old ||| v else if op = 5 then old ^^^ v
    else if op = 6 then v else if old = v then w else old, Sticky.none)

/-- A waiter's condition (R227): the word differs from the comparand, or is at or above it under its type. -/
def conditionMet (cond ty val cmp : Nat) : Prop :=
  if cond = 0 then val ≠ cmp
  else if ty = 3 then NumVal.cmp (decodeFloat Fmt.f32 false val) (decodeFloat Fmt.f32 false cmp) ∈ [some .eq, some .gt]
  else wordVal ty cmp ≤ wordVal ty val

/-- A scalar count or time clipped to 32 bits (R227, R309). -/
def clipped (r : SReg) : Nat := (max 0 (min (scalarInt r.tag r.bits) (2 ^ 32 - 1))).toNat

/-- The tags of a scalar read as a signed value. -/
def intTagged (r : SReg) : Prop := r.tag ∈ [10, 1, 2]

/-- A place another package holds. -/
def inPod (p : Place) : Bool :=
  match p with
  | .dev _ pa => (match regionOf pa with | .pod _ => true | _ => false)
  | _ => false

/-- The address of lane l of an atomic: base + offset * size (R223). -/
def atomicVa (t : Team) (o : Atm) (b l : Nat) : Nat :=
  let off : Int := if o.noOff then 0 else (t.lane b l).toInt
  (baseOf (t.sreg o.a.toNat) + BitVec.ofInt 64 (off * (wordBits o.ty.toNat / 8 : Nat))).toNat

end Sys2Proof.Claim

/-! ## Synchronisation (spec/10_sync_word.md, spec/08_team.md) -/

/-- R224: one lane's atomic at its execution point gives the old value, writes the new one by its operation and type, and an
`.addt` that crosses its threshold upwards wakes every waiter of the word. -/
def Sys2Proof.Claim.AtomicNewValues : Prop :=
  ∀ (s : State) (ftz : Bool) (op ty lane v w : Nat) (p : Place) (l : Loc),
    let n := wordBits ty / 8
    let old := s.locNat p.slot l n
    let r := atomicResult ftz op ty old v w
    let s' := ((s.touchWord p).touchHome p).locWrite p.slot l (leBytes n r.1)
    op ≤ 8 → ty ≤ 3 → (ty = 3 → op ∈ [0, 1, 2, 6, 7]) → v < 2 ^ wordBits ty → w < 2 ^ wordBits ty →
    p.loc = some l → inPod p = false →
    s.atomLane ftz op ty lane p v w = ((old, r.2),
      if op = 8 ∧ wordVal ty old < wordVal ty w ∧ wordVal ty w ≤ wordVal ty r.1 then s'.wakeEvent l else s')

/-- R222 to R225: ATOM and RED.M, where every lane's checks pass and no invalid word is read, perform their lanes in ascending
order after the release and before the acquire of their order; ATOM writes the old values, and both raise the updates' flags.
In Warn mode the lowest invalid word leaves its warning. -/
def Sys2Proof.Claim.AtomicsOfTeams : Prop :=
  ∀ (s : State) (t : Team) (h : Hd) (o : Atm) (d b c : Nat) (place : Nat → Place),
    let ty := o.ty.toNat
    let op := o.op.toNat
    let ord := o.ord.toNat
    let tag := wordTag ty
    let k := width tag
    let n := wordBits ty / 8
    let two := op = 7 ∨ op = 8
    let m := if two then 2 * k else k
    let act := t.active h
    let ls := lanesOf act t.lanes
    let ps := ls.map place
    let data := fun r l => if ty = 2 then (t.lane64 r l).toNat else (t.lane r l).toNat
    let bad := ls.flatMap fun l => s.invalidWords (atomicVa t o b l) n (place l)
    let s1 := (warned s t bad).usePlaces t .rmw ps
    let s2 := if act ≠ 0 ∧ 2 ≤ ord then s1.release t o.scope.toNat else s1
    let s3 := if o.prom then s2.promoteAll t o.scope.toNat ps else s2
    let s4 := ps.foldl (fun u p => u.meetHome t.cluster p) s3
    let x := s4.atomLanes t.ftz op ty (ls.map fun l => (l, place l, data c l, if two then data (c + k) l else 0))
    let s5 := if act ≠ 0 ∧ (ord = 1 ∨ 3 ≤ ord) then x.2.acquire t o.scope.toNat else x.2
    let old := fun l => ((x.1.1.find? (·.1 == l)).map (·.2)).getD 0
    let stain := fun l => (t.sreg o.a.toNat).taint || (!o.noOff && t.vtaint b l)
    s.issuing = some t → t.flagRoom h.fb = true → t.names false o.c m false c →
    t.tagged act c m (if 3 ≤ op ∧ op ≤ 7 then [tag, 12] else [tag]) →
    (t.sreg o.a.toNat).tag ∈ [10, 2, 12] → (o.noOff = false → t.names false o.b 1 false b ∧ t.tagged act b 1 [1, 2]) →
    (o.prom = true → ∀ l, t.live act l → inWindow (atomicVa t o b l) = false) →
    (∀ l, t.live act l → s.atomPlace (t.who (s.ctxOf t) (some l)) n (atomicVa t o b l) = .ok (place l)) →
    (t.unwtrap = false ∨ bad = []) →
    (t.names h.ixD o.d k (k == 2) d →
      exec (.atom h o) s = .next ((farCounted s t (act != 0) h.fb (regsFrom d k) [] (s5.modTeam t.id fun u =>
        (u.writeRegs act d (List.replicate k tag) (fun l => regsOfBits tag (old l)) stain).raiseFlags x.1.2)).retire t)) ∧
    exec (.redM h o) s = .next ((farCounted s t (act != 0) h.fb [] [] (s5.modTeam t.id fun u => u.raiseFlags x.1.2)).retire t)

/-- R222 to R225: the atomics. -/
def Obligations.Atomics : Prop :=
  Sys2Proof.Claim.AtomicNewValues ∧ Sys2Proof.Claim.AtomicsOfTeams

/-- R227 to R230: WAITA completes at once with MET, TIMEOUT or FULL, or registers its team, which then waits; its completions
acquire under order 1; WAKE wakes up to a count of waiters, 0 for all, and writes how many, ARITH for a negative count. -/
def Obligations.WaitsOnWords : Prop :=
  ∀ (s : State) (t : Team) (h : Hd) (o : Atm) (p : Place) (word : Loc),
    let ty := o.ty.toNat
    let n := wordBits ty / 8
    let d := o.d.toNat
    let cond := o.op.toNat
    let scope := o.scope.toNat
    let va := (baseOf (t.sreg o.a.toNat)).toNat
    let cmp := (t.sreg o.c.toNat).bits
    let timeout := clipped (t.sreg (o.c.toNat + 1))
    let acquired := fun (u : State) => if o.ord = 1 then u.acquire t scope else u
    let s1 := (((s.usePlaces t .rd [p]).meetHome t.cluster p).touchWord p).touchHome p
    let met := conditionMet cond ty (s1.locNat p.slot word n) (cmp.toNat % 2 ^ wordBits ty)
    let status := fun v => exec (.waita h o) s = .next (((acquired s1).setTeam (t.setS d (BitVec.ofNat 64 v) 2)).retire t)
    let m := scalarInt (t.sreg o.c.toNat).tag (t.sreg o.c.toNat).bits
    let s2 := s.usePlaces t .wr [p]
    let s3 := if o.ord = 2 then s2.release t scope else s2
    let s4 := if s3.mem.words.any (·.word == word) then s3.touchWord p else s3
    let x := s4.wakeUpTo word (if m = 0 then s4.mem.waiters.length else m.toNat)
    s.issuing = some t → t.flagRoom h.fb = true → (t.sreg o.a.toNat).tag ∈ [10, 2, 12] → p.loc = some word →
    ((t.sreg o.c.toNat).tag ∈ Tag.any → intTagged (t.sreg (o.c.toNat + 1)) → cond < 2 → s.syncPlace t .rd n va = .ok p →
      (met → status 0) ∧ (¬met → timeout = 0 → status 2) ∧
      (¬met → timeout ≠ 0 → s1.waiterFree p.die = false → status 3) ∧
      (¬met → timeout ≠ 0 → s1.waiterFree p.die = true → exec (.waita h o) s =
        .next (((s1.withMem fun y => y.addWaiter p.die word t.id).setTeam { t with
          st := .waiting (.waita word cond ty cmp (o.ord == 1) scope (s.now + timeout) d none) }).holdTeam t))) ∧
    (intTagged (t.sreg o.c.toNat) → s.syncPlace t .wr 4 va = .ok p →
      (0 ≤ m → exec (.wake h o) s = .next ((farCounted s t true h.fb [] []
        (x.2.modTeam t.id fun u => u.setS d (BitVec.ofNat 64 x.1) 2)).retire t)) ∧
      (m < 0 → errs (.wake h o) s t Code.arith))

/-- R184: XCL without a lane writes NOLANE; at an Empty channel its team waits there; at a waiting partner of its context, of the
same count and lanes, each team takes the other's registers in the lanes of both masks, and both read DONE; the other statuses
and the error are as the table says. -/
def Obligations.ShuttleExchange : Prop :=
  ∀ (s : State) (t u : Team) (h : Hd) (o : Rrr) (d a d2 a2 k2 c2 : Nat) (m2 : Mask) (p : Place) (chan : Loc),
    let k := (o.e &&& 15).toNat + 1
    let c := o.c.toNat
    let va := (baseOf (t.sreg o.b.toNat)).toNat
    let act := t.active h
    let s1 := (s.usePlaces t .rmw [p]).meetHome t.cluster p
    let state := s1.locNat p.slot chan 1 % 4
    let both := act &&& m2
    let idle := s1.locWrite none chan (leBytes 8 0)
    let ends := fun (x : State) (v : Team) => exec (.xcl h o) s = .next ((x.setTeam v).retire t)
    let told := fun (v : Team) (n : Nat) => v.setS c (BitVec.ofNat 64 n) 2
    let tell := fun (n : Nat) (v : Team) => v.setS c2 (BitVec.ofNat 64 n) 2
    s.issuing = some t → t.flagRoom h.fb = true → t.names h.ixD o.d k false d → t.names h.ixA o.a k false a →
    (t.sreg o.b.toNat).tag ∈ [10, 2, 12] →
    (act = 0 → Completes (.xcl h o) s t (told t 4)) ∧
    (act ≠ 0 → s.resolveLanes t .rmw 64 64 [(none, va)] = .ok [p] → p.loc = some chan → homedPlace p = true →
      (t.tagged act a k Tag.any →
        (state = 0 → exec (.xcl h o) s = .next (((s1.locWrite p.slot chan (leBytes 8 1)).setTeam
          { t with st := .waiting (.xcl chan d a k c act) }).holdTeam t)) ∧
        (2 ≤ state ∨ s1.xclWaiter chan = none ∧ state = 1 → ends s1 (told t 3)) ∧
        (state = 1 → s1.xclWaiter chan = some u → u.st = .waiting (.xcl chan d2 a2 k2 c2 m2) →
          (s1.ctxOf u ≠ s1.ctxOf t → ends s1 (told t 2)) ∧
          (s1.ctxOf u = s1.ctxOf t → k2 ≠ k ∨ u.lanes ≠ t.lanes → ends (idle.endWait u.id (tell 1)) (told t 1)) ∧
          (s1.ctxOf u = s1.ctxOf t → k2 = k → u.lanes = t.lanes →
            ends (idle.endWait u.id fun v => tell 0 (v.receive t both d2 a k)) (told (t.receive u both d a2 k) 0)))) ∧
      ((∃ i w, i < k ∧ t.wordLive act w ∧ t.vtag (a + i) w = 0) →
        (state = 0 → errs (.xcl h o) s t Code.format) ∧
        (state = 1 → s1.xclWaiter chan = some u → u.st = .waiting (.xcl chan d2 a2 k2 c2 m2) → s1.ctxOf u = s1.ctxOf t →
          exec (.xcl h o) s =
            .next (((idle.endWait u.id (tell 1)).takeTrap t (.err Code.format none)).leavePipe t.id)))) ∧
    (∀ (v : Team) (m : Mask) (n e f : Nat), v.laneFrame (v.receive u m e f n) m ((List.range n).map (e + ·)) ∧
      ∀ i, i < n → (∀ l, v.live m l → (v.receive u m e f n).lane (e + i) l = u.lane (f + i) l ∧
          (v.receive u m e f n).vtaint (e + i) l = u.vtaint (f + i) l) ∧
        ∀ w, v.wordLive m w → (v.receive u m e f n).vtag (e + i) w = u.vtag (f + i) w)

namespace Sys2Proof.Claim

/-! ## Barriers (spec/11_barrier.md) -/

/-- Every field of a barrier object fits its place (R234). -/
def barFits (b : Bar) : Prop :=
  -2 ^ 31 ≤ b.pend ∧ b.pend < 2 ^ 31 ∧ b.phase < 2 ^ 32 ∧ b.expect < 2 ^ 16 ∧ b.arrived < 2 ^ 16 ∧ b.next < 2 ^ 16 ∧
  b.waiters < 2 ^ 16 ∧ b.state < 4 ∧ b.err < 2 ^ 8 ∧ b.errn < 2 ^ 8 ∧ b.last < 2 ^ 8 ∧ b.detail < 2 ^ 16 ∧
  b.lastDetail < 2 ^ 16 ∧ b.gen < 2 ^ 16

/-- An object of 32 bytes stands at a place of window memory, aligned to words. -/
def objectAt (s : State) (obj : Loc) : Prop :=
  (∀ i, i < 32 → standing s (obj.add i)) ∧
    match obj with
    | .dev a => a % 4 = 0
    | .seg a => a % 4 = 0
    | .scratch _ _ a => a % 4 = 0
    | .cluster _ a => a % 4 = 0

/-- A barrier that completes its phase (R240). -/
def phaseEnds (b : Bar) : Prop := b.state = 1 ∧ b.arrived = b.expect ∧ b.pend ≤ 0

/-- The result code and detail a completing phase leaves (R240, R241): a negative count records OVERBYTE unless an earlier error
stands. -/
def resultOf (b : Bar) : Nat × Nat := if b.pend < 0 ∧ b.err = 0 then (1, 0) else (b.err, b.detail)

/-- Phase p of a barrier has completed: it lies behind the current phase modulo 2^32 (R245). -/
def phaseOver (b : Bar) (p : Nat) : Prop := 0 < (BitVec.ofNat 32 b.phase - BitVec.ofNat 32 p).toInt

/-- The status of BWAIT and BTEST (R245): 0 while the phase has not completed, its result and detail for the last one, else 3. -/
def phaseStatus (b : Bar) (p : Nat) : Nat :=
  if 0 < (BitVec.ofNat 32 b.phase - BitVec.ofNat 32 p).toInt then
    (if b.phase = (p + 1) % 2 ^ 32 then 1 + b.last * 4 + b.lastDetail * 2 ^ 16 else 3)
  else 0

/-- A 16-bit count less one. -/
def oneLess (n : Nat) : Nat := (n + 65535) % 2 ^ 16

/-- Chip scratchpad has device scope; the other objects need no cache maintenance (R233). -/
def objectScope (obj : Loc) : Nat :=
  match obj with
  | .seg _ => 5
  | _ => 1

/-- A team's request names an object: the address carries its tag and its place is one a barrier may have, with no invalid word
(R233, R235). -/
def names (s : State) (t : Team) (a : BitVec 8) (obj : Loc) : Prop :=
  let va := (baseOf (t.sreg a.toNat)).toNat
  (t.sreg a.toNat).tag ∈ [10, 2, 12] ∧ s.barPlace t va = .ok obj ∧ s.invalidWords va 32 (.win obj) = []

end Sys2Proof.Claim

/-! ## Barriers (spec/11_barrier.md) -/

/-- R234, R239, R240, R241 and R245: an object after a request reads as its fields, and is tested once, when its cycle ends, after
all the cycle's requests: where then every signaller has arrived and no work is pending the phase completes with its result, and
every team that waits for it holds the status it will be Ready with, still counted as a waiter. -/
def Sys2Proof.Claim.BarrierPhases : Prop :=
  ∀ (s : State) (obj : Loc) (b : Bar),
    (objectAt s obj → barFits b →
      let s' := s.barEnd obj b
      s'.bar obj = b ∧ s'.teams = s.teams ∧ s'.mem.bwaits = s.mem.bwaits ∧ obj ∈ s'.cyc.bars ∧
      (s.cyc.bars.Nodup → s'.cyc.bars.Nodup)) ∧
    (s.cyc.bars = [obj] →
      let x := s.bar obj
      let r := resultOf x
      let s' := s.closeBars
      s'.cyc.bars = [] ∧ s'.mem.bwaits = s.mem.bwaits ∧
      (¬phaseEnds x → s'.bar obj = x ∧ s'.teams = s.teams) ∧
      (phaseEnds x → objectAt s obj →
        s'.bar obj =
          { x with
            pend := 0, phase := (x.phase + 1) % 2 ^ 32, expect := x.next, arrived := 0
            state := if x.next = 0 then 2 else 1, err := 0, errn := 0, last := r.1, detail := 0, lastDetail := r.2 } ∧
        ∀ k u d, s.team k = some u → u.st = .waiting (.bwait obj x.phase d none) → { obj := obj, team := k } ∈ s.mem.bwaits →
          s'.team k = some { u with st := .waiting (.bwait obj x.phase d (some (1 + r.1 * 4 + r.2 * 2 ^ 16))) }))

/-- R236, R237, R242 to R244 and R246: BINIT writes a new object; BREG changes its team's entry and the next phase's count; BARR
and BARRD arrive, and BARRD leaves; BEXP adds to the pending count; BARRIER, with nothing changed, where a rule forbids them. -/
def Obligations.BarrierUpdates : Prop :=
  ∀ (s : State) (t : Team) (h : Hd) (o : Rrr) (obj : Loc),
    let va := (baseOf (t.sreg o.a.toNat)).toNat
    let b := s.bar obj
    let n := scalarInt (t.sreg o.b.toNat).tag (t.sreg o.b.toNat).bits
    let entry := t.bars.find? fun e => e.obj == obj && e.gen == b.gen
    let ends := fun (i : Instr) (u : State) => exec i s = .next ((u.modTeam t.id (Team.count h.fb none)).retire t)
    let barrier := fun (i : Instr) => errs i s t Code.barrier
    let sig := o.e.getLsbD 0
    let wait := o.e.getLsbD 1
    let init := o.e.getLsbD 2
    let had := (entry.map (·.sig)).getD false
    let adds := sig = true ∧ had = false
    let before := if init then (b.phase + 2 ^ 32 - 1) % 2 ^ 32 else b.phase
    let new : BarReg := { addr := va, obj := obj, gen := b.gen, sig := sig, wait := wait,
                          last := match entry with | some e => if adds then before else e.last | none => before }
    let next := if adds ∧ init = false then b.next + 1 else if had = true ∧ sig = false then oneLess b.next else b.next
    s.issuing = some t → t.flagRoom h.fb = true →
    ((t.sreg o.a.toNat).tag ∈ [10, 2, 12] → s.barPlace t va = .ok obj → intTagged (t.sreg o.b.toNat) →
      (1 ≤ n → n ≤ 65535 → b.waiters = 0 → ends (.binit h o)
        (((s.release t (objectScope obj)).locWrite none obj (leBytes 32
          (n.toNat * 2 ^ 64 + n.toNat * 2 ^ 96 + 2 ^ 128 + (b.gen + 1) % 2 ^ 16 * 2 ^ 192))).noteBar obj)) ∧
      (n < 1 ∨ 65535 < n ∨ b.waiters ≠ 0 → barrier (.binit h o))) ∧
    (names s t o.a obj →
      (b.state ≠ 1 → barrier (.breg h o) ∧ barrier (.barr h o) ∧ barrier (.barrd h o)) ∧
      (b.state = 1 →
        (sig = false → wait = false → ends (.breg h o) ((s.modTeam t.id fun u =>
          { u with bars := u.bars.filter fun e => !(e.obj == obj && e.gen == b.gen) }).barEnd obj
            { b with next := if had then oneLess b.next else b.next })) ∧
        (sig = true ∨ wait = true → ¬(adds ∧ init = false ∧ b.next = 65535) →
          (∀ l, s.barTable t new = some l →
            ends (.breg h o) ((s.modTeam t.id fun u => { u with bars := l }).barEnd obj { b with next := next })) ∧
          (s.barTable t new = none → barrier (.breg h o))) ∧
        (adds → init = false → b.next = 65535 → barrier (.breg h o)) ∧
        (∀ i drop, (i, drop) ∈ [(Instr.barr h o, false), (.barrd h o, true)] →
          (∀ e, entry = some e → e.sig = true → e.last ≠ b.phase → b.arrived ≠ b.expect →
            ends i (((s.release t (objectScope obj)).modTeam t.id fun u =>
              { u.setS o.d.toNat (BitVec.ofNat 64 b.phase) 2 with bars := barArrived u.bars e drop b.phase }).barEnd obj
                { b with arrived := (b.arrived + 1) % 2 ^ 16, next := if drop then oneLess b.next else b.next })) ∧
          ((∀ e, entry = some e → e.sig = false ∨ e.last = b.phase ∨ b.arrived = b.expect) → barrier i)) ∧
        (intTagged (t.sreg o.b.toNat) →
          (entry.isSome = true → -2 ^ 31 ≤ b.pend + n → b.pend + n < 2 ^ 31 →
            ends (.bexp h o) (s.barEnd obj { b with pend := b.pend + n })) ∧
          (entry = none ∨ b.pend + n < -2 ^ 31 ∨ 2 ^ 31 ≤ b.pend + n → barrier (.bexp h o)))))

/-- R245: BWAIT completes at once with its status when its phase is over, and else waits, counted in the object; only a waiter may;
BTEST writes the status once, whatever the state of the object; a status with bit 0 set acquires. A waiter woken becomes Ready at
the next clause with its status, and the object counts it no longer. -/
def Sys2Proof.Claim.BarrierWaits : Prop :=
  ∀ (s : State) (t : Team) (h : Hd) (o : Rrr) (obj : Loc),
    let b := s.bar obj
    let r := t.sreg o.b.toNat
    let p := (scalarInt r.tag r.bits % 2 ^ 32).toNat
    let entry := t.bars.find? fun e => e.obj == obj && e.gen == b.gen
    let v := phaseStatus b p
    let acquired := fun (v : Nat) (u : State) => if v % 2 = 1 then u.acquire t (objectScope obj) else u
    let gives := fun (u : State) => u.modTeam t.id fun w => w.setS o.d.toNat (BitVec.ofNat 64 v) 2
    let waits := s.setTeam { t with st := .waiting (.bwait obj p o.d.toNat none) }
    (s.issuing = some t → t.flagRoom h.fb = true → intTagged r → names s t o.a obj →
      exec (.btest h o) s = .next (((gives (acquired v (s.barEnd obj b))).modTeam t.id (Team.count h.fb none)).retire t) ∧
      (b.state ≠ 1 ∨ (∀ e, entry = some e → e.wait = false) → errs (.bwait h o) s t Code.barrier) ∧
      (∀ e, b.state = 1 → entry = some e → e.wait = true →
        (phaseOver b p → exec (.bwait h o) s = .next ((gives (acquired v (s.barEnd obj b))).retire t)) ∧
        (¬phaseOver b p → exec (.bwait h o) s = .next
          (((waits.withMem fun m => { m with bwaits := m.bwaits ++ [{ obj := obj, team := t.id }] }).barEnd obj
            { b with waiters := (b.waiters + 1) % 2 ^ 16 }).holdTeam t)))) ∧
    (∀ k u q d st, s.team k = some u → u.st = .waiting (.bwait obj q d (some st)) →
      let s' := s.barLeaves k obj
      exec (.bwaitWake k) s = .next ((if st % 2 = 1 then s'.acquire u (objectScope obj) else s').endWait k
        fun w => w.setS d (BitVec.ofNat 64 st) 2)) ∧
    (∀ k, objectAt s obj → s.locValid (obj.add 12) = true → { obj := obj, team := k } ∈ s.mem.bwaits →
      let s' := s.barLeaves k obj
      s'.bar obj = { b with waiters := oneLess b.waiters } ∧ { obj := obj, team := k } ∉ s'.mem.bwaits)

/-- R234, R240, R241 and R245: the phases of a barrier, and the waits for them. -/
def Obligations.BarrierPhasesAndWaits : Prop :=
  Sys2Proof.Claim.BarrierPhases ∧ Sys2Proof.Claim.BarrierWaits

namespace Sys2Proof.Claim

/-! ## Accumulators (spec/12_tile.md) -/

/-- What accumulator c of a team holds after an instruction: active words their tag; in the active lanes the elements given, the
void bit and the list state; in a lane that is not active, or an element not given, what it held, but +0 and a clear void bit in
a word that was Empty (R249, R250). -/
def accHolds (t t' : Team) (act : Mask) (c : Nat) (tag : Nat → AccTag) (elem : Nat → Nat → Option Word) (void : Nat → Bool)
    (rank : Nat → RankLane) : Prop :=
  let was := fun l j => if t.accTag c (l / 32) = none ∧ (wordMask act (l / 32) ≠ 0) then 0 else t.accElem c l j
  (∀ w, w < t.lanes / 32 → w < 32 →
    (wordMask act w ≠ 0 → t'.accTag c w = some (tag w)) ∧ (wordMask act w = 0 → t'.accTag c w = t.accTag c w)) ∧
  ∀ l, l < 32 * (t.lanes / 32) → l < 1024 →
    (act.getLsbD l = true →
      (∀ j, j < 32 → t'.accElem c l j = (elem l j).getD (was l j)) ∧ t'.accVoid c l = void l ∧ t'.accRank c l = rank l) ∧
    (act.getLsbD l = false →
      (∀ j, j < 32 → t'.accElem c l j = was l j) ∧ t'.accRank c l = t.accRank c l ∧
      (wordMask act (l / 32) ≠ 0 → t.accTag c (l / 32) = none → t'.accVoid c l = false) ∧
      (wordMask act (l / 32) = 0 ∨ t.accTag c (l / 32) ≠ none → t'.accVoid c l = t.accVoid c l))

/-- Of a team, only accumulators and sticky flags change; of the accumulators, only those listed. -/
def accFrame (t t' : Team) (cs : List Nat) : Prop :=
  t' = { t with acc := t'.acc, sticky := t'.sticky } ∧
  ∀ c, c ∉ cs → (∀ w, w < 32 → t'.accTag c w = t.accTag c w) ∧
    ∀ l, l < 1024 → (∀ j, j < 32 → t'.accElem c l j = t.accElem c l j) ∧ t'.accVoid c l = t.accVoid c l ∧
      t'.accRank c l = t.accRank c l

/-- A long-latency instruction completes with accumulators changed as stated; it counts on its flag when a lane is active. -/
def accResult (i : Instr) (h : Hd) (s : State) (t : Team) (cs : List Nat) (flags : Nat → Sticky) (post : Team → Prop) : Prop :=
  ∃ t', Completes i s t (if t.active h = 0 then t' else t'.count h.fb none) ∧ accFrame t t' cs ∧
    t'.sticky = t.sticky ||| flagsOf (t.active h) t.lanes flags ∧ post t'

/-- Every active word of accumulator c is in an accepted state. -/
def accIn (t : Team) (act : Mask) (c : Nat) (ok : List (Option AccTag)) : Prop :=
  ∀ w, t.wordLive act w → t.accTag c w ∈ ok

/-- The selection word names m columns from j0 in a format: FP32, BF16 or FP64 (R268). -/
def selects (r : SReg) (e j0 m fmt : Nat) : Prop :=
  scalarInt r.tag r.bits = j0 + m * 2 ^ 8 + fmt * 2 ^ 16 ∧ 1 ≤ m ∧ j0 + m ≤ 32 ∧ fmt < 3 ∧ j0 < 32 ∧
  (fmt = 1 → m % 2 = 0) ∧ (fmt = 2 → e % 2 = 0)

/-- Registers of m columns in a format, and their tag. -/
def columnRegs (m fmt : Nat) : Nat := if fmt = 0 then m else if fmt = 1 then m / 2 else 2 * m
def columnTag (fmt : Nat) : Tag := if fmt = 0 then 3 else if fmt = 1 then 5 else 11

/-- A binary64 value rounded to nearest into a format (R43). -/
def narrowed (f : Fmt) (x : Word) : Nat × Sticky := roundFloat f .rne {} (decodeFloat Fmt.f64 false x.toNat)

/-- The registers CRD writes of a lane's columns x, in order (R268). -/
def columnsOut (m fmt : Nat) (x : Nat → Word) : List Lane32 :=
  if fmt = 0 then (List.range m).map fun i => BitVec.ofNat 32 (narrowed Fmt.f32 (x i)).1
  else if fmt = 1 then (List.range (m / 2)).map fun i =>
    BitVec.ofNat 32 ((narrowed Fmt.bf16 (x (2 * i))).1 + (narrowed Fmt.bf16 (x (2 * i + 1))).1 * 2 ^ 16)
  else (List.range m).flatMap fun i => [(x i).extractLsb' 0 32, (x i).extractLsb' 32 32]

/-- The flags of those conversions. -/
def columnFlags (m fmt : Nat) (x : Nat → Word) : Sticky :=
  if fmt = 2 then Sticky.none
  else (List.range m).foldl (fun f i => f ||| (narrowed (if fmt = 0 then Fmt.f32 else Fmt.bf16) (x i)).2) Sticky.none

/-- Column i that CWR reads of lane l, widened; a NaN becomes the canonical one (R268). -/
def columnIn (t : Team) (e fmt l i : Nat) : Word :=
  BitVec.ofNat 64 (roundFloat Fmt.f64 .rne {}
    (if fmt = 0 then decodeFloat Fmt.f32 false (t.lane (e + i) l).toNat
     else if fmt = 1 then half Fmt.bf16 false (t.lane (e + i / 2) l) (i % 2)
     else decodeFloat Fmt.f64 false (t.lane64 (e + 2 * i) l).toNat)).1

/-! ## Ranked lists (spec/13_ranked_list.md) -/

/-- Entry (v, i) ranks above entry (w, j): by value, the lower index first among equals (R275). -/
def above (p q : Nat × Nat) : Prop :=
  NumVal.cmp (decodeFloat Fmt.f32 false p.1) (decodeFloat Fmt.f32 false q.1) = some .gt ∨
  (NumVal.cmp (decodeFloat Fmt.f32 false p.1) (decodeFloat Fmt.f32 false q.1) = some .eq ∧ p.2 < q.2)

/-- A pair as it is stored: -0 becomes +0. -/
def stored (p : Nat × Nat) : Nat × Nat := (if p.1 = 2 ^ 31 then 0 else p.1, p.2)

/-- A list in lane l of accumulator c: entries in order, zeros past them, and the side-band state (R274). -/
def listHolds (t : Team) (c l : Nat) (x : RankList) : Prop :=
  (∀ e, e < 32 → t.accElem c l e = ((x.entries[e]?).map fun p => BitVec.ofNat 64 (p.1 + p.2 * 2 ^ 32)).getD 0) ∧
  t.accRank c l = { len := x.entries.length, k := x.k, nan := x.nan } ∧ t.accVoid c l = x.void

/-- The lists of the active lanes of accumulator c, whose words hold lists, become those given; every other lane keeps its list
and the words their tags. -/
def ranksBecome (t t' : Team) (act : Mask) (c : Nat) (f : Nat → RankList) : Prop :=
  (∀ w, w < 32 → t'.accTag c w = t.accTag c w) ∧
  ∀ l, l < 1024 → (t.live act l → listHolds t' c l (f l)) ∧
    (¬t.live act l → (∀ j, j < 32 → t'.accElem c l j = t.accElem c l j) ∧ t'.accVoid c l = t.accVoid c l ∧
      t'.accRank c l = t.accRank c l)

/-- A column rounded toward minus infinity for a fold (R283). -/
def floored (x : Word) : Nat × Sticky := roundFloat Fmt.f32 .rd {} (decodeFloat Fmt.f64 false x.toNat)

/-- The floor of a list: its last value when it is full, else minus infinity (R274). -/
def floorOf (t : Team) (c l : Nat) : Lane32 :=
  let r := t.accRank c l
  if r.k ≠ 0 ∧ r.len = r.k then (t.accElem c l (r.k - 1)).extractLsb' 0 32 else 0xFF800000

/-- The address of a lane's row, and of the n pieces of eight bytes from its piece i (R279). -/
def rowVa (t : Team) (a : BitVec 8) (l : Nat) : Nat :=
  (baseOf (t.sreg a.toNat) + BitVec.ofInt 64 (l * scalarInt (t.sreg (a.toNat + 1)).tag (t.sreg (a.toNat + 1)).bits)).toNat
def piecesOf (va i n : Nat) : List Nat := (List.range n).map fun k => (va + 8 * (i + k)) % 2 ^ 64

/-- A lane's row, or its part at addresses `vas`, lies whole in one window, not a lane-private one, or whole in device memory
(R70, R279). -/
def rowInside (s : State) (t : Team) (l : Nat) (vas : List Nat) : Prop :=
  let va := vas.headD 0
  if inWindow va then ∃ p, s.window (t.who (s.ctxOf t) (some l)) va (8 * vas.length) = some p ∧ ∀ k x, p ≠ .own k x
  else va + 8 * vas.length ≤ 0x01FFFFFE00000000

/-- Pieces of rows, lane by lane in ascending order, each with its place: no check fails and none lies in a lane-private window. -/
def rowsPlaced (s : State) (t : Team) (a : Access) (ls : List Nat) (vas : Nat → List Nat) (ps : List (Nat × Place)) : Prop :=
  ps.map (·.1) = (ls.flatMap fun l => vas l) ∧ (∀ l ∈ ls, vas l ≠ [] → rowInside s t l (vas l)) ∧
  (∀ l ∈ ls, ∀ va ∈ vas l, ∃ p, s.resolve (t.who (s.ctxOf t) (some l)) a 8 8 va = .ok p ∧ (va, p) ∈ ps ∧
    ∀ k x, p ≠ .own k x) ∧
  ∀ x ∈ ps, ∀ y ∈ ps, x.1 = y.1 → x.2 = y.2

/-- A row's header: length, capacity, NaN-seen, void (R278), and when it is good (R284). -/
def goodHeader (w : Nat) : Prop := w / 2 ^ 34 % 2 ^ 30 = 0 ∧ 1 ≤ w / 2 ^ 16 % 2 ^ 16 ∧ w / 2 ^ 16 % 2 ^ 16 ≤ 32 ∧
  w % 2 ^ 16 ≤ w / 2 ^ 16 % 2 ^ 16

/-- A list's row: its header and its entries. -/
def rowOf (x : RankList) : List Nat :=
  (x.entries.length + x.k * 2 ^ 16 + (if x.nan then 2 ^ 32 else 0) + (if x.void then 2 ^ 33 else 0)) ::
    x.entries.map fun p => p.1 + p.2 * 2 ^ 32

end Sys2Proof.Claim

/-! ## Accumulators (spec/12_tile.md) -/

/-- R267 to R271: CZERO, CRD, CWR, CMOV, MMASK and MBUD, where no word-op of the team is pending on their accumulators. -/
def Obligations.Accumulators : Prop :=
  ∀ (s : State) (t : Team) (h : Hd) (o : Mx),
    let act := t.active h
    let c := o.d.toNat
    let e := o.m.toNat / 2 ^ 6 % 2 ^ 8
    let src := o.m.toNat / 2 ^ 6 % 2 ^ 4
    let free := fun (_ : Nat) => Sticky.none
    let p := t.sreg o.a.toNat
    let n := scalarInt (t.sreg o.b.toNat).tag (t.sreg o.b.toNat).bits
    let core := s.core t.core
    let q := (scalarInt p.tag p.bits).toNat
    let sources := t.tagged act e (if bitsOf q 17 16 = 3 then 0 else min (columnRegs (bitsOf q 13 8) (bitsOf q 17 16)) (t.vregs - e))
      [columnTag (bitsOf q 17 16)]
    s.issuing = some t → t.flagRoom h.fb = true →
    (c < t.accs → t.vregs ≤ e → errs (.crd h o) s t Code.regbound ∧ errs (.cwr h o) s t Code.regbound) ∧
    (c < t.accs → s.accPending t c = false →
      accResult (.czero h o) h s t [c] free (fun t' =>
        accHolds t t' act c (fun _ => .a64) (fun _ _ => some 0) (fun _ => false) (t.accRank c)) ∧
      (∀ j0 m fmt, intTagged p → selects p e j0 m fmt → e + columnRegs m fmt ≤ t.vregs → e + columnRegs m fmt ≤ 256 →
        (accIn t act c [some .a64] →
          laneResultLong (.crd h o) h s t e (List.replicate (columnRegs m fmt) (columnTag fmt))
            (fun l => columnsOut m fmt fun i => t.accElem c l (j0 + i)) (fun _ => false)
            (fun l => columnFlags m fmt fun i => t.accElem c l (j0 + i))) ∧
        (accIn t act c [none, some .a64] → t.tagged act e (columnRegs m fmt) [columnTag fmt] →
          accResult (.cwr h o) h s t [c] free (fun t' => accHolds t t' act c (fun _ => .a64)
            (fun l j => if j0 ≤ j ∧ j < j0 + m then some (columnIn t e fmt l (j - j0)) else none) (fun _ => false)
            (t.accRank c)))) ∧
      (intTagged p → e < t.vregs →
        (accIn t act c [none, some .a64] → ¬sources → errs (.cwr h o) s t Code.format) ∧
        ((¬∃ j0 m fmt, selects p e j0 m fmt) →
          (accIn t act c [some .a64] → errs (.crd h o) s t Code.arith) ∧
          (accIn t act c [none, some .a64] → sources → errs (.cwr h o) s t Code.arith)) ∧
        (∀ j0 m fmt, selects p e j0 m fmt → t.vregs < e + columnRegs m fmt ∨ 256 < e + columnRegs m fmt →
          (accIn t act c [some .a64] → errs (.crd h o) s t Code.regbound) ∧
          (accIn t act c [none, some .a64] → sources → errs (.cwr h o) s t Code.regbound))) ∧
      (src < t.accs → s.accPending t src = false → accIn t act src [some .a64, some .rank] →
        accResult (.cmov h o) h s t [c] free (fun t' => accHolds t t' act c (fun w => (t.accTag src w).getD .a64)
          (fun l j => some (t.accElem src l j)) (t.accVoid src) (t.accRank src)))) ∧
    (p.tag ∈ [2, 10] → intTagged (t.sreg o.b.toNat) →
      let P := scalarInt p.tag p.bits
      (0 ≤ P → P < 2 ^ 32 → 0 ≤ n → n ≤ 16 → ∃ t' : Team, Completes (.mmask h o) s t (t'.count h.fb none) ∧
        t' = { t with prick := t'.prick } ∧ (t'.prick.p : Int) = P ∧ (t'.prick.n : Int) = n ∧
        ∀ l, l < 1024 → FMap.lookD t'.prick.vecs l 0 =
          if l < 32 * (t.lanes / 32) ∧ act.getLsbD l = true then t.kreg (o.m.toNat / 2 ^ 6 % 2 ^ 3) l else 0) ∧
      (P < 0 ∨ 2 ^ 32 ≤ P ∨ n < 0 ∨ 16 < n → errs (.mmask h o) s t Code.arith)) ∧
    (core.level / 16 < 2 ^ 14 → core.rate < 2 ^ 8 → core.stalls < 2 ^ 32 →
      ∃ v : Word, Completes (.mbud h o) s t ((t.setS o.a.toNat v 10).count h.fb none) ∧
        v.extractLsb' 0 14 = BitVec.ofNat 14 (core.level / 16) ∧ v.extractLsb' 14 8 = BitVec.ofNat 8 core.rate ∧
        v.getLsbD 22 = decide (core.level / 16 < 2048) ∧ v.extractLsb' 23 9 = 0 ∧
        v.extractLsb' 32 32 = BitVec.ofNat 32 core.stalls)

/-! ## Ranked lists (spec/13_ranked_list.md) -/

/-- R275 and R276: a list after offers to the empty list holds, in order, the k highest distinct pairs offered, -0 as +0; its
NaN-seen bit says whether a NaN was offered; and another order, or repetition, of the same offers gives the same list. -/
def Obligations.RankedLists : Prop :=
  ∀ (k : Nat) (void : Bool) (ps qs : List (Nat × Nat)),
    let empty : RankList := { k := k, entries := [], nan := false, void := void }
    let L := empty.offers ps
    let isNan := fun (p : Nat × Nat) => (decodeFloat Fmt.f32 false p.1).isNan
    (∀ p ∈ ps, p.1 < 2 ^ 32) →
    L.k = k ∧ L.void = void ∧ L.entries.length ≤ k ∧ L.entries.Pairwise above ∧
    (L.nan = true ↔ ∃ p ∈ ps, isNan p = true) ∧
    (∀ x ∈ L.entries, ∃ p ∈ ps, isNan p = false ∧ x = stored p) ∧
    (∀ p ∈ ps, isNan p = false → stored p ∉ L.entries → L.entries.length = k ∧ ∀ x ∈ L.entries, above x (stored p)) ∧
    ((∀ p, p ∈ ps ↔ p ∈ qs) → empty.offers qs = L)

/-- R281 to R283 and R286: CRANK empties the lists of every lane of its active words; RKINS offers a pair; RKFOLD offers a row's
32 columns, rounded toward minus infinity, and clears it, or marks the list void for a void row; RKFLOOR writes the floor. -/
def Obligations.RankInstructions : Prop :=
  ∀ (s : State) (t : Team) (h : Hd) (o : Mx) (v : Nat),
    let act := t.active h
    let c := o.d.toNat
    let e := BitVec.ofNat 8 (o.m.toNat / 2 ^ 6 % 2 ^ 8)
    let src := o.m.toNat / 2 ^ 6 % 2 ^ 4
    let k := o.m.toNat / 2 ^ 6 % 2 ^ 5 + 1
    let p := t.sreg o.a.toNat
    let b := scalarInt p.tag p.bits
    let column := fun l j => floored (t.accElem src l j)
    s.issuing = some t → t.flagRoom h.fb = true → c < t.accs → s.accPending t c = false →
    (accResult (.crank h o) h s t [c] (fun _ => Sticky.none) (fun t' =>
      (∀ w, w < t.lanes / 32 → w < 32 → (wordMask act w ≠ 0 → t'.accTag c w = some .rank ∧
        ∀ l, l / 32 = w → listHolds t' c l { k := k, entries := [], nan := false, void := false }) ∧
        (wordMask act w = 0 → t'.accTag c w = t.accTag c w ∧ ∀ l, l / 32 = w → (∀ j, j < 32 → t'.accElem c l j = t.accElem c l j) ∧
          t'.accVoid c l = t.accVoid c l ∧ t'.accRank c l = t.accRank c l)))) ∧
    (accIn t act c [some .rank] →
      (t.names false e 2 false v → t.tagged act v 1 [3] → t.tagged act (v + 1) 1 [1, 2] →
        accResult (.rkins h o) h s t [c] (fun _ => Sticky.none) (fun t' =>
          ranksBecome t t' act c fun l => (t.rankList c l).offer (t.lane v l).toNat (t.lane (v + 1) l).toNat)) ∧
      (src < t.accs → src ≠ c → s.accPending t src = false → accIn t act src [some .a64] → p.tag ∈ [2, 10] →
        (0 ≤ b → b ≤ 2 ^ 32 - 32 → accResult (.rkfold h o) h s t [c, src]
          (fun l => if t.accVoid src l then Sticky.none else (List.range 32).foldl (fun f j => f ||| (column l j).2) Sticky.none)
          (fun t' => (ranksBecome t t' act c fun l =>
              if t.accVoid src l then { t.rankList c l with void := true }
              else (t.rankList c l).offers ((List.range 32).map fun j => ((column l j).1, b.toNat + j))) ∧
            accHolds t t' act src (fun _ => .a64) (fun _ _ => some 0) (fun _ => false) (t.accRank src))) ∧
        (b < 0 ∨ 2 ^ 32 - 32 < b → errs (.rkfold h o) s t Code.arith)) ∧
      (t.names false e 1 false v →
        laneResultLong (.rkfloor h o) h s t v [3] (fun l => [floorOf t c l]) (fun _ => false) (fun _ => Sticky.none)))

/-- R279, R284 and R285: RKOUT writes each active lane's row, in ascending lanes; RKMERGE reads every header and every entry before
it offers anything, ORs the header's bits, and raises ARITH for a bad header. A row that does not lie whole in one window or in
device memory raises ACCESS, misaligned or not, and else a misaligned one ALIGN. -/
def Obligations.RankRowsInMemory : Prop :=
  ∀ (s : State) (t : Team) (h : Hd) (o : Mx) (out heads entries : List (Nat × Place)),
    let act := t.active h
    let ls := lanesOf act t.lanes
    let c := o.d.toNat
    let va := rowVa t o.a
    let row := fun l => rowOf (t.rankList c l)
    let stain := (t.sreg o.a.toNat).taint || (t.sreg (o.a.toNat + 1)).taint
    let how : Manner := { slice := false, taint := stain, ret := 0 }
    let valid := fun (u : State) (ps : List (Nat × Place)) => ∀ x ∈ ps, u.invalidWords x.1 8 x.2 = []
    let get := fun (u : State) (ps : List (Nat × Place)) => (u.usePlaces t .rd (ps.map (·.2))).readPlaces t 8
      (ps.map fun x => (how, x.2))
    let x := get s heads
    let header := atLane ls x.1
    let lanesOfEntries := ls.flatMap fun l => List.replicate (header l % 2 ^ 16) l
    let y := get x.2 entries
    let offered := fun l => ((lanesOfEntries.zip y.1).filter (·.1 == l)).map fun w => (w.2 % 2 ^ 32, w.2 / 2 ^ 32)
    let merged := fun l =>
      let z := (t.rankList c l).offers (offered l)
      { z with nan := z.nan || (header l).testBit 32, void := z.void || (header l).testBit 33 }
    s.issuing = some t → t.flagRoom h.fb = true → c < t.accs → s.accPending t c = false → accIn t act c [some .rank] →
    (t.sreg o.a.toNat).tag ∈ [10, 2, 12] → intTagged (t.sreg (o.a.toNat + 1)) →
    (∀ i first, (i, first) ∈ [(Instr.rkout h o, fun l => piecesOf (va l) 0 (row l).length),
        (.rkmerge h o, fun l => piecesOf (va l) 0 1)] → ∀ l ∈ ls, (∀ j ∈ ls, l ≤ j) → (∀ x ∈ first l, x < 2 ^ 57) →
      (¬rowInside s t l (first l) → errs i s t Code.access) ∧
      (rowInside s t l (first l) → va l % 8 ≠ 0 → errs i s t Code.align)) ∧
    (rowsPlaced s t .wr ls (fun l => piecesOf (va l) 0 (row l).length) out →
      exec (.rkout h o) s = .next ((farCounted s t (act != 0) h.fb [] [] ((s.usePlaces t .wr (out.map (·.2))).writePlaces t .plain 0
        ((out.zip (ls.flatMap row)).map fun z => (z.1.2, leBytes 8 z.2, false)))).retire t)) ∧
    (rowsPlaced s t .rd ls (fun l => piecesOf (va l) 0 1) heads → valid s heads →
      ((∀ l ∈ ls, goodHeader (header l)) →
        rowsPlaced x.2 t .rd ls (fun l => piecesOf (va l) 1 (header l % 2 ^ 16)) entries → valid x.2 entries →
        exec (.rkmerge h o) s = .next ((farCounted s t (act != 0) h.fb [] [] (y.2.modTeam t.id fun u =>
          { u with acc := u.acc.setRanks c ls merged }) [c]).retire t)) ∧
      ((∃ l ∈ ls, ¬goodHeader (header l)) →
        exec (.rkmerge h o) s = .next ((x.2.takeTrap t (.err Code.arith none)).leavePipe t.id)))

namespace Sys2Proof.Claim

/-! ## Matrix products (spec/12_tile.md, R40 to R42) -/

/-- The elements of 128 bytes of a chunk row or column (R252, R253). -/
def chunkOf (form : Nat) (bs : List Byte) : List NumVal :=
  let byte := fun i => (bs.getD i 0).toNat
  if form = 0 then (List.range 128).map fun i => decodeFloat Fmt.e4m3 false (byte i)
  else if form = 1 then (List.range 128).map fun i => NumVal.ofInt (BitVec.ofNat 8 (byte i)).toInt
  else if form = 2 then (List.range 256).map fun i =>
    let code := byte (i / 2) / 16 ^ (i % 2) % 16
    NumVal.ofInt (if code = 8 then 0 else if 8 < code then (code : Int) - 16 else code)
  else (List.range 64).map fun i =>
    decodeFloat (if form = 3 then Fmt.bf16 else Fmt.f16) false (byte (2 * i) + 256 * byte (2 * i + 1))

/-- The exact sum of a chunk's products, with INV where it makes a NaN from none (R40, R41). -/
def sumOf (a b : List NumVal) : NumVal × Sticky :=
  let s := (a.zip b).foldl (fun s p => NumVal.add false s (NumVal.mul p.1 p.2)) (.fin false 0 0)
  (s, if s.isNan && !a.any NumVal.isNan && !b.any NumVal.isNan then Sticky.inv else Sticky.none)

/-- What is added to the accumulator: the sum, or in .e4m3 its product with the two scales (R40, R41). -/
def addedOf (form : Nat) (s sa sb : NumVal) : NumVal × Sticky :=
  if form ≠ 0 then (s, Sticky.none)
  else if s.isNan ∨ sa.isNan ∨ sb.isNan then (.nan, Sticky.none)
  else if sa.isInf ∨ sb.isInf then
    (if s.isZero then (.nan, Sticky.inv) else (.inf (s.neg ^^ sa.neg ^^ sb.neg), Sticky.none))
  else (let x := NumVal.mul (NumVal.mul s sa) sb
    if x.isZero then .fin false 0 0 else x, Sticky.none)

/-- An INT4 operand holds code 1000b. -/
def holds8 (bs : List Byte) : Bool := bs.any fun b => b.toNat % 16 == 8 || b.toNat / 16 == 8

/-- Global column c is masked for a lane by a Pricking block (R259). -/
def maskedBy (p : Prick) (l c : Nat) : Bool :=
  if c < p.p then false else if c < p.p + p.n then !(FMap.lookD p.vecs l 0).getLsbD (c - p.p) else true

/-- Element j of row l of a word-op's product and its flags (R258): minus infinity where it is masked; else the chunk merged into
+0 or the old element with one rounding. -/
def productAt (w : WordOp) (t : Team) (l j : Nat) : Word × Sticky :=
  let bytes := fun (m : FMap Oper) => ((FMap.look m l).map (·.bytes)).getD []
  let col := ((w.b[j]?).map (·.bytes)).getD []
  let acc := if w.first then NumVal.fin false 0 0 else decodeFloat Fmt.f64 false (t.accElem w.acc l j).toNat
  let s := sumOf (chunkOf w.form (bytes w.a)) (chunkOf w.form col)
  let x := addedOf w.form s.1 (decodeFloat Fmt.f32 false (leNat (bytes w.scales) % 2 ^ 32)) (decodeFloat Fmt.f32 false (w.bscale % 2 ^ 32))
  let r := rounded Fmt.f64 0 false (NumVal.add false acc x.1) [acc, x.1]
  let masked := match w.prick with | some (p, base) => maskedBy p l (base + j) | none => false
  if masked then (0xFFF0000000000000, Sticky.none)
  else (BitVec.ofNat 64 r.1, s.2 ||| x.2 ||| r.2 |||
    if w.form = 2 ∧ (holds8 (bytes w.a) ∨ holds8 col) then Sticky.rsv4 else Sticky.none)

/-- The rows of a word-op: its active lanes, without `.first` less those whose void bit is set. -/
def rowsOf (w : WordOp) (t : Team) : List Nat := (lanesOf w.rows t.lanes).filter fun l => w.first || !t.accVoid w.acc l

/-- Its operands in the order of R261: A rows and A scales by ascending lane, then B columns. -/
def operandsOf (w : WordOp) (t : Team) : List (Nat × Oper) :=
  ((rowsOf w t).filterMap fun l => (FMap.look w.a l).map fun o => (0, o)) ++
    ((rowsOf w t).filterMap fun l => (FMap.look w.scales l).map fun o => (1, o)) ++ w.b.map fun o => (2, o)

/-- The fault of an operand: its own, or INT4 code 1000b under the team's trap mode. -/
def operandFault (w : WordOp) (t : Team) (o : Oper) : Option (Nat × Nat × Nat) :=
  match o.fault with
  | some f => some f
  | none => if w.form = 2 ∧ t.i4trap = true ∧ holds8 o.bytes = true then some (4, 0, 0) else none

end Sys2Proof.Claim

/-! ## Matrix products (spec/12_tile.md) -/

/-- R252 to R254, R257 and R258: MMA adds its count of active words to its barrier and queues a word-op for each, in ascending
order, with the operands its scalar blocks address, but for lanes whose void bit will be set; one without an active word only
completes; FORMAT, word by word, and BARRIER as R257 says. An operand is fetched as its place allows. -/
def Obligations.MatrixIssue : Prop :=
  ∀ (s : State) (t : Team) (h : Hd) (o : Mx) (obj : Loc),
    let S := fun (r : BitVec 8) (i : Nat) => t.sreg (r.toNat + i)
    let int := fun (r : SReg) => scalarInt r.tag r.bits
    let act := t.active h
    let ws := wordsOf act t.lanes
    let m : MmaMods := { form := o.m.toNat / 2 ^ 11 % 8, first := o.m.getLsbD 10, pricked := o.m.getLsbD 9,
                         skip := o.m.getLsbD 8, sub := o.m.toNat / 2 ^ 6 % 4 }
    let d := o.d.toNat
    let word := (S o.c 3).bits.toNat
    let u := word % 2 ^ 8
    let r := word / 2 ^ 8 % 2 ^ 4
    let x : MmaArgs :=
      { acc := d, sa := (baseOf (S o.a 0)).toNat, stride := int (S o.a 1)
        scale := if m.form = 0 then (baseOf (S o.a 2)).toNat else 0, sb := (baseOf (S o.b 0)).toNat
        bscale := if m.form = 0 then (S o.b 1).bits.toNat else 0, bar := (baseOf (S o.c 0)).toNat
        colbase := if m.pricked then (int (S o.c 1)).toNat else 0
        bound := decodeFloat Fmt.f32 false (if m.skip then (S o.c 2).bits.toNat % 2 ^ 32 else 0), u := u, r := r
        taintA := (S o.a 0).taint || (S o.a 1).taint, taintS := (S o.a 2).taint, taintB := (S o.b 0).taint }
    let accepted := ∀ w, t.wordLive act w → t.accTag d w = some .a64 ∨
      t.accTag d w = none ∧ (m.first = true ∨ s.accPendingWord t d w = true)
    let b := s.bar obj
    let n := (s.barEnd obj { b with pend := b.pend + ws.length }).newId
    let y := n.2.makeOps t m x act n.1 obj ws
    let fits := b.state = 1 ∧ b.pend + ws.length < 2 ^ 31
    s.issuing = some t → t.flagRoom h.fb = true → d < t.accs →
    (S o.a 0).tag ∈ [10, 2, 12] → intTagged (S o.a 1) → (S o.b 0).tag ∈ [10, 2, 12] →
    (m.form = 0 → (S o.a 2).tag ∈ [10, 2, 12] ∧ (S o.b 1).tag = 3) →
    (m.pricked = true → (S o.c 1).tag ∈ [2, 10] ∧ 0 ≤ int (S o.c 1) ∧ int (S o.c 1) < 2 ^ 32) →
    (m.skip = true → u < t.vregs ∧ r < t.accs ∧ s.accPending t r = false ∧ (S o.c 2).tag = 3 ∧ (S o.c 3).tag = 2 ∧
      word % 2 ^ 32 < 2 ^ 12 ∧ t.tagged act u 1 [3] ∧ accIn t act r [some .rank]) →
    (act = 0 → Completes (.mma h o) s t t) ∧
    (ws ≠ [] → names s t o.c obj →
      (accepted → fits → exec (.mma h o) s = .next (((y.2.modCore t.core fun c =>
        Core.refill s.now { c with sweep := c.sweep ++ y.1 }).modTeam t.id (Team.count h.fb (some n.1))).retire t)) ∧
      (accepted → ¬fits → errs (.mma h o) s t Code.barrier) ∧
      (¬accepted → errs (.mma h o) s t Code.format)) ∧
    y.1.map (·.word) = ws ∧
    (∀ op ∈ y.1, op.team = t.id ∧ op.acc = d ∧ op.first = m.first ∧ op.form = m.form ∧ op.bar = obj ∧ op.bscale = x.bscale ∧
      op.prick = (if m.pricked then some (t.prick, x.colbase + 32 * m.sub) else none) ∧
      (∀ l, op.rows.getLsbD l = (act.getLsbD l && decide (l / 32 = op.word))) ∧
      (op.skip = true ↔ m.skip = true ∧ ∀ l, t.live op.rows l → NumVal.cmp (NumVal.mul (decodeFloat Fmt.f32 false (t.lane u l).toNat) x.bound)
        (decodeFloat Fmt.f32 false (floorOf t r l).toNat) = some .lt) ∧
      (∀ l f, FMap.look op.a l = some f → (f.va : Int) = ((x.sa : Int) + l * x.stride) % 2 ^ 64) ∧
      (∀ l f, FMap.look op.scales l = some f → f.va = (x.scale + 4 * l) % 2 ^ 64) ∧
      (∀ j f, op.b[j]? = some f → j < 32 ∧ f.va = (x.sb + 4096 * m.sub + 128 * j) % 2 ^ 64) ∧
      (op.skip = false → ∀ l, t.live op.rows l → m.first = true ∨ s.willVoid t d l = false →
        (FMap.look op.a l).isSome = true ∧ (m.form = 0 → (FMap.look op.scales l).isSome = true) ∧ op.b.length = 32) ∧
      (∀ l, (FMap.look op.a l).isSome = true ∨ (FMap.look op.scales l).isSome = true →
        op.skip = false ∧ t.live op.rows l ∧ (m.first = true ∨ s.willVoid t d l = false)) ∧
      (op.b ≠ [] → op.skip = false ∧ ∃ l, t.live op.rows l ∧ (m.first = true ∨ s.willVoid t d l = false))) ∧
    (∀ l, (∀ x ∈ (s.core t.core).ops, x.team = t.id → x.acc = d → x.rows.getLsbD l = false) → s.willVoid t d l = t.accVoid d l) ∧
    (∀ k va taint,
      let f := s.fetchOper t taint k va
      let p := s.resolve (t.who (s.ctxOf t) none) .rd k k va
      f.1.va = va ∧
      (∀ l, p = .ok (.win l) → s.invalidWords va k (.win l) = [] ∨ t.unwtrap = false →
        f.2 = s ∧ f.1.bytes = s.locRead none l k ∧ f.1.fault = none ∧ f.1.low = (s.invalidWords va k (.win l)).min?) ∧
      (∀ l, p = .ok (.win l) → s.invalidWords va k (.win l) ≠ [] → t.unwtrap = true → f.1.fault = some (3, 0, 0)) ∧
      (∀ q pa, p = .ok (.dev q pa) → regionOf pa ≠ .local → f.1.fault = some (2, 0, 0)) ∧
      (∀ q pa, p = .ok (.dev q pa) → regionOf pa = .local → f.1.fault = none ∧
        f.1.bytes = ((s.usePlaces t .rd [.dev q pa]).teamRead t { slice := false, taint := taint, ret := 0 } (.dev q pa) k).1) ∧
      (p = .error .unreachable → f.1.fault = some (2, 0, 0)) ∧
      (∀ c, p = .error (.err c none) → f.1.fault = some (if c = Code.align then 1 else 2, 0, 0)) ∧
      (∀ c i l, p = .error (.err c (some (i, l))) ∨ p = .error (.park i l) → f.1.fault = some (0, i, l)))

/-- R40 to R42, R250, R258 to R262: a word-op that ends writes its rows, or the zeros and void bits of a skipped one, or nothing
where its rows are void or an operand faults; it leaves the queue and arrives on its barrier, with MXFAULT for a fault. -/
def Sys2Proof.Claim.WordOps : Prop :=
  ∀ (s : State) (core id : Nat) (w : WordOp) (t : Team) (act : Mask),
    let c := s.core core
    let rows := rowsOf w t
    let done := w.perform t (s.opWarn t w (operandsOf w t)).fresh
    let left := w.skipped t
    let gone := fun (u : State) (detail : Option Nat) => (u.dropOp t.core w.id).opArrive t w detail
    let ends := fun (u : State) => exec (.wordOpComplete core id) s = .next u
    let flags := rows.foldl (fun f l => f ||| (List.range 32).foldl (fun g j => g ||| (productAt w t l j).2) Sticky.none) Sticky.none
    c.queue.find? (·.id == id) = some w → s.team w.team = some t → (∀ x ∈ c.queue, x.pipe = w.pipe → w.id ≤ x.id) →
    (∀ l, w.rows.getLsbD l = true → l / 32 = w.word) →
    (w.skip = true → ends (gone (s.setTeam left) none)) ∧
    (t.wordLive w.rows w.word → accFrame t left [w.acc] ∧ left.sticky = t.sticky ∧
      accHolds t left w.rows w.acc (fun _ => .a64) (fun _ _ => some 0) (fun _ => true) (t.accRank w.acc)) ∧
    (w.skip = false → rows = [] → ends (gone s none)) ∧
    (w.skip = false → rows ≠ [] →
      (∀ before after k f cause kind level, operandsOf w t = before ++ (k, f) :: after →
        (∀ x ∈ before, operandFault w t x.2 = none) → operandFault w t f = some (cause, kind, level) →
        let s1 := s.opWarn t w (before ++ if cause = 4 then [(k, f)] else [])
        let s2 := if cause = 0 then s1.errXlate (s.ctxOf t) (w.xrec t f.va kind level) else s1
        ends (gone s2 (some ((if cause = 0 then kind else 0) + cause * 2 ^ 4 + k * 2 ^ 8 + w.word * 2 ^ 10)))) ∧
      ((∀ x ∈ operandsOf w t, operandFault w t x.2 = none) →
        (w.started = false → ends s) ∧
        (w.started = true → ends (gone ((s.opWarn t w (operandsOf w t)).setTeam done) none)) ∧
        ((∀ l, act.getLsbD l = decide (l ∈ rows)) → w.b.length = 32 → (w.first = false → t.accTag w.acc w.word ≠ none) →
          (∀ x ∈ operandsOf w t, x.1 ≠ 1 → x.2.bytes.length = 128) → (∀ l ∈ rows, (FMap.look w.a l).isSome = true) →
          accFrame t done [w.acc] ∧ done.sticky = t.sticky ||| flags ∧
          accHolds t done act w.acc (fun _ => .a64) (fun l j => some (productAt w t l j).1) (fun _ => false) (t.accRank w.acc))))

/-- R255, R261 and R265: the free matrix unit takes the next word-op of the fused pass in progress, else the oldest head of the
pipes' queues, below 2,048 units the cheapest, the lower pipe on a tie, once the level reaches its cost, which it charges; a pass
takes in the queued word-ops of the same key that entered within 64 cycles; an operand late by 65,536 cycles, those of stalled
islands apart, faults its word-op with cause 6. -/
def Sys2Proof.Claim.MatrixUnit : Prop :=
  ∀ (s : State) (core id : Nat) (w : WordOp) (t : Team),
    let c := s.core core
    let heads := fun (x : WordOp) => ∃ p q, c.queue = p ++ x :: q ∧ x.started = false ∧
      (∀ y ∈ p, y.started = true ∨ y.pipe ≠ x.pipe)
    let works := fun (x : WordOp) => ∃ u, s.team x.team = some u ∧ x.skip = false ∧ rowsOf x u ≠ [] ∧
      ∀ y ∈ operandsOf x u, operandFault x u y.2 = none
    let before := fun (x : WordOp) => if 2048 ≤ c.level / 16 then w.id < x.id
      else s.opCost w < s.opCost x ∨ s.opCost w = s.opCost x ∧ w.pipe % 4 < x.pipe % 4
    let takes := fun (pass : List Nat) =>
      (c.level < 16 * s.opCost w → exec (.wordOpStart core) s = .next s) ∧
      (16 * s.opCost w ≤ c.level → exec (.wordOpStart core) s = .next (s.modCore core fun c => Core.refill s.now
        { c with level := c.level - 16 * s.opCost w
                 pass := pass
                 queue := c.queue.map fun (x : WordOp) => if x.id = w.id then { x with started := true } else x }))
    let sameKey := fun (x : WordOp) => (s.team x.team).map s.ctxOf = (s.team w.team).map s.ctxOf ∧
      x.b.map (fun o => (o.loc, o.bytes)) = w.b.map (fun o => (o.loc, o.bytes)) ∧ x.form = w.form ∧ x.bscale = w.bscale
    let joins := fun (x : WordOp) => x ∈ c.queue ∧ x.id ≠ w.id ∧ x.started = false ∧ works x ∧ sameKey x ∧
      w.entered ≤ x.entered ∧ x.entered ≤ w.entered + 64
    let earlier := fun (x y : WordOp) => y ∈ c.queue ∧ y.id < x.id ∧ y.team = x.team ∧ y.acc = x.acc ∧ y.word = x.word
    let wait := s.waited (w.islands t) w.entered
    (c.queue.map (·.id)).Nodup →
    ((∃ x ∈ c.queue, x.started = true) → exec (.wordOpStart core) s = .next s) ∧
    ((∀ x ∈ c.queue, x.started = false) → (∀ x ∈ c.queue, x.id ∉ c.pass) → heads w → works w →
      (∀ x, heads x → works x → x = w ∨ before x) → takes (s.passOf c w)) ∧
    (∀ rest, (∀ x ∈ c.queue, x.started = false) → w ∈ c.queue → c.pass = w.id :: rest → w.id ∉ rest → takes rest) ∧
    (s.opCost w = ((s.team w.team).map w.cost).getD 32 ∧ 32 ≤ s.opCost w) ∧
    (works w → w ∈ c.queue →
      (∀ i ∈ s.passOf c w, ∃ x, x.id = i ∧ joins x ∧ ∀ y, earlier x y → y.id = w.id ∨ y.id ∈ s.passOf c w) ∧
      ∀ x, joins x → (∀ y, earlier x y → y = w) → x.id ∈ s.passOf c w) ∧
    (c.queue.find? (·.id == id) = some w → s.team w.team = some t → works w → w.started = false →
      (wait < 65536 → exec (.operandTimeout core id) s = .next s) ∧
      (65536 ≤ wait → ∃ k : Fin 3, exec (.operandTimeout core id) s =
        .next (((s.opWarn t w (operandsOf w t)).dropOp t.core w.id).opArrive t w
          (some (6 * 2 ^ 4 + k.val * 2 ^ 8 + w.word * 2 ^ 10))))) ∧
    ((∀ x ∈ s.svc.stalls, x.island ∉ w.islands t) → wait = s.now - w.entered)

/-- R40 to R42, R250 and R258 to R265: word operations and the unit that runs them. -/
def Obligations.WordOpsAndUnit : Prop :=
  Sys2Proof.Claim.WordOps ∧ Sys2Proof.Claim.MatrixUnit

namespace Sys2Proof.Claim

/-! ## Queues (spec/15_queue.md) -/

/-- The fields of a control block's 512 bits (R313). -/
def fieldsOf (v : Nat) : Qcb :=
  let w := fun i => v / 2 ^ (64 * i) % 2 ^ 64
  { kind := w 0 % 2 ^ 4, rsize := w 0 / 2 ^ 4 % 2 ^ 4, rcap := w 0 / 2 ^ 8 % 2 ^ 5, engine := w 0 / 2 ^ 16 % 2 ^ 16
    timer := w 0 / 2 ^ 32, base := w 1, resv := w 2, tail := w 3, claim := w 4, head := w 5, done := w 6
    retry := w 7 % 2 ^ 8, flreq := (w 7).testBit 8, broken := (w 7).testBit 9 }

/-- A block is well-formed (R314): reserved bits zero, every field within its limits, not broken, its indices in order. -/
def goodBlock (v : Nat) : Prop :=
  let q := fieldsOf v
  v / 2 ^ 13 % 2 ^ 3 = 0 ∧ v / 2 ^ 458 % 2 ^ 54 = 0 ∧ q.kind ≤ 5 ∧ q.broken = false ∧
  (q.kind ∈ [1, 2] → 4 ≤ q.rsize ∧ q.rsize ≤ 8) ∧ (q.kind ∈ [0, 3, 5] → q.rsize = 6) ∧ (q.kind = 4 → q.rsize = 5) ∧
  1 ≤ q.rcap ∧ q.rcap ≤ 20 ∧ q.base % min (2 ^ (q.rsize + q.rcap)) 4096 = 0 ∧
  (q.kind = 3 → q.engine / 128 < 8 ∧ q.engine % 128 ≤ 76) ∧ (q.kind ≠ 3 → q.engine = 0 ∧ q.done = 0) ∧
  (q.kind ≠ 1 → q.timer = 0) ∧ q.head ≤ q.claim ∧ q.claim ≤ q.tail ∧ q.tail ≤ q.resv ∧ q.resv ≤ q.head + 2 ^ q.rcap

/-- The end of the longest run of listed indices from i, at most n. -/
def runTo (l : List Nat) (i n j : Nat) : Prop := i ≤ j ∧ j ≤ n ∧ (∀ k, i ≤ k → k < j → k ∈ l) ∧ (j = n ∨ j ∉ l)

/-- The block a team names: its place passed the checks of R203 and lies where a block may (R326). -/
def blockAt (s : State) (t : Team) (a : Access) (r : BitVec 8) (p : Place) (b : Loc) : Prop :=
  (t.sreg r.toNat).tag ∈ [10, 2, 12] ∧ s.resolveLanes t a 64 64 [(none, (baseOf (t.sreg r.toNat)).toNat)] = .ok [p] ∧
  p.loc = some b ∧ homedPlace p = true

/-- The state in which an instruction acts on a block: its translation used and its line met (R101); an acquire or a release at
die scope or wider has written back the cluster's dirty bytes (R91, R99). -/
def atBlock (s : State) (t : Team) (a : Access) (o : Ec) (p : Place) : State :=
  let u := ((s.usePlaces t a [p]).meetHome t.cluster p).touchHome p
  if (o.acq = true ∨ o.rel = true) ∧ 4 ≤ o.scope.toNat then u.writeBackAll t.cluster else u

/-- A result word in a scalar register (R326): the index, the warning and the status. -/
def resultIn (d : BitVec 8) (status idx : Nat) (warn : Bool) (u : Team) : Team :=
  u.setS d.toNat (BitVec.ofNat 64 (idx % 2 ^ 56 + (if warn then 2 ^ 56 else 0) + status * 2 ^ 60)) 10

/-- A long-latency instruction that acts on its team completes in a state, its team changed. -/
def completesIn (i : Instr) (s : State) (t : Team) (fb : Bool) (u : State) (f : Team → Team) : Prop :=
  exec i s = .next ((counted t true fb (u.modTeam t.id f)).retire t)

/-- The fault record of an agent that is no team (R204). -/
def agentRecord (va kind access level : Nat) : XRec :=
  { va := va, kind := kind, access := access, level := level, lanes := 1, core := 0xFFFFFFFF, slot := 0, group := 0, pc := 0 }

/-- A node that the package has once (R22, R319): die 0's copy acts, or die 4's once die 0 is fenced, and while the node's island
on die 0 is stalled and the one on die 4 is not. -/
def nodeOf (s : State) (k ctx : Nat) : Who :=
  let island := if k = 78 then 59 else if k = 82 then 61 else 60
  let die := if s.svc.die0 = true ∨ s.stalled island = true ∧ s.stalled (256 + island) = false then 4 else 0
  { agent := 1000000 + (die * 128 + k), ctx := ctx, team := none, lane := none, die := die }

/-- A count operand, and its value. -/
def countIs (t : Team) (r : BitVec 8) (m : Int) : Prop :=
  intTagged (t.sreg r.toNat) ∧ m = scalarInt (t.sreg r.toNat).tag (t.sreg r.toNat).bits

end Sys2Proof.Claim

/-! ## Queues (spec/15_queue.md) -/

/-- R313, R314 and R316: a block reads as its fields, or is malformed; TAIL and HEAD advance over the longest runs of committed and
done indices once, when the cycle ends whose requests changed them, and each advance wakes the waiters of its word. -/
def Sys2Proof.Claim.QueueBlocks : Prop :=
  ∀ (s : State) (key : Option Nat) (b : Loc) (tail head : Nat),
    let v := s.locNat key b 64
    let q := fieldsOf v
    let x := s.qaux b
    let s1 := s.modQaux b fun y => { y with commit := y.commit.filter (tail ≤ ·), done := y.done.filter (head ≤ ·) }
    let s2 := if tail = q.tail then s1 else (s1.locWrite key (b.add 24) (leBytes 8 tail)).wakeEvent (b.add 24)
    let s3 := if tail ≠ q.tail ∧ q.tail = q.claim then s2.startTimer b else s2
    (goodBlock v → s.qcb key b = some q) ∧ (¬goodBlock v → s.qcb key b = none) ∧
    (goodBlock v → runTo x.commit q.tail q.resv tail → runTo x.done q.head q.claim head →
      s.qAdvance key b = if head = q.head then s3 else (s3.locWrite key (b.add 40) (leBytes 8 head)).wakeEvent (b.add 40)) ∧
    (¬goodBlock v → s.qAdvance key b = s) ∧
    (goodBlock v → ∀ i, s.qCommit key b i = (s.modQaux b fun y => { y with commit := i :: y.commit }).noteBlock key b) ∧
    (key, b) ∈ (s.noteBlock key b).cyc.blocks ∧ (s.cyc.blocks.Nodup → (s.noteBlock key b).cyc.blocks.Nodup) ∧
    (s.cyc.blocks = [(key, b)] → s.closeBlocks = { s.qAdvance key b with cyc := { (s.qAdvance key b).cyc with blocks := [] } })

/-- R326, R327, R332 and R352: QAPP, XCHAIN and LAUNCH reserve their records and send them to their slots, or write FULL, BADQ or
KIND and change nothing; a count outside its limits raises ARITH, a source outside its window ACCESS and a misaligned one ALIGN. -/
def Obligations.QueueAppends : Prop :=
  ∀ (s : State) (t : Team) (h : Hd) (o : Ec) (p : Place) (b l : Loc) (m : Nat) (c : Int),
    let src := (baseOf (t.sreg o.b.toNat)).toNat
    let u := ((s.usePlaces t .rmw [p]).meetHome t.cluster p).touchHome p
    let s1 := atBlock s t .rmw o p
    let back := if o.rel = true ∧ 4 ≤ o.scope.toNat then some t.cluster else none
    let byte := fun i => match l with
      | .seg _ => (((s1.ctx (s1.ctxOf t)).chip (src - 0x01FFFFFE00000000 + i)).map (s1.locByte none)).getD 0
      | _ => s1.locByte none (l.add i)
    let source := fun n => inWindow src = true ∧ u.resolveLanes t .rd n 16 [(none, src)] = .ok [.win l]
    ∀ i kinds bound fixed, (i, kinds, bound, fixed) ∈
        [(Instr.qapp h o, [1, 2], 256, none), (.xchain h o, [3], 64, some 64), (.launch h o, [0], 16, none)] →
      s.issuing = some t → t.flagRoom h.fb = true → blockAt s t .rmw o.a p b → (t.sreg o.b.toNat).tag ∈ [10, 2, 12] →
      countIs t o.c c →
      (c < 1 ∨ (bound : Nat) < c → errs i s t Code.arith) ∧
      (c = (m : Nat) → 1 ≤ m → m ≤ bound →
        (∀ n, n = (match u.qcb p.slot b with
            | none => (fixed.map (m * ·)).getD 16
            | some q => m * fixed.getD (2 ^ q.rsize)) →
          (inWindow src = false → src < 2 ^ 57 → errs i s t Code.access) ∧
          (inWindow src = true → u.window (t.who (u.ctxOf t) none) src n = none → errs i s t Code.access) ∧
          (inWindow src = true → u.window (t.who (u.ctxOf t) none) src n ≠ none → src % 16 ≠ 0 → errs i s t Code.align)) ∧
        (u.qcb p.slot b = none → source ((fixed.map (m * ·)).getD 16) →
          completesIn i s t h.fb s1 (resultIn o.d 3 0 false)) ∧
        ∀ q, u.qcb p.slot b = some q → source (m * fixed.getD (2 ^ q.rsize)) →
          let rows := (List.range m).map fun j => (List.range (2 ^ q.rsize)).map fun k => byte (j * 2 ^ q.rsize + k)
          let warn := !(s1.invalidWords src (m * 2 ^ q.rsize) (.win l)).isEmpty
          let s2 := (s1.qReserve p.slot b q m (some t.id)).addRows (engineAgent (t.die * 128 + t.cluster % 72)) (s1.ctxOf t) p.slot b q
            back q.resv rows
          (q.kind ∉ kinds → completesIn i s t h.fb s1 (resultIn o.d 4 0 false)) ∧
          (q.kind ∈ kinds → q.head + 2 ^ q.rcap < q.resv + m → completesIn i s t h.fb s1 (resultIn o.d 1 0 false)) ∧
          (q.kind ∈ kinds → q.resv + m ≤ q.head + 2 ^ q.rcap → completesIn i s t h.fb s2 (resultIn o.d 0 q.resv warn)))

/-- R326 and R328 to R330: QCLAIM claims the lesser of its count and the visible records, QDONE marks claimed indices done, QFLUSH
requests a flush, QSTAT reads; each else writes its status and changes nothing; QSTAT writes BADQ too where its block cannot be
reached. -/
def Obligations.QueueClaims : Prop :=
  ∀ (s : State) (t : Team) (h : Hd) (o : Ec) (p : Place) (b : Loc),
    let s1 := atBlock s t .rmw o p
    let u := ((s.usePlaces t .rmw [p]).meetHome t.cluster p).touchHome p
    let r := ((s.usePlaces t .rd [p]).meetHome t.cluster p).touchHome p
    let block := s1.qcb p.slot b
    let bound := (s1.qaux b).bound.isSome
    let claim := fun (x : State) status first n => completesIn (.qclaim h o) s t h.fb
      (if o.acq then x.acquire t o.scope.toNat else x)
      (fun v => (resultIn o.d status first false v).setS (o.d.toNat + 1) (BitVec.ofNat 64 n) 2)
    let doneIs := fun (x : State) status => completesIn (.qdone h o) s t h.fb x (resultIn o.d status 0 false)
    let flush := fun (x : State) status => completesIn (.qflush h o) s t h.fb x (resultIn o.d status 0 false)
    let stat := fun (x : State) v => completesIn (.qstat h o) s t h.fb x (fun w => w.setS o.d.toNat (BitVec.ofNat 64 v) 10)
    s.issuing = some t → t.flagRoom h.fb = true →
    (blockAt s t .rmw o.a p b →
      (∀ c, countIs t o.b c → (c < 1 ∨ 256 < c → errs (.qclaim h o) s t Code.arith) ∧
        (1 ≤ c → c ≤ 256 → (block = none → claim s1 3 0 0) ∧
          ∀ q, block = some q →
            let n := min c.toNat (q.tail - q.claim)
            let open? := q.kind = 2 ∨ q.kind = 1 ∧ bound = false
            (¬open? → claim s1 4 0 0) ∧ (open? → n = 0 → claim s1 2 q.claim 0) ∧
            (open? → n ≠ 0 → claim (s1.locWrite p.slot (b.add 32) (leBytes 8 (q.claim + n))) 0 q.claim n))) ∧
      (∀ i c, countIs t o.b i → countIs t o.c c → (c < 1 ∨ 256 < c → errs (.qdone h o) s t Code.arith) ∧
        (1 ≤ c → c ≤ 256 → (block = none → doneIs s1 3) ∧
          ∀ q, block = some q →
            let good := (q.head : Int) ≤ i ∧ i + c ≤ q.claim ∧ ∀ j ∈ (s1.qaux b).done, (j : Int) < i ∨ i + c ≤ j
            (good → doneIs (s1.qMarkDone p.slot b i.toNat c.toNat) 0) ∧ (¬good → doneIs s1 5))) ∧
      (u.qcb p.slot b = none → flush u 3) ∧
      (∀ q, u.qcb p.slot b = some q →
        (q.kind = 1 → (u.qaux b).bound.isSome = true →
          flush (u.locWrite p.slot (b.add 56) (leBytes 8 (q.retry + 2 ^ 8))) 0) ∧
        (q.kind ≠ 1 ∨ (u.qaux b).bound = none → flush u 4))) ∧
    (blockAt s t .rd o.a p b →
      (r.qcb p.slot b = none → stat r (3 * 2 ^ 60)) ∧
      (∀ q, r.qcb p.slot b = some q → stat r (min (q.tail - q.claim) (2 ^ 32 - 1) + min (q.resv - q.tail) 65535 * 2 ^ 32 +
        q.retry * 2 ^ 48 + q.kind * 2 ^ 56))) ∧
    ((t.sreg o.a.toNat).tag ∈ [10, 2, 12] →
      (∀ x, s.resolve (t.who (s.ctxOf t) none) .rd 64 64 (baseOf (t.sreg o.a.toNat)).toNat = .ok x → homedPlace x = false) →
      stat s (3 * 2 ^ 60))

/-- R315, R316 and R318: a record's write, or its retry once its time has come, lands and commits it, a release first written back;
a replayable fault keeps its row, with one XLATE item, until its next try; any other failure drops the row and sets BROKEN in its
queue's block, with the XLATE item of a translation fault. -/
def Sys2Proof.Claim.QueueRows : Prop :=
  ∀ (s : State) (id : Nat) (r : Row),
    let w : Who := { agent := r.agent, ctx := r.ctx, team := none, lane := none, die := agentDie r.agent }
    let check := s.resolve w .wr r.bytes.length 1 r.va
    let released := match r.back with
      | some c => s.writeBackAll c
      | none => s
    let first := fun k l => if r.faulted then s else s.errXlate r.ctx (agentRecord r.va k 1 l)
    let kept := fun k l => ((first k l).withEng fun x => { x with rows := x.rows.map fun y =>
      if y.id = r.id then { y with faulted := true, nextTry := s.now + 15040 } else y }).setRetry r.key r.block
    let broken := fun (u : State) =>
      let v := u.dropRow r.id
      v.locWrite r.key (r.block.add 56) (leBytes 8
        (min 255 (v.eng.rows.filter fun x => x.faulted && x.block == r.block).length +
          (if (fieldsOf (v.locNat r.key r.block 64)).flreq then 2 ^ 8 else 0) + 2 ^ 9))
    s.eng.rows.find? (·.id == id) = some r →
    (r.faulted = true → exec (.recordWrite id) s = .next s) ∧
    (r.faulted = false ∨ s.now < r.nextTry → exec (.rowRetry id) s = .next s) ∧
    ∀ i, (i = .recordWrite id ∧ r.faulted = false) ∨ (i = .rowRetry id ∧ r.faulted = true ∧ r.nextTry ≤ s.now) →
      (∀ p, check = .ok p → homedPlace p = true → exec i s = .next
        ((((released.homePut w p r.bytes).dropRow r.id).setRetry r.key r.block).qCommit r.key r.block r.index)) ∧
      (∀ k l, check = .error (.park k l) → exec i s = .next (kept k l)) ∧
      ((∃ p, check = .ok p ∧ homedPlace p = false) ∨ (∃ c, check = .error (.err c none)) ∨ check = .error .unreachable →
        exec i s = .next (broken s)) ∧
      (∀ c k l, check = .error (.err c (some (k, l))) → exec i s = .next (broken (s.errXlate r.ctx (agentRecord r.va k 1 l))))

/-- R313 to R318: queue control blocks and their rows. -/
def Obligations.QueueRowsAndBlocks : Prop :=
  Sys2Proof.Claim.QueueBlocks ∧ Sys2Proof.Claim.QueueRows

namespace Sys2Proof.Claim

/-! ## Engines (spec/15_queue.md, spec/20_link.md) -/

/-- The status of an item whose access fails (R321). -/
def itemStatus (e : LErr) : Nat :=
  match e with
  | .park k _ => 1 + k * 2 ^ 4
  | .err c none => if c = Code.align then 3 else 2
  | .err c (some (k, _)) => (if c = Code.key then 4 else 2) + k * 2 ^ 4
  | .unreachable => 8

/-- An engine accepts an item's operation, and its fields lie within their limits (R324). -/
def accepts (i : EngItem) : Prop :=
  let bobbin := i.engine % 128 < 72
  let bulk := 72 ≤ i.engine % 128 ∧ i.engine % 128 < 76
  let sized := 1 ≤ i.size ∧ i.size ≤ 2 ^ 22
  i.op ≤ 5 ∧ (i.op = 0 → sized) ∧
  (i.op = 1 → bobbin ∧ 4 ≤ i.rowBytes ∧ i.rowBytes ≤ 4096 ∧ i.rowBytes % 4 = 0 ∧ 1 ≤ i.rows ∧ i.rows ≤ 4096) ∧
  (i.op = 2 → bobbin ∧ sized ∧ 1 ≤ i.aux ∧ i.aux ≤ 16) ∧ (i.op = 3 → bulk)

/-- An engine may reach a place (R324). -/
def mayReach (e : Nat) (p : Place) : Prop :=
  match p with
  | .own _ _ => False
  | .win _ => ¬(72 ≤ e % 128 ∧ e % 128 < 76)
  | .dev _ pa => regionOf pa = .local ∨ (∃ x, regionOf pa = .pod x) ∧ ¬(72 ≤ e % 128 ∧ e % 128 < 76) ∨
      regionOf pa = .system ∧ 72 ≤ e % 128 ∧ e % 128 < 76

/-- The pieces of n bytes to a destination, read from an offset on: they follow one another, and each lies in one block of 512
bytes (R323). -/
def cutInto (dst off : Nat) (ps : List (Nat × Nat × Nat)) (n : Nat) : Prop :=
  (ps.map (·.2.2)).sum = n ∧
  ∀ k p, ps[k]? = some p → p.1 = dst + ((ps.take k).map (·.2.2)).sum ∧ p.2.1 = off + ((ps.take k).map (·.2.2)).sum ∧
    1 ≤ p.2.2 ∧ p.1 / 512 = (p.1 + p.2.2 - 1) / 512

/-- An item comes from a direct instruction; one that does not comes from a chain. -/
def isDirect (x : ItemSrc) : Bool :=
  match x with
  | .direct _ => true
  | .chain .. => false

/-- An engine's item replaced. -/
def put (s : State) (i : EngItem) : State :=
  s.withEng fun e => { e with items := e.items.map fun z => if z.id = i.id then i else z }

/-- The arrivals that an item owes are applied while no item stands before it (R322). -/
def paid (s : State) (i : EngItem) : State :=
  if i.owed ≠ 0 ∧ (s.eng.items.all fun z => !z.precedes i) = true then (put s { i with owed := 0 }).itemArrive i i.owed none else s

/-- A physical page that a bulk engine may move a page to (R324). -/
def mayMove (s : State) (x : Xlat) (target : Nat) : Prop :=
  let pa := s.canonPa target
  let n := pageSize x.leaf.size
  pa % n = 0 ∧ (regionOf pa = .local ∧ populated pa = true ∧ populated (pa + n - 1) = true ∨ regionOf pa = .system)

/-- A completion word that cannot be written leaves the record of its translation fault, a write of no team (R204, R323). -/
def wordFault (s : State) (ctx va : Nat) (e : LErr) : State :=
  match e with
  | .park k l => s.errXlate ctx (agentRecord va k 1 l)
  | .err _ (some (k, l)) => s.errXlate ctx (agentRecord va k 1 l)
  | _ => s

/-- Items of direct instructions at an engine. -/
def directOf (s : State) (e : Nat) : List EngItem := s.eng.items.filter fun i => i.engine == e && isDirect i.src

/-- The entries of chains that an engine works on. -/
def chainOf (s : State) (e : Nat) : Nat :=
  (s.eng.items.filter fun i => i.engine == e && !isDirect i.src).length +
    (s.eng.colls.filter fun i => i.die * 128 + 76 == e && !isDirect i.src).length

/-- The result of a collective for a member: all-reduce and reduce-scatter by element, all-gather in order, broadcast of ordinal 0
(R403). -/
def resultFor (i : CollItem) (datas : List (List Byte)) (elem : Nat → List Byte) : List Byte :=
  if i.op = 0 then (List.range i.count).flatMap elem
  else if i.op = 1 then (List.range i.count).flatMap fun k => elem (i.self * i.count + k)
  else if i.op = 2 then datas.flatten else if i.op = 3 then datas.headD [] else []

end Sys2Proof.Claim

/-! ## Engines (spec/15_queue.md) -/

/-- R331: XCOPY, XGATHER and XMCAST send an item to their cluster's Bobbin and write its sequence number; with 16 direct items there
they wait; a size, row or count outside its limits raises ARITH. -/
def Obligations.EngineInstructions : Prop :=
  ∀ (s : State) (t : Team) (h : Hd) (o : Ec),
    let S := fun (k : Nat) => t.sreg (o.c.toNat + k)
    let int := fun (k : Nat) => scalarInt (S k).tag (S k).bits
    let va := fun (r : SReg) => (baseOf r).toNat
    let e := t.die * 128 + t.cluster % 72
    let ctx := s.ctxOf t
    let seq := FMap.lookD s.eng.seqs (e * 128 + ctx) 1
    let sized := 1 ≤ int 0 ∧ int 0 ≤ 2 ^ 22
    let rows := (int 0).toNat / 2 ^ 32
    let rowBytes := (int 0).toNat % 2 ^ 32
    let gathers := 0 ≤ int 0 ∧ rows ≤ 4096 ∧ rowBytes ≤ 4096 ∧ 4 ≤ rowBytes ∧ rowBytes % 4 = 0 ∧ 1 ≤ rows
    let item := fun (op size rb rw aux : Nat) =>
      { id := s.newId.1, engine := e, ctx := ctx, team := some t.id, src := .direct seq, op := op, acq := o.acq, rel := o.rel
        scope := o.scope.toNat, size := size, rowBytes := rb, rows := rw, dst := va (t.sreg o.a.toNat)
        source := va (t.sreg o.b.toNat), aux := aux, cword := va (S 2), cvalue := (S 3).bits.toNat % 2 ^ 32, bar := va (S 4)
        barLoc := none, dests := [], begun := false, landed := 0, bytes := 0, owed := 0, status := none, unwr := false
        since := s.now : EngItem }
    let sends := fun (i : Instr) (x : EngItem) =>
      ((directOf s e).length < 16 → completesIn i s t h.fb (s.newId.2.withEng fun g =>
        { g with items := g.items ++ [x], seqs := FMap.put g.seqs (e * 128 + ctx) (seq + 1) })
        (fun u => u.setS o.d.toNat (BitVec.ofNat 64 seq) 10)) ∧
      (16 ≤ (directOf s e).length → exec i s = .next (s.leavePipe t.id))
    s.issuing = some t → t.flagRoom h.fb = true → (t.sreg o.a.toNat).tag ∈ [10, 2, 12] → (t.sreg o.b.toNat).tag ∈ [10, 2, 12] →
    intTagged (S 0) → (S 2).tag ∈ [10, 2, 12] → (S 3).tag ∈ Tag.any → (S 4).tag ∈ [10, 2, 12] →
    (sized → sends (.xcopy h o) (item 0 (int 0).toNat 0 0 0)) ∧ (¬sized → errs (.xcopy h o) s t Code.arith) ∧
    ((S 1).tag ∈ [10, 2, 12] → (gathers → sends (.xgather h o) (item 1 0 rowBytes rows (va (S 1)))) ∧
      (¬gathers → errs (.xgather h o) s t Code.arith)) ∧
    (intTagged (S 1) → (sized → 1 ≤ int 1 → int 1 ≤ 16 → sends (.xmcast h o) (item 2 (int 0).toNat 0 0 (int 1).toNat)) ∧
      (¬sized ∨ int 1 < 1 ∨ 16 < int 1 → errs (.xmcast h o) s t Code.arith))

/-- R320, R322, R324: an item starts once: it resolves its barrier object, checks its operation and limits, acquires, and reads its
list of destinations, indices or target pages; where one of these is bad it fails before a byte moves. -/
def Sys2Proof.Claim.ItemStarts : Prop :=
  ∀ (s : State) (x : Nat) (i : EngItem),
    let w := s.itemWho i.engine i.ctx i.team
    let starts := fun (u : State) (y : EngItem) => exec (.directItem x) s = .next (put u y)
    let started := { i with begun := true, since := s.now }
    let bar := s.resolve w .rmw 32 32 i.bar
    s.eng.items.find? (·.id == x) = some i →
    (i.begun = true → exec (.directItem x) s = .next s) ∧
    (i.begun = false →
      (i.bar ≠ 0 → inWindow i.bar = false → starts s { started with status := some 2 }) ∧
      (i.bar ≠ 0 → inWindow i.bar = true →
        (∀ e, bar = .error e → starts s { started with status := some (itemStatus e) }) ∧
        (∀ p, bar = .ok p → (∀ l, p ≠ .win l) → starts s { started with status := some 2 })) ∧
      ∀ loc, (i.bar = 0 ∧ loc = none ∨ i.bar ≠ 0 ∧ inWindow i.bar = true ∧ ∃ l, bar = .ok (.win l) ∧ loc = some l) →
        let y := { started with barLoc := loc }
        let s1 := match i.team.bind s.team with
          | some t => if i.acq = true ∧ 4 ≤ i.scope then s.writeBackAll t.cluster else s
          | none => s
        let fails := fun st => starts s1 { y with status := some st }
        -- a list of n numbers of k bytes, aligned to them but for the indices of a gather
        let lists := fun (va al n k : Nat) (good : List Nat → Prop) =>
          (va % al ≠ 0 → fails 3) ∧
          (va % al = 0 →
            (∀ e, s1.engLoad i.engine w va (n * k) = .error e → fails (itemStatus e)) ∧
            ∀ bs u s2, s1.engLoad i.engine w va (n * k) = .ok (bs, u, s2) →
              let l := (List.range n).map fun j => leNat ((bs.drop (j * k)).take k)
              (good l → starts s2 { y with dests := l, unwr := u }) ∧ (¬good l → fails 2))
        (¬accepts i → starts s { y with status := some 6 }) ∧
        (accepts i → i.op = 4 → i.dst % 8 ≠ 0 → starts s { y with status := some 3 }) ∧
        (accepts i → i.op = 0 ∨ i.op = 5 ∨ i.op = 4 ∧ i.dst % 8 = 0 → starts s1 { y with dests := [], unwr := false }) ∧
        (accepts i → i.op = 1 → lists i.aux 1 i.rows 4 fun _ => True) ∧
        (accepts i → i.op = 2 → lists i.dst 8 i.aux 8 fun _ => True) ∧
        (accepts i → i.op = 3 →
          (∀ st, s1.itemPages i w = .error st → fails st) ∧
          ∀ ps, s1.itemPages i w = .ok ps →
            ((∃ p ∈ ps, p.2.leaf.pin = true) → fails 5) ∧
            ((∀ p ∈ ps, p.2.leaf.pin = false) →
              lists i.aux 8 ps.length 8 fun l => ∀ q ∈ ps.zip l, mayMove s1 q.1.2 q.2)))

/-- R322, R323, R324, R400: the pieces of an item land in order, or fail it with a status, or are held while no link reaches the
package they need; each adds its bytes to what the item owes its barrier, which it pays while no item stands before it; a piece late
by 65,536 cycles fails the item. -/
def Sys2Proof.Claim.PiecesLand : Prop :=
  ∀ (s : State) (x : Nat) (i : EngItem),
    let w := s.itemWho i.engine i.ctx i.team
    let fails := fun (y : EngItem) (st : Nat) => put s { y with status := some st }
    let lands := fun (u : State) => exec (.pieceLand x) s = .next u
    let moving := i.begun = true ∧ i.status = none ∧ i.landed < i.count
    let moved := fun (u : State) (n : Nat) (unwr : Bool) =>
      let y := { i with landed := i.landed + 1, bytes := i.bytes + n, owed := i.owed + n, unwr := i.unwr || unwr, since := u.now }
      paid (put u y) y
    let wait := s.waited (s.itemIslands i) i.since
    let failed := fun (e : LErr) (unwr : Bool) =>
      (e = .unreachable → lands s) ∧
      (e ≠ .unreachable → lands (put s { i with status := some (itemStatus e), unwr := i.unwr || unwr }))
    s.eng.items.find? (·.id == x) = some i →
    (i.op = 0 → cutInto i.dst 0 i.pieces i.size) ∧
    (¬moving → exec (.pieceLand x) s = .next s ∧ exec (.engineTimeout x) s = .next s) ∧
    (moving → (wait < 65536 → exec (.engineTimeout x) s = .next s) ∧
      (65536 ≤ wait → exec (.engineTimeout x) s = .next (fails i 8))) ∧
    ((∀ y ∈ s.svc.stalls, y.island ∉ s.itemIslands i) → wait = s.now - i.since) ∧
    (moving → i.op = 3 →
      (∀ st, s.itemPages i w = .error st → lands (fails i st)) ∧
      ∀ ps va q target, s.itemPages i w = .ok ps → ps[i.landed]? = some (va, q) → i.dests[i.landed]? = some target →
        lands (moved (s.movePage i.ctx va q target) (pageSize q.leaf.size) false)) ∧
    (moving → i.op ≠ 3 → ∀ va off n, i.pieces[i.landed]? = some (va, off, n) →
      (∀ e, s.pieceBytes i w off n = .error e → failed e false) ∧
      (∀ bs u s1, s.pieceBytes i w off n = .ok (bs, u, s1) →
        let check := s1.resolve w .wr bs.length 1 (va % 2 ^ 64)
        (∀ e, check = .error e → failed e u) ∧
        (∀ p, check = .ok p → ¬mayReach i.engine p → failed (.err Code.access none) u) ∧
        (∀ p, check = .ok p → mayReach i.engine p →
          (i.op ≠ 2 ∨ inPod p = false → lands (moved (s1.homePut w p bs) n u)) ∧
          ∀ q pa k, i.op = 2 → p = .dev q pa → regionOf pa = .pod k →
            lands (moved (s1.byDie w.die fun v => (v.usePlace w .wr p).sendOut k .multicast (.store pa bs)) n u)))) ∧
    (i.op = 4 → ∀ off n, s.pieceBytes i w off n =
      .ok ((List.range n).map fun j => BitVec.ofNat 8 (i.aux / 256 ^ ((off + j) % 8)), false, s))

/-- R90, R91, R99, R204, R228, R322 and R323: an item ends once its pieces have landed or it has failed, and every item before it is
gone: its release is performed, its completion word written, or the arrival of the bytes not landed made with ENGFAULT and an
ENGINE item appended; the items behind it then pay what they owe. -/
def Sys2Proof.Claim.ItemsEnd : Prop :=
  ∀ (s : State) (x : Nat) (i : EngItem),
    let gone := fun (u : State) => (u.withEng fun e => { e with items := e.items.filter (·.id ≠ i.id) }).payItems
    let ready := i.begun = true ∧ (i.status ≠ none ∨ i.landed = i.count) ∧ ∀ y ∈ s.eng.items, y.precedes i = false
    let cluster := if i.engine % 128 < 72 then some (i.engine / 128 * 72 + i.engine % 128) else (i.team.bind s.team).map (·.cluster)
    let s1 := match cluster with
      | some c => if i.rel = true ∧ 4 ≤ i.scope then s.writeBackAll c else s
      | none => s
    let w := s1.itemWho i.engine i.ctx i.team
    let ends := fun (u : State) => exec (.engineItemComplete x) s = .next u
    let failed := fun (u : State) (st : Nat) =>
      let d := st + if i.unwr then 2 ^ 8 else 0
      gone (((u.itemArrive i (i.total - i.bytes + i.owed) (some (BarCode.engfault, d))).errEngine i.ctx (u.itemCore i.team) d i.engine
        i.src).chainDone (u.itemWho i.engine i.ctx i.team) i.src d)
    let word := s1.completionWrite i.engine w i.cword i.cvalue
    let at' := s1.resolve w .wr 4 4 (i.cword % 2 ^ 64)
    s.eng.items.find? (·.id == x) = some i →
    (¬ready → ends s) ∧
    (ready → (∀ st, i.status = some st → st % 16 ≠ 0 → ends (failed s1 st)) ∧
      (i.status = none →
        (∀ u, word = .ok u → ends (gone (u.chainDone (u.itemWho i.engine i.ctx i.team) i.src (if i.unwr then 2 ^ 8 else 0)))) ∧
        (∀ e, word = .error e → itemStatus e % 16 ≠ 0 → ends (failed (wordFault s1 i.ctx i.cword e) (itemStatus e))))) ∧
    (i.cword = 0 → word = .ok s1) ∧
    (i.cword ≠ 0 → (∀ e, at' = .error e → word = .error e) ∧
      (∀ p, at' = .ok p → ¬mayReach i.engine p → word = .error (.err Code.access none)) ∧
      ∀ p l, at' = .ok p → mayReach i.engine p → p.loc = some l →
        let u := s1.homePut w p (leBytes 4 i.cvalue)
        word = .ok (if homedPlace p then u.wakeEvent l else u))

/-- R320 to R324: the engines' items, from their start to their end. -/
def Obligations.EngineItems : Prop :=
  Sys2Proof.Claim.ItemStarts ∧ Sys2Proof.Claim.PiecesLand ∧ Sys2Proof.Claim.ItemsEnd

/-- R322, R402 to R406: XCOLL begins an item at the die its descriptor names and writes its sequence number, or waits; its members'
contributions meet, and one that differs ends both items with BADDESC; it ends in order, once every contribution is whole, with a
result by operation, or with a status, not after its time, which runs out; a chain gives its engine the next visible entry, eight at
once. -/
def Obligations.Collectives : Prop :=
  ∀ (s : State) (t : Team) (h : Hd) (o : Ec) (x : Nat) (i : CollItem) (f : Flit) (ctx : Nat) (block : Word),
    let S := fun (k : Nat) => t.sreg (o.c.toNat + k)
    let va := fun (r : SReg) => (baseOf r).toNat
    let n := scalarInt (S 1).tag (S 1).bits
    let op := o.e.toNat % 2 ^ 3
    let die := s.collDie t (va (t.sreg o.a.toNat))
    let e := die * 128 + 76
    let seq := FMap.lookD s.eng.seqs (e * 128 + s.ctxOf t) 1
    let direct := s.eng.colls.filter fun y => y.die == die && isDirect y.src
    let s1 := s.newId.2.withEng fun g => { g with seqs := FMap.put g.seqs (e * 128 + s.ctxOf t) (seq + 1) }
    let new : CollItem :=
      { id := s.newId.1, die := die, ctx := s.ctxOf t, team := some t.id, src := .direct seq, op := op
        ty := o.e.toNat / 2 ^ 3 % 2 ^ 3, red := o.e.toNat / 2 ^ 6 % 2 ^ 2, count := n.toNat, acq := o.acq, rel := o.rel
        scope := o.scope.toNat, dst := va (S 0), source := va (t.sreg o.b.toNat), descVa := va (t.sreg o.a.toNat)
        cword := va (S 2), cvalue := (S 3).bits.toNat % 2 ^ 32, bar := va (S 4), group := 0, turn := 0, members := [], self := 0
        digest := [], barLoc := none, began := 0, limit := none, flits := [], status := none }
    let here := fun (y : CollItem) => y.die = f.die ∧ y.group = f.group ∧ y.turn = f.seq ∧ y.members ≠ []
    let waits := ∃ y ∈ s.eng.colls, y.precedes i = true
    let wide := i.ty = 2 ∨ i.ty = 4
    let m := i.members.length
    let bytes := i.count * if wide then 8 else 4
    let share := fun k => if i.op = 3 ∧ k ≠ 0 then 0 else if i.op = 1 then m * bytes else if i.op ∈ [0, 2, 3] then bytes else 0
    let all := ∀ k, k < m → ∃ g ∈ i.flits, g.ordinal = k ∧ g.data.length = share k
    let wait := s.waited [i.die * 64 + 61, i.die * 64 + 63] i.began
    let late := ∃ d, i.limit = some d ∧ d ≤ wait
    let released := fun (u : State) => match i.team.bind s.team with
      | some t => if i.rel = true ∧ 4 ≤ i.scope then u.writeBackAll t.cluster else u
      | none => u
    let who := s.itemWho (i.die * 128 + 76) i.ctx i.team
    let meets := fun (u : State) (y : CollItem) => u.withEng fun g =>
      { g with colls := g.colls.map fun (z : CollItem) => if z.id = y.id then y else z }
    let word := fun (d : List Byte) (k : Nat) => leNat ((d.drop (k * (if wide then 8 else 4))).take (if wide then 8 else 4))
    let w := nodeOf s 79 ctx
    (s.issuing = some t → t.flagRoom h.fb = true → (t.sreg o.a.toNat).tag ∈ [10, 2, 12] → (t.sreg o.b.toNat).tag ∈ [10, 2, 12] →
      (S 0).tag ∈ [10, 2, 12] → intTagged (S 1) → (S 2).tag ∈ [10, 2, 12] → (S 3).tag ∈ Tag.any → (S 4).tag ∈ [10, 2, 12] →
      (n < 0 ∨ 2 ^ 22 < n ∨ op = 4 ∧ n ≠ 0 → errs (.xcoll h o) s t Code.arith) ∧
      (0 ≤ n → n ≤ 2 ^ 22 → (op = 4 → n = 0) →
        (direct.length < 64 → completesIn (.xcoll h o) s t h.fb (s1.beginColl new false)
          (fun u => u.setS o.d.toNat (BitVec.ofNat 64 seq) 10)) ∧
        (64 ≤ direct.length → exec (.xcoll h o) s = .next (s.leavePipe t.id)))) ∧
    (s.eng.colls.find? (·.id == x) = some i →
      (waits → exec (.collectiveComplete x) s = .next s) ∧
      (¬waits → (∀ st, i.status = some st → exec (.collectiveComplete x) s = .next ((released s).endColl i st 0)) ∧
        (i.status = none → (all → ¬late → exec (.collectiveComplete x) s = .next (s.landColl i)) ∧
          (¬all ∨ late → exec (.collectiveComplete x) s = .next s))) ∧
      (i.status = none → late → exec (.collectiveTimeout x) s = .next (s.withEng fun g =>
        { g with colls := g.colls.map fun (y : CollItem) => if y.id = x then { y with status := some 8 } else y })) ∧
      (¬late ∨ i.status ≠ none → exec (.collectiveTimeout x) s = .next s)) ∧
    ((∀ y ∈ s.svc.stalls, y.island ≠ i.die * 64 + 61 ∧ y.island ≠ i.die * 64 + 63) → wait = s.now - i.began) ∧
    ((∀ e, s.collStore who i.dst i.result = .error e → s.landColl i = s.endColl i (itemStatus e) 0) ∧
      ∀ u, s.collStore who i.dst i.result = .ok u →
        let u1 := match i.team.bind u.team with
          | some t => if i.rel = true ∧ 4 ≤ i.scope then u.writeBackAll t.cluster else u
          | none => u
        let n := i.result.length
        let u2 := u1.collArrive i ((piecesFrom (n / 512 + 2) i.dst 0 n).map (·.2.2)) none
        (∀ v, u2.completionWrite (i.die * 128 + 76) who i.cword i.cvalue = .ok v → s.landColl i = v.endColl i 0 n) ∧
        (∀ e, u2.completionWrite (i.die * 128 + 76) who i.cword i.cvalue = .error e →
          s.landColl i = (wordFault u2 i.ctx i.cword e).endColl i (itemStatus e) n)) ∧
    (i.bar = 0 → let y : CollItem := { i with barLoc := none }
      let joins := fun (z : CollItem) => s.withEng fun g => { g with colls := g.colls ++ [z] }
      s.beginColl i true = joins { y with status := some 6 } ∧
      (i.op = 5 → s.beginColl i false = joins y) ∧
      (i.op ≠ 5 → i.descVa % 64 ≠ 0 → s.beginColl i false = joins { y with status := some 3 })) ∧
    (∀ elem : Nat → List Byte,
      (∀ k, elem k =
        if i.ty ≤ 2 ∧ i.red = 0 then leBytes (if wide then 8 else 4) (((i.datas.map fun d => word d k).sum) % 2 ^ (if wide then 64 else 32))
        else leBytes (if wide then 8 else 4) (reduceElem i.ty i.red i.datas k)) →
      i.members.length ≤ 256 → 1 ≤ i.members.length → i.result = resultFor i i.datas elem) ∧
    (((∀ y ∈ s.eng.colls, ¬here y) →
        (f.seq < s.turnsOf f.die f.group → exec (.collectiveFlit f) s = .next s) ∧
        (s.turnsOf f.die f.group ≤ f.seq → exec (.collectiveFlit f) s =
          .next (s.withEng fun g => { g with early := g.early ++ [f] }))) ∧
      (i ∈ s.eng.colls → here i → (∀ y ∈ s.eng.colls, here y → y = i) →
        let same := f.digest = i.digest ∧ f.op = i.op ∧ f.ty = i.ty ∧ f.red = i.red ∧ f.count = i.count
        let new := f.ordinal < m ∧ ∀ g ∈ i.flits, g.ordinal ≠ f.ordinal
        (same → new → exec (.collectiveFlit f) s = .next (meets s { i with flits := i.flits ++ [f] })) ∧
        (same → ¬new → exec (.collectiveFlit f) s = .next (meets s i)) ∧
        (¬same → exec (.collectiveFlit f) s =
          .next (meets (s.toMembers i [f.pkg] (.mismatch i.group i.turn)) { i with status := some (i.status.getD 6) })))) ∧
    ((s.ctx ctx).st ≠ .free → s.isUnreached w block.toNat = false →
      (∀ y, s.meetBlock w block.toNat = .unreachable y →
        exec (.chainEntry ctx block) s = .next (s.noteUnreached w block.toNat (some y))) ∧
      (s.meetBlock w block.toNat = .malformed → exec (.chainEntry ctx block) s = .next (s.noteUnreached w block.toNat none)) ∧
      (∀ b key q p, s.meetBlock w block.toNat = .ok b key q p →
        (q.kind ≠ 3 ∨ q.tail ≤ q.claim ∨ 8 ≤ chainOf s q.engine → exec (.chainEntry ctx block) s = .next s) ∧
        (q.kind = 3 → q.claim < q.tail → chainOf s q.engine < 8 → exec (.chainEntry ctx block) s =
          .next ((((s.usePlace w .rmw p).touchHome p).noteServed w block.toNat).walkChain ctx block.toNat b key q)))) ∧
    ((s.ctx ctx).st = .free ∨ s.isUnreached w block.toNat = true → exec (.chainEntry ctx block) s = .next s)

namespace Sys2Proof.Claim

/-! ## Launches (spec/06_kernel_image.md, spec/16_kernel_launch.md) -/

/-- The bits from lo to hi of a value. -/
def field (v hi lo : Nat) : Nat := v / 2 ^ lo % 2 ^ (hi + 1 - lo)

/-- The fields of a kernel header's 512 bits (R106). -/
def headerOf (v : Nat) : KHdr :=
  { codeSize := field v 63 32, lanes := field v 74 64, teams := field v 84 80, groups := field v 91 88, vregs := field v 104 96
    accs := field v 116 112, scratch := field v 159 128, cluster := field v 191 160, priv := field v 208 192
    ftz := v.testBit 224, i4trap := v.testBit 225, unwr := v.testBit 226, entry := field v 287 256, dataSize := field v 319 288 }

/-- The header passes R107. -/
def goodKernel (v : Nat) : Prop :=
  let h := headerOf v
  field v 15 0 = 0x100 ∧ field v 31 16 = 64 ∧ h.codeSize ≠ 0 ∧ h.codeSize % 8 = 0 ∧ 32 ≤ h.lanes ∧ h.lanes ≤ 1024 ∧
  h.lanes % 32 = 0 ∧ field v 79 75 = 0 ∧ 1 ≤ h.teams ∧ h.teams ≤ 16 ∧ field v 87 85 = 0 ∧ 1 ≤ h.groups ∧ h.groups ≤ 8 ∧
  field v 95 92 = 0 ∧ h.vregs ≤ 256 ∧ field v 111 105 = 0 ∧ h.accs ≤ 16 ∧ field v 127 117 = 0 ∧ h.scratch ≤ 2 ^ 20 ∧
  h.scratch % 4 = 0 ∧ h.cluster ≤ 2 ^ 24 ∧ h.cluster % 4 = 0 ∧ h.priv ≤ 65536 ∧ h.priv % 4 = 0 ∧ field v 223 209 = 0 ∧
  field v 255 227 = 0 ∧ h.entry % 8 = 0 ∧ h.entry < h.codeSize ∧ h.dataSize % 8 = 0 ∧ field v 511 320 = 0

/-- A launch record gives BADREC (R336, R344). -/
def badRecord (v : Nat) : Prop :=
  let mode := field v 3 0
  4 ≤ mode ∨ field v 15 4 ≠ 0 ∨ field v 383 368 ≠ 0 ∨ field v 511 448 ≠ 0 ∨
  mode = 3 ∧ (field v 63 32 ≠ 0 ∨ field v 127 64 ≠ 0) ∨ mode = 0 ∧ (field v 255 192 ≠ 0 ∨ field v 63 32 = 0) ∨
  mode ≠ 2 ∧ field v 367 352 ≠ 0

/-- A launch as it stands after Checking. -/
def launchOf (s : State) (p : Part) (i va v : Nat) (hdr : Option KHdr) (st : LaunchState) (status : Nat) (waits : Option Nat) : Launch :=
  { id := s.newId.1, ctx := p.ctx, part := p.num, queue := p.lq, index := i, addr := va, mode := field v 3 0
    count := field v 63 32, kernel := field v 127 64, args := field v 191 128, rqueue := field v 255 192
    cword := field v 319 256, cvalue := field v 351 320, node := field v 367 352, hdr := hdr, st := st, status := status
    retired := 0, rejected := 0, launched := 0, cands := [], timer := none, expired := false, undone := [], waits := waits
    nextTry := 0, held := false }

/-- A launch joins the scheduler's. -/
def withLaunch (u : State) (l : Launch) : State := u.withSched fun x => { x with launches := x.launches ++ [l] }

/-- A launch of the scheduler changed. -/
def changeLaunch (u : State) (l : Nat) (f : Launch → Launch) : State :=
  u.withSched fun x => { x with launches := x.launches.map fun y => if y.id = l then f y else y }

/-- A gang of a stage: its records from index f, its lanes and its flags (R339, R340). -/
def stageGang (l : Launch) (h : KHdr) (q : Qcb) (m lanes flags : Nat) : Cand :=
  { origin := .launch l.id, ctx := l.ctx, part := l.part, ordinal := q.claim, hdr := h, image := l.kernel, args := l.args
    record := (q.base + q.claim % 2 ^ q.rcap * 2 ^ q.rsize) % 2 ^ 64, lrec := l.addr, lflags := flags, lanes := lanes
    cword := 0, cvalue := 0, claim := some { first := q.claim, count := m }, range := none, rank := l.id * 2 ^ 64 + q.claim }

/-- The launch after its stage claims a gang: it drains once it has launched its count (R342). -/
def afterClaim (c : Cand) (l : Launch) : Launch :=
  { l with cands := l.cands ++ [c], launched := l.launched + 1
           st := if l.count ≠ 0 ∧ l.count ≤ l.launched + 1 then .draining else l.st }

/-- A stage may claim: it is Placing, its context runs, it holds fewer than 256 gangs, and its block can be used (R343, R453). -/
def mayClaim (s : State) (l : Launch) : Prop :=
  l.st = .placing ∧ (s.ctx l.ctx).st = .running ∧ (s.ctx l.ctx).switching = false ∧ l.cands.length < 256 ∧
  s.isUnreached (nodeOf s 81 l.ctx) l.rqueue = false

end Sys2Proof.Claim

/-! ## Launches (spec/06_kernel_image.md, spec/16_kernel_launch.md) -/

/-- R106, R107, R336 to R338 and R344: a header is read as its fields or refused; a record leaves Checking with BADREC, BADHDR,
TOOBIG or BADQ, in that order, or is placed; a stop record stops the stage of its queue; the scheduler claims a partition's records
in index order, and waits for, or passes over, one it cannot read; the flush timer of a stage bound to a queue with visible records
runs since their number became nonzero. -/
def Obligations.LaunchAcceptance : Prop :=
  ∀ (s : State) (p : Part) (i va v n : Nat) (h : KHdr) (u : State),
    let s1 := s.newId.2
    let mode := field v 3 0
    let is := fun hdr st status waits => launchOf s p i va v hdr st status waits
    let w := nodeOf s 80 p.ctx
    let runs := (s.ctx p.ctx).st = .running ∧ (s.ctx p.ctx).switching = false
    (goodKernel v → KHdr.ofNat v = some (headerOf v)) ∧ (¬goodKernel v → KHdr.ofNat v = none) ∧
    (badRecord v → s.acceptRecord p i va v = withLaunch s1 (is none .checking 3 none)) ∧
    (¬badRecord v → mode = 3 → s1.stageOf p.ctx (field v 255 192) = none →
      s.acceptRecord p i va v = withLaunch s1 (is none .checking 4 none)) ∧
    (¬badRecord v → mode = 3 → ∀ l, s1.stageOf p.ctx (field v 255 192) = some l →
      s.acceptRecord p i va v = withLaunch (changeLaunch s1 l.id fun y => { y with st := .draining }) (is none .draining 0 (some l.id))) ∧
    (¬badRecord v → mode ≠ 3 → s1.readHeader p.ctx (field v 127 64) = none →
      s.acceptRecord p i va v = withLaunch s1 (is none .checking 1 none)) ∧
    (¬badRecord v → mode ≠ 3 → s1.readHeader p.ctx (field v 127 64) = some (h, u) →
      (u.spaceOf p.num p.ctx < h.footprint → s.acceptRecord p i va v = withLaunch u (is (some h) .checking 2 none)) ∧
      (h.footprint ≤ u.spaceOf p.num p.ctx → mode = 0 →
        s.acceptRecord p i va v = withLaunch u (is (some h) .placing 0 none)) ∧
      (h.footprint ≤ u.spaceOf p.num p.ctx → mode ∈ [1, 2] → ∀ b key q pl, u.meetBlock w (field v 255 192) = .ok b key q pl →
        let good := q.kind = 1 ∧ (mode = 2 → q.rsize = 4) ∧ (u.qaux b).bound = none
        (¬good → s.acceptRecord p i va v = withLaunch u (is (some h) .checking 4 none)) ∧
        (good → ∃ k, s.acceptRecord p i va v =
          (withLaunch (u.usePlace w .rmw pl) (is (some h) .placing 0 none)).bindStage k b s.newId.1)) ∧
      (h.footprint ≤ u.spaceOf p.num p.ctx → mode ∈ [1, 2] → u.meetBlock w (field v 255 192) = .malformed →
        s.acceptRecord p i va v = withLaunch u (is (some h) .checking 4 none))) ∧
    (s.sched.parts.find? (·.num == n) = some p →
      (¬runs → exec (.launchAccept n) s = .next s ∧ exec (.blockRetry (.launchQueue n)) s = .next s) ∧
      (runs → s.launchHeld p = false → exec (.launchAccept n) s = .next (s.serveLaunch p)) ∧
      (s.launchHeld p = true → exec (.launchAccept n) s = .next s) ∧
      (runs → s.retryDue w p.lq = true → exec (.blockRetry (.launchQueue n)) s = .next (s.serveLaunch p))) ∧
    (∀ f, s.meetBlock w p.lq = .unreachable f → s.serveLaunch p = s.noteUnreached w p.lq (some f)) ∧
    (s.meetBlock w p.lq = .malformed → s.serveLaunch p = s.noteUnreached w p.lq none) ∧
    (∀ b key q pl, s.meetBlock w p.lq = .ok b key q pl →
      let r := ((s.usePlace w .rmw pl).touchHome pl).noteServed w p.lq
      let slot := (q.base + q.claim % 2 ^ q.rcap * 2 ^ q.rsize) % 2 ^ 64
      let claimed := fun (x : State) => (x.noteServed w slot).locWrite key (b.add 32) (leBytes 8 (q.claim + 1))
      (q.kind ≠ 0 → s.serveLaunch p = r.noteUnreached w p.lq none) ∧
      (q.kind = 0 → q.tail ≤ q.claim → s.serveLaunch p = r) ∧
      (q.kind = 0 → q.claim < q.tail →
        (∀ bs x, r.agentRead w slot 64 = .ok (bs, x) → s.serveLaunch p = (claimed x).acceptRecord p q.claim slot (leNat bs)) ∧
        (∀ k l, r.agentRead w slot 64 = .error (.park k l) → s.serveLaunch p =
          r.noteUnreached w slot (some { va := slot, kind := k, access := 0, level := l, lanes := 1 })) ∧
        (∀ c k l, r.agentRead w slot 64 = .error (.err c (some (k, l))) → s.serveLaunch p =
          (claimed (r.errXlate p.ctx (agentRecord slot k 0 l))).qMarkDone key b q.claim 1) ∧
        (∀ e, r.agentRead w slot 64 = .error e → (e = .unreachable ∨ ∃ c, e = .err c none) →
          s.serveLaunch p = (claimed r).qMarkDone key b q.claim 1))) ∧
    (∀ key b l q, s.qcb key b = some q →
      let s' := s.modQaux b fun y => { y with bound := some l }
      s.bindStage key b l = if q.claim < q.tail then
        changeLaunch s' l fun y => { y with timer := some ((s.qaux b).since.getD s.now) } else s')

/-- R339 to R343: a row stage claims 32 visible records, or all of fewer when a flush is requested or its timer has run out; a tile
stage takes one record at a time, rejects a defective one and holds one it cannot read; a stage that may not claim does nothing; one
that can use its queue again marks done the claims it could not. -/
def Obligations.Stages : Prop :=
  ∀ (s : State) (l : Nat) (x : Launch) (h : KHdr) (b : Loc) (key : Option Nat) (q : Qcb) (pl : Place),
    let w := nodeOf s 81 x.ctx
    let u := ((s.usePlace w .rmw pl).touchHome pl).noteServed w x.rqueue
    let v := q.tail - q.claim
    let slot := (q.base + q.claim % 2 ^ q.rcap * 2 ^ q.rsize) % 2 ^ 64
    let advance := fun (y : State) m => y.locWrite key (b.add 32) (leBytes 8 (q.claim + m))
    let rows := fun m (flush : Bool) =>
      let y := if flush then (advance u m).locWrite key (b.add 56) (leBytes 8 q.retry) else advance u m
      changeLaunch y x.id fun z => { afterClaim (stageGang x h q m m (if flush then 2 else 0)) z with
        timer := if q.claim + m < q.tail then some y.now else none, expired := false }
    let ran := q.timer ≠ 0 ∧ ∃ t, x.timer = some t ∧ t + q.timer * 940 ≤ s.now
    let reject := fun (y : State) code bs => (changeLaunch ((advance y 1).qMarkDone key b q.claim 1) x.id
      fun z => { z with rejected := z.rejected + 1, held := false }).errItem x.ctx 4 code 0xFFFFFFFF
        (leBytes 8 q.claim ++ leBytes 8 x.rqueue ++ padTo 16 bs)
    let bad := fun r => field r 15 0 ≠ x.node ∨ field r 101 96 = 0 ∨ 32 < field r 101 96 ∨ field r 127 102 ≠ 0
    let tile := fun r => field r 101 96
    let tries := (x.held = false ∨ x.nextTry ≤ s.now)
    let item := fun k lv => agentRecord slot k 0 lv
    s.sched.launches.find? (·.id == l) = some x → x.hdr = some h →
    (¬mayClaim s x ∨ x.mode ≠ 1 → exec (.rowStageClaim l) s = .next s) ∧
    (¬mayClaim s x ∨ x.mode ≠ 2 → exec (.tileStageClaim l) s = .next s) ∧
    (s.meetBlock w x.rqueue = .ok b key q pl →
      (x.mode = 1 → mayClaim s x →
        (32 ≤ v → exec (.rowStageClaim l) s = .next (rows 32 false)) ∧
        (1 ≤ v → v < 32 → q.flreq = true ∨ x.expired = true → exec (.rowStageClaim l) s = .next (rows v true)) ∧
        (v < 32 → v = 0 ∨ q.flreq = false ∧ x.expired = false → exec (.rowStageClaim l) s = .next s)) ∧
      (x.mode = 1 → x.st = .placing → (s.ctx x.ctx).st = .running → (s.ctx x.ctx).switching = false → x.expired = false →
        s.isUnreached w x.rqueue = false →
        (¬ran ∨ v = 0 ∨ 32 ≤ v → exec (.flushTimerExpiry l) s = .next s) ∧
        (ran → 1 ≤ v → v < 32 → x.cands.length < 256 → exec (.flushTimerExpiry l) s = .next (rows v true)) ∧
        (ran → 1 ≤ v → v < 32 → 256 ≤ x.cands.length →
          exec (.flushTimerExpiry l) s = .next (changeLaunch u l fun y => { y with expired := true }))) ∧
      (x.mode = 2 → mayClaim s x → ∀ e, (e = .tileStageClaim l ∧ x.held = false) ∨
          (e = .blockRetry (.tileRecord l) ∧ x.held = true ∧ tries) →
        (q.tail ≤ q.claim → exec e s = .next u) ∧
        (q.claim < q.tail →
          (∀ bs y, u.agentRead w slot 16 = .ok (bs, y) →
            (bad (leNat bs) → exec e s = .next (reject y 0 bs)) ∧
            (¬bad (leNat bs) → exec e s = .next (changeLaunch (advance y 1) x.id fun z =>
              { afterClaim (stageGang x h q 1 (tile (leNat bs)) (4 + field (leNat bs) 31 16 * 2 ^ 16)) z with held := false }))) ∧
          (∀ k lv, u.agentRead w slot 16 = .error (.park k lv) → exec e s =
            .next (changeLaunch (if x.held then u else u.errXlate x.ctx (item k lv)) x.id fun z =>
              { z with held := true, nextTry := (if x.held then u else u.errXlate x.ctx (item k lv)).now + 15040 })) ∧
          (∀ c k lv, u.agentRead w slot 16 = .error (.err c (some (k, lv))) → exec e s = .next (reject u k []))))) ∧
    (∀ f, s.meetBlock w x.rqueue = .unreachable f → s.retryDue w x.rqueue = true →
      exec (.blockRetry (.stage l)) s = .next (s.noteUnreached w x.rqueue (some f))) ∧
    (s.meetBlock w x.rqueue = .malformed → s.retryDue w x.rqueue = true →
      exec (.blockRetry (.stage l)) s = .next (s.noteUnreached w x.rqueue none)) ∧
    (s.meetBlock w x.rqueue = .ok b key q pl → s.retryDue w x.rqueue = true →
      exec (.blockRetry (.stage l)) s = .next (changeLaunch (x.undone.foldl (fun y c => y.qMarkDone key b c.first c.count) u) x.id
        fun y => { y with undone := [] })) ∧
    (s.retryDue w x.rqueue = false → exec (.blockRetry (.stage l)) s = .next s)

/-- R347 to R349: a waiting gang is placed at the fitting place of the die with the fewest lanes, then the lowest cluster and core,
on clusters of its partition that no gang of higher standing waits for, each group in one free block of its core, the lowest such
(log entry 20); its teams start as R348 sets them up; one that an empty core cannot hold is dropped. -/
def Obligations.Placement : Prop :=
  ∀ (s : State) (n cl k : Nat) (c : Cand),
    let h := c.hdr
    let part := ((s.sched.parts.find? fun x => x.num == c.part && x.ctx == c.ctx).map (·.clusters)).getD []
    let runs := (s.ctx c.ctx).st = .running ∧ (s.ctx c.ctx).switching = false
    let free := fun x => x ∈ part ∧ s.clusterStalled x = false ∧
      ∀ y ∈ s.waitingCands, s.stands y c = true → x ∉ s.partClusters y.part y.ctx
    let room := fun core x b => b % 4096 = 0 ∧ freeAt (s.extents core none) (s.placeSpace x) h.footprint b = true
    let fits := fun x m => free x ∧ m < 8 ∧ ∀ i, i < h.groups → m + i < 8 ∧ s.coreUsable (x * 8 + m + i) = true ∧
      (s.coreLoad (x * 8 + m + i)).1 + h.teams ≤ 32 ∧ (s.coreLoad (x * 8 + m + i)).2 + h.teams * h.lanes ≤ 16384 ∧
      ∃ b, room (x * 8 + m + i) x b
    let lanes := fun x => s.dieLanes part (x / 72)
    let sooner := fun x m => lanes cl < lanes x ∨ lanes cl = lanes x ∧ (cl < x ∨ cl = x ∧ k ≤ m)
    let u := (s.takeCand c).placeGang c cl k
    let g := (s.takeCand c).newId.1
    s.candAt n = some c →
    (¬runs → exec (.gangPlace n) s = .next s) ∧
    (runs → s.spaceOf c.part c.ctx < h.footprint → exec (.gangPlace n) s = .next (s.dropCands c)) ∧
    (runs → h.footprint ≤ s.spaceOf c.part c.ctx → (∀ x m, ¬fits x m) → exec (.gangPlace n) s = .next s) ∧
    (runs → h.footprint ≤ s.spaceOf c.part c.ctx → fits cl k → (∀ x m, fits x m → sooner x m) →
      exec (.gangPlace n) s = .next u) ∧
    (h.teams ≤ 16 → k + h.groups ≤ 8 → h.lanes ≤ 1024 → c.lanes ≤ h.lanes →
      (∃ y, u.gang g = some y ∧ y.src = c ∧ y.st = .resident ∧ y.off = false ∧ y.cluster = cl ∧ y.groups.length = h.groups ∧
        ∀ i z, y.groups[i]? = some z → z.core = cl * 8 + k + i ∧ z.bytes = [] ∧ z.valid = 0 ∧ z.share = [] ∧ z.svalid = 0 ∧
          ∀ b, room z.core cl b → room z.core cl z.base ∧ z.base ≤ b) ∧
      ∀ i j, i < h.groups → j < h.teams → ∃ t, u.team (g * 256 + i * 16 + j) = some t ∧ t.core = cl * 8 + k + i ∧ t.st = .ready ∧
        t.pc = h.entry ∧ t.lanes = h.lanes ∧ t.vregs = h.vregs ∧ t.accs = h.accs ∧ t.priv = h.priv ∧ t.stack = [] ∧ t.x = 0 ∧
        t.sticky = 0 ∧ t.pend = [] ∧ t.readers = [] ∧ t.bars = [] ∧ t.prick.p = 2 ^ 32 - 1 ∧ t.prick.n = 0 ∧
        (∀ l, l < 1024 → t.cur.getLsbD l = decide (l < c.lanes) ∧ t.exited.getLsbD l = decide (c.lanes ≤ l ∧ l < h.lanes)) ∧
        (∀ r, (t.sreg r).tag = 0) ∧ (∀ v w, t.vtag v w = 0) ∧ (∀ a w, t.accTag a w = none) ∧ (∀ p, p ≠ 15 → t.pred p = 0) ∧
        (∀ m l, t.kreg m l = 0))

/-- R167, R339, R342 and R346: an ended team whose work is done, the records it appended written (log entry 38), gives up its slot;
the gang of its last one retires, its cluster's dirty bytes written back, and is counted; a stage's claim is done, at once or when its
queue can be used again; a launch with nothing left writes its status and counts into its record, adds to its completion word, and
its record is done. -/
def Obligations.GangAndLaunchEnd : Prop :=
  ∀ (s : State) (k l : Nat) (t : Team) (g : Gang) (x : Launch),
    let busy := t.pend ≠ [] ∨ (∃ w ∈ (s.core t.core).queue ++ (s.core t.core).sweep, w.team = t.id) ∨
      ∃ r ∈ s.eng.rows, r.faulted = false ∧ (r.index, k) ∈ (s.qaux r.block).owners
    let gone := t.st = .ended ∧ t.freed = false ∧ g.st = .resident ∧ ¬busy
    let u := (((s.leaveBars t false).dropNear t 0).modTeam k fun v => { v with freed := true }).settleHalt t.gang t.group
    let retired := (((u.writeBackAll g.cluster).countGang g false).removeGang g.handle).settleSwitch g.src.ctx
    let w := nodeOf s 80 x.ctx
    let ends := match x.st with
      | .checking => x.status ≠ 0
      | .placing => False
      | .draining => match x.waits with
        | some y => ∀ z, s.sched.launches.find? (·.id == y) = some z → z.st = .complete
        | none => x.cands = [] ∧ x.undone = [] ∧ ∀ y ∈ s.gangs, y.2.src.origin ≠ .launch x.id
      | .complete => False
    (s.team k = some t → s.gangOf t = some g →
      (¬gone → exec (.teamEnd k) s = .next s) ∧
      (gone → (∀ y ∈ u.teamsOf t.gang, y.freed = true) → exec (.teamEnd k) s = .next retired) ∧
      (gone → (∃ y ∈ u.teamsOf t.gang, y.freed = false) → exec (.teamEnd k) s = .next u)) ∧
    (s.sched.launches.find? (·.id == l) = some x →
      (¬ends ∨ s.isUnreached w x.queue = true → exec (.launchComplete l) s = .next s) ∧
      (ends → s.isUnreached w x.queue = false →
        (s.meetBlock w x.queue = .malformed → exec (.launchComplete l) s = .next (s.noteUnreached w x.queue none)) ∧
        ∀ b key q pl, s.meetBlock w x.queue = .ok b key q pl →
          let s0 := ((s.usePlace w .rmw pl).touchHome pl).noteServed w x.queue
          ∀ s1 s2, s0.agentWrite w (x.addr + 2) (leBytes 2 x.status) = .ok s1 →
            s1.agentWrite w (x.addr + 48) (leBytes 4 (x.retired % 2 ^ 32) ++ leBytes 4 (x.rejected % 2 ^ 32)) = .ok s2 →
            let s3 := s2.countWord x.ctx x.cword x.cvalue
            ∀ b' key' q' pl', s3.meetBlock w x.queue = .ok b' key' q' pl' →
              let s4 := (((s3.usePlace w .rmw pl').touchHome pl').noteServed w x.queue).qMarkDone key' b' x.index 1
              exec (.launchComplete l) s = .next (changeLaunch (s4.withEng fun e =>
                { e with qaux := e.qaux.map fun (y : QAux) => if y.bound = some x.id then { y with bound := none } else y }) x.id
                fun y => { y with st := .complete }))) ∧
    (∀ c : Claim, let v := nodeOf s 81 x.ctx
      let l' := x.undone ++ [c]
      let s1 := changeLaunch s x.id fun y => { y with undone := l' }
      (∀ f, s1.meetBlock v x.rqueue = .unreachable f → s.claimDone x (some c) = s1.noteUnreached v x.rqueue (some f)) ∧
      (s1.meetBlock v x.rqueue = .malformed → s.claimDone x (some c) = s1.noteUnreached v x.rqueue none) ∧
      ∀ b key q pl, s1.meetBlock v x.rqueue = .ok b key q pl →
        let s2 := ((s1.usePlace v .rmw pl).touchHome pl).noteServed v x.rqueue
        s.claimDone x (some c) = changeLaunch (l'.foldl (fun y c => y.qMarkDone key b c.first c.count) s2) x.id
          fun y => { y with undone := [] })

namespace Sys2Proof.Claim

/-! ## Pipes (spec/16_kernel_launch.md R350, spec/06_kernel_image.md R109 to R116) -/

/-- The rank of a Ready team on its pipe: the handler, boosted teams, tick-launched gangs, then priorities (R350). -/
def rankOf (s : State) (t : Team) (g : Gang) : Nat :=
  match g.src.origin with
  | .handler _ => 0
  | .tick _ _ => if t.boost then 1 else 2
  | .launch _ => if t.boost then 1 else 3 + ((s.sched.parts.find? (·.num == g.src.part)).map (·.prio)).getD 7

/-- A team stands first on its pipe: it is Ready there, and of every other Ready team it has the lower rank, or within a rank the
earlier boost or last clause. -/
def standsFirst (s : State) (p : Nat) (t : Team) : Prop :=
  let orderOf := fun (u : Team) r => if r = 1 then u.passed.getD 0 else u.lastIssue
  t.pipe = p ∧ t.st = .ready ∧ (∃ k, (k, t) ∈ s.teams) ∧
  ∀ k u gt gu, (k, u) ∈ s.teams → u.pipe = p → u.st = .ready → s.gangOf t = some gt → s.gangOf u = some gu → u = t ∨
    rankOf s t gt < rankOf s u gu ∨ rankOf s t gt = rankOf s u gu ∧
      (orderOf t (rankOf s t gt) < orderOf u (rankOf s u gu) ∨
        orderOf t (rankOf s t gt) = orderOf u (rankOf s u gu) ∧ t.id < u.id)

/-- A team holds its pipe: no longer boosted or passed over, its clause begins now. -/
def holdsPipe (u : State) (t : Team) : State :=
  { u.setTeam { t with boost := false, passed := none, lastIssue := 2 * u.now } with
    running := FMap.put u.running t.pipe (t.id, u.now) }

/-- A team takes an error at a code offset where no clause is in progress. -/
def failsAt (u : State) (t : Team) (pc : Nat) : State :=
  (u.setTeam { t with pc := pc }).takeTrap { t with pc := pc } (.err Code.illegal none)

/-- A wait of a team ends with its result: it is Ready and goes on behind the instruction (R166). -/
def endsWait (u : State) (k : Nat) (f : Team → Team) (v : Team) : Prop :=
  ∃ w, (u.endWait k f).team k = some w ∧ (f v).sameRegs w ∧ w.st = .ready ∧ w.pc = (f v).pc + 8

end Sys2Proof.Claim

/-! ## Pipes (spec/16_kernel_launch.md, spec/06_kernel_image.md) -/

/-- R109 to R116, R131 and R350: a free pipe takes the team that stands first: its interrupted clause resumes; else the clause at
its program counter starts once the flags it waits for are clear, fetched and decoded whole; a header or word that is bad raises
ILLEGAL there. A clause leaves after 2,048 cycles; a team passed over for 64 is boosted. -/
def Obligations.ClausesOfPipes : Prop :=
  ∀ (s : State) (p k : Nat) (t : Team) (g : Gang) (hp : Place) (places : Nat → Place) (hd : Header) (r : Nat × Nat),
    let v := s.passOver p t.id
    let size := g.src.hdr.codeSize
    let n := hd.count.toNat + 1
    let ps := (List.range n).map places
    let words := ps.map v.fetchAt
    let issues := fun (u : State) => exec (.clauseIssue p) s = .next u
    (FMap.look s.running p = some r → issues s ∧
      (r.2 + 2048 ≤ s.now → s.sweeping p = false → exec (.clauseTimeslice p) s = .next { s with running := FMap.del s.running p }) ∧
      (s.now < r.2 + 2048 ∨ s.sweeping p = true → exec (.clauseTimeslice p) s = .next s)) ∧
    (FMap.look s.running p = none → exec (.clauseTimeslice p) s = .next s ∧
      ((∀ k u, (k, u) ∈ s.teams → u.pipe ≠ p ∨ u.st ≠ .ready) → issues s) ∧
      (standsFirst s p t → (∀ k u, (k, u) ∈ s.teams → (s.gangOf u).isSome = true) →
        (t.clause ≠ none → issues (holdsPipe v t)) ∧
        (t.clause = none → v.gangOf t = some g →
          (size ≤ t.pc → issues (failsAt v t t.pc)) ∧
          (t.pc < size → v.fetchPlace t g t.pc = .ok hp →
            ((∀ x, decodeHeader (v.fetchAt hp) ≠ .ok x) → issues (failsAt v t t.pc)) ∧
            (decodeHeader (v.fetchAt hp) = .ok hd →
              ((∃ e ∈ t.pend, hd.wait.toNat.testBit e.flag = true) →
                (t.skidLeft ≠ 0 → issues (v.endSkid t.id)) ∧
                (t.skidLeft = 0 → issues (v.setTeam
                  { t with st := .waiting (.flags hd.wait.toNat), passed := if t.boost then t.passed else none }))) ∧
              ((∀ e ∈ t.pend, hd.wait.toNat.testBit e.flag = false) →
                (size < t.pc + 8 + 8 * n → issues (failsAt v t t.pc)) ∧
                (t.pc + 8 + 8 * n ≤ size → (∀ i, i < n → v.fetchPlace t g (t.pc + 8 + 8 * i) = .ok (places i)) →
                  (∀ i, firstFault hd.cls.toNat t.pc size words 0 = some i → issues (failsAt v t (t.pc + 8 + 8 * i))) ∧
                  (firstFault hd.cls.toNat t.pc size words 0 = none → issues (holdsPipe (v.usePlaces t .ex (hp :: ps))
                    { t with pc := t.pc + 8
                             clause := some { base := t.pc, flagA := hd.flagA.toNat, flagB := hd.flagB.toNat, yield := hd.yield,
                                              words := words } }))))))))) ∧
    (s.team k = some t →
      (∀ c, t.passed = some c →
        (t.st = .ready → t.boost = false → c + 64 ≤ s.now →
          exec (.boost k) s = .next (s.setTeam { t with boost := true, passed := some s.now })) ∧
        (t.st ≠ .ready ∨ t.boost = true ∨ s.now < c + 64 → exec (.boost k) s = .next s)) ∧
      (t.passed = none → exec (.boost k) s = .next s))

/-- R114, R166, R177, R188, R228, R229, R373 and R400: a pending completion leaves its flag, an MMA's after its last word-op and a
remote access's once it is no longer under way, and a team that waited for it is Ready; a sleeper wakes at its time; a waiter ends
with TIMEOUT at its deadline or with the status it was woken with; a Growing team gets its registers, oldest first, where a block of
free bytes takes the group's, its dirty near slots written back where that block is another; where a core's teams all grow, its youngest gang is pre-empted, or its one gang compacted; a narrow
releaser's cluster writes back. -/
def Obligations.WaitsEnd : Prop :=
  ∀ (s : State) (k i c : Nat) (t : Team) (e : Pend) (word : Loc) (cond ty scope dl d st n since : Nat) (cmp : Word) (acq : Bool)
    (wake : Nat),
    let busy := (∃ m, e.mma = some m ∧ ∃ w ∈ (s.core t.core).queue ++ (s.core t.core).sweep, w.mma = m) ∨
      ∃ f, e.fly = some f ∧ ((∃ x ∈ s.link.out, x.team = some k) ∨ ∃ p ∈ f.pkgs, s.podReachable f.die p = false)
    let left := { t with pend := t.pend.eraseIdx i }
    let completes := fun v => exec (.longLatencyComplete k i) s = .next ((s.setTeam v).settleHalt t.gang t.group)
    let acquired := fun (u : State) => if acq then u.acquire t scope else u
    let others := s.mem.waiters.filter fun x => !(x.word == word && x.team == k)
    let quiet := s.withMem fun m => m.dropWaiters word fun x => x.team == k
    let alone := ∀ j u m from_, (j, u) ∈ s.teams → u.st = .growing m from_ → u.core = c →
      u = t ∨ since < from_ ∨ since = from_ ∧ t.id < u.id
    let up := (t.vregs + 7) / 8 * 8 + 8 * n
    s.team k = some t → t.id = k →
    (∀ (u : State) (f : Team → Team), u.team k = some t → (f t).id = k → endsWait u k f t) ∧
    (t.pend[i]? = some e →
      (busy → exec (.longLatencyComplete k i) s = .next s) ∧
      (¬busy → (∀ m, t.st = .waiting (.flags m) → (∀ x ∈ left.pend, m.testBit x.flag = false) →
          completes { left with st := .ready }) ∧
        ((∀ m, t.st = .waiting (.flags m) → ∃ x ∈ left.pend, m.testBit x.flag = true) → completes left))) ∧
    (t.st = .sleeping wake → (wake ≤ s.now → exec (.sleepEnd k) s = .next (s.endWait k id)) ∧
      (s.now < wake → exec (.sleepEnd k) s = .next s)) ∧
    (t.st = .waiting (.waita word cond ty cmp acq scope dl d none) →
      exec (.waitWake k) s = .next s ∧ (s.now < dl → exec (.waitaTimeout k) s = .next s) ∧
      (dl ≤ s.now → exec (.waitaTimeout k) s = .next ((acquired quiet).endWait k fun v => v.setS d 2 2) ∧
        quiet.mem.waiters = others)) ∧
    (t.st = .waiting (.waita word cond ty cmp acq scope dl d (some st)) →
      exec (.waitWake k) s = .next ((acquired s).endWait k fun v => v.setS d (BitVec.ofNat 64 st) 2) ∧
      exec (.waitaTimeout k) s = .next s) ∧
    (t.st = .growing n since → t.core = c → alone → (∀ j u, (j, u) ∈ s.teams → u.id = j) →
      (∀ b, s.growBase t n = some b →
        (b = t.base → exec (.rgrowGrant c) s = .next (s.endWait k fun v => { v with vregs := up })) ∧
        (b ≠ t.base → exec (.rgrowGrant c) s = .next ((s.cleanNear t).endWait k fun v => { v with vregs := up, base := b }))) ∧
      (s.growBase t n = none → exec (.rgrowGrant c) s = .next s ∧
        (s.allGrowing c = true →
          (∀ g h rest, s.youngestOn c = g :: h :: rest →
            (g.preempt = false → exec (.growthDeadlock c) s = .next (s.modGang g.handle fun y => { y with preempt := true })) ∧
            (g.preempt = true → exec (.growthDeadlock c) s = .next s)) ∧
          (∀ g, s.youngestOn c = [g] → ∃ s', exec (.growthDeadlock c) s = .next s' ∧
            ∃ v, s'.team k = some v ∧ v.st = .ready ∧ v.vregs = up ∧ v.pc = t.pc + 8)))) ∧
    (let known := (∃ x ∈ s.mem.narrow, c ∈ x.clusters) ∨ ∃ x ∈ s.mem.away, x.2 = c
     (known → exec (.promoteProbe c) s = .next (s.probed c)) ∧ (¬known → exec (.promoteProbe c) s = .next s))

namespace Sys2Proof.Claim

/-! ## Errors, traps and handlers (spec/17_group.md) -/

/-- What the wait of a team has been given: the status of an event that ended it, or TIMEOUT where its deadline lies behind
(R228), with the register that takes it. -/
def given (now : Nat) (t : Team) (d status : Nat) : Prop :=
  ∃ word cond ty cmp acq scope dl,
    t.st = .waiting (.waita word cond ty cmp acq scope dl d (some status)) ∨
    t.st = .waiting (.waita word cond ty cmp acq scope dl d none) ∧ dl < now ∧ status = 2

/-- A sibling at the start of a halt (R356): a Ready team may begin two more instructions; a waiting, sleeping or growing one is
Halted at once, its wait withdrawn, but one that has been given its end is complete; a parked, halted, saved or ended one stays. -/
def siblingOf (now : Nat) (t u : Team) : Prop :=
  (t.st = .ready → u.st = .ready ∧ u.skidLeft = 2 ∧ u.skid = 0 ∧ u.pc = t.pc) ∧
  (∀ d status, given now t d status → u.st = .halted ∧ u.pc = t.pc + 8 ∧ u.sreg d = { bits := BitVec.ofNat 64 status, tag := 2, taint := false }) ∧
  (∀ w, t.st = .waiting w → (∀ d status, ¬given now t d status) → u.st = .halted ∧ u.pc = t.pc) ∧
  (∀ wake, t.st = .sleeping wake → u.st = .halted ∧ u.pc = t.pc) ∧
  (∀ n since, t.st = .growing n since → u.st = .halted ∧ u.pc = t.pc) ∧
  (t.st.code ∈ [4, 5, 6, 7] → u = t)

/-- The event that a group's halt or park sends to its core's handler queue, with the fault record in its bytes 32 to 63, or zeros
(R362, R363). -/
def sends (s s' : State) (g : Gang) (group kind code : Nat) (rec : Option XRec) : Prop :=
  ∀ x, g.groups[group]? = some x → ∃ e, (s'.core x.core).hq = (s.core x.core).hq ++ [e] ∧ e.ctx = g.src.ctx ∧ e.gang = g.handle ∧
    e.group = group ∧ e.kind = kind ∧ e.record.length = 256 ∧ leNat (e.record.take 2) = kind + code * 2 ^ 4 ∧
    (e.record.drop 32).take 32 = (rec.map XRec.bytes).getD (List.replicate 32 0)

/-- The 64 bytes of a system-call record (R359). -/
def trapBytes (s : State) (t : Team) (code a n : Nat) : List Byte :=
  let arg := fun i => if i < n then t.sreg (a + i) else SReg.none
  leBytes 8 (code + t.slot % 2 ^ 5 * 2 ^ 16 + t.group * 2 ^ 21 + n * 2 ^ 24 + t.core * 2 ^ 32) ++
    leBytes 8 (t.pc % 2 ^ 32 + s.ctxOf t * 2 ^ 32) ++ leBytes 8 t.gang ++ leBytes 8 (arg 0).bits.toNat ++
    leBytes 8 (arg 1).bits.toNat ++ leBytes 8 (arg 2).bits.toNat ++ leBytes 8 (arg 3).bits.toNat ++
    leBytes 8 ((arg 0).tag + (arg 1).tag * 16 + (arg 2).tag * 256 + (arg 3).tag * 4096)

/-- A kernel that may be a handler (R361). -/
def handlerKernel (h : KHdr) : Prop := h.lanes = 32 ∧ h.teams = 1 ∧ h.groups = 1 ∧ 256 ≤ h.scratch ∧ h.footprint ≤ 2 ^ 15

/-- A context runs: it is Running and no SWITCHOUT of it is in progress. -/
def ctxRuns (s : State) (c : Nat) : Prop := (s.ctx c).st = .running ∧ (s.ctx c).switching = false

/-- A place lies in the windows of a gang. -/
def inWindows (g : Nat) (l : Loc) : Prop := (∃ i o, l = .scratch g i o) ∨ ∃ o, l = .cluster g o

/-- Nothing of a gang is in flight (R369, R247): no pending completion, word-op or direct item of a team of it, and no chain entry that
has begun and arrives on a barrier in its windows. -/
def quiet (s : State) (g : Nat) : Prop :=
  (∀ t ∈ s.teamsOf g, t.pend = [] ∧ ∀ w ∈ (s.core t.core).queue ++ (s.core t.core).sweep, w.team ≠ t.id) ∧
  ∀ i ∈ s.eng.items, (isDirect i.src = true → ∀ t, i.team = some t → t / 256 ≠ g) ∧
    (isDirect i.src = false → i.begun = true → ∀ l, i.barLoc = some l → ¬inWindows g l)

end Sys2Proof.Claim

/-! ## Errors, traps and handlers (spec/17_group.md) -/

/-- R355 to R358 and R364: a synchronous error halts its team with its code, and begins the halt of its group or joins one in
progress, which takes the code and the record of the lowest slot that errs in its cycle 0; the halt's event is sent once no team may
begin a skid instruction and none has one incomplete; a replayable fault parks its team alone, with a FAULT
event and an XLATE item; the handler's own error stops its slot. -/
def Obligations.ErrorsTaken : Prop :=
  ∀ (s : State) (t : Team) (g : Gang) (gs : GroupSt) (code k : Nat) (f : Option TFault) (p : TFault) (u : Team),
    let s' := s.takeTrap t (.err code f)
    let x := f.map t.xrecOf
    let halted := { t with st := .halted, skidLeft := 0, err := code, xrec := x }
    let parked := { t with st := .parked .replay, skidLeft := 0, err := 0, xrec := some (t.xrecOf p) }
    let mate := u.gang = t.gang ∧ u.group = t.group ∧ u.id ≠ t.id
    let others := fun (q : Team → Prop) => ∃ j v, s.team j = some v ∧ v.gang = t.gang ∧ v.group = t.group ∧ v.id ≠ t.id ∧ q v
    let pending := fun (v : Team) => ∃ e ∈ v.pend, e.skid = true
    let begun := others (·.st = .ready) ∨ others pending ∨ pending t
    let runs := others (fun v => v.st = .ready ∧ v.skidLeft ≠ 0) ∨ others pending ∨ pending t
    let kindOf := fun c => if c = Code.hang then 2 else 0
    (∀ j v, (j, v) ∈ s.teams → v.id = j) → (s.teams.map (·.1)).Nodup → s.team t.id = some t → s.gangOf t = some g →
    g.handle = t.gang → g.groups[t.group]? = some gs → code < 2 ^ 8 →
    (∀ core, g.src.origin = .handler core →
      s'.team t.id = some halted ∧ (s'.core core).hrun = none ∧ (s'.core core).hstop = some g.src.ctx) ∧
    ((∀ core, g.src.origin ≠ .handler core) →
      s'.team t.id = some halted ∧
      (∀ hl, gs.halt = some hl → hl.code < 2 ^ 8 →
        (s.team k = some u → u.id ≠ t.id → s'.team k = some u) ∧
        (let lower := hl.since = s.now ∧ ∃ l, hl.slot = some l ∧ t.slot < l
         let joined := if lower then { hl with code := code, slot := some t.slot, xrec := x } else hl
         (runs → ∃ y z, s'.gang t.gang = some y ∧ y.groups[t.group]? = some z ∧ z.halt = some joined) ∧
         (¬runs → sends s s' g t.group (kindOf joined.code) joined.code joined.xrec ∧
           ∀ y z, s'.gang t.gang = some y → y.groups[t.group]? = some z → z.halt = none))) ∧
      (gs.halt = none → s.team k = some u → (mate → ∃ v, s'.team k = some v ∧ siblingOf s.now u v) ∧
        (u.gang ≠ t.gang ∨ u.group ≠ t.group → s'.team k = some u)) ∧
      (gs.halt = none → begun → ∃ y z, s'.gang t.gang = some y ∧ y.groups[t.group]? = some z ∧
        z.halt = some { code := code, since := s.now, slot := some t.slot, xrec := x }) ∧
      (gs.halt = none → ¬begun → sends s s' g t.group (kindOf code) code x ∧
        ∀ y z, s'.gang t.gang = some y → y.groups[t.group]? = some z → z.halt = none)) ∧
    (let s'' := s.takeTrap t (.park p)
     s''.team t.id = some parked ∧ (s.team k = some u → k ≠ t.id → s''.team k = some u) ∧
      (gs.halt = none → sends s s'' g t.group 1 0 (some (t.xrecOf p))))

/-- R359 to R364 and R367: TRAP parks its team and appends its record, or appends it later when the queue is full, or raises QUEUE; a
core's slot takes its next event with the bound handler, whose scratchpad holds the record; a gang whose watchdog runs out halts with
HANG, and a group that another halt has stopped gets the event beside that halt's. -/
def Obligations.TrapsAndHandlers : Prop :=
  ∀ (s : State) (t : Team) (h : Hd) (o : Sys) (k c g : Nat) (b : Loc) (key : Option Nat) (q : Qcb) (pl : Place) (ev : HEvent)
    (rest : List HEvent) (hdr : KHdr) (s1 : State) (y : Gang) (d code a m next : Nat) (fresh : Bool),
    let n := o.e.toNat % 2 ^ 3
    let z := if fresh then s.release t 7 else s
    let who : Who := { agent := t.core, ctx := z.ctxOf t, team := none, lane := none, die := t.die }
    let block := z.meetBlock who (z.ctx (z.ctxOf t)).sysq
    let record := if fresh then trapBytes z t o.imm.toNat o.a.toNat n else trapBytes z t code a m
    let sent := ((z.usePlace who .rmw pl).qReserve key b q 1 none).addRows (engineAgent (t.die * 128 + t.cluster % 72)) (z.ctxOf t) key b q
      (some t.cluster) q.resv [record]
    let bad := block = .malformed ∨ (∃ f, block = .unreachable f) ∨ block = .ok b key q pl ∧ q.kind ≠ 5
    let full := block = .ok b key q pl ∧ q.kind = 5 ∧ q.head + 2 ^ q.rcap < q.resv + 1
    let room := block = .ok b key q pl ∧ q.kind = 5 ∧ q.resv + 1 ≤ q.head + 2 ^ q.rcap
    let park := fun (u : State) r sent => u.modTeam t.id fun v => { v with st := .parked (.trap r sent (u.now + 940)) }
    let args := ∀ i, i < n → (t.sreg (o.a.toNat + i)).tag ≠ 0
    let image := (s.ctx ev.ctx).handler
    let time := (s.ctx y.src.ctx).wdog
    let fails := fun (u : State) => (u.modCore c fun x => { x with hq := x.hq.drop 1, hstop := some ev.ctx }).errItem ev.ctx 6 6 c
      (ev.record ++ leBytes 8 6)
    (s.issuing = some t → fresh = true →
      (¬args → errs (.trap h o) s t Code.format) ∧
      (args → bad → exec (.trap h o) s = .next ((z.takeTrap t (.err Code.queue none)).leavePipe t.id)) ∧
      (args → full → exec (.trap h o) s = .next ((park z o.d.toNat false).holdTeam t)) ∧
      (args → room → exec (.trap h o) s = .next ((park sent o.d.toNat true).holdTeam t))) ∧
    (fresh = false → s.team k = some t → t.id = k → t.trapFields = some (code, a, m) → t.st = .parked (.trap d false next) →
      (s.now < next → exec (.trapRetry k) s = .next s) ∧
      (next ≤ s.now → bad → exec (.trapRetry k) s = .next (s.takeTrap t (.err Code.queue none))) ∧
      (next ≤ s.now → full → exec (.trapRetry k) s = .next (park s d false)) ∧
      (next ≤ s.now → room → exec (.trapRetry k) s = .next (sent.modTeam k fun v => { v with st := .parked (.trap d true next) }))) ∧
    ((s.core c).hq = [] → exec (.handlerEvent c) s = .next s) ∧
    ((s.core c).hq = ev :: rest →
      ((s.core c).hrun ≠ none ∨ (s.core c).hstop ≠ none ∨ ¬ctxRuns s ev.ctx → exec (.handlerEvent c) s = .next s) ∧
      ((s.core c).hrun = none → (s.core c).hstop = none → ctxRuns s ev.ctx →
        (s.readHeader ev.ctx image = none → exec (.handlerEvent c) s = .next (fails s)) ∧
        (s.readHeader ev.ctx image = some (hdr, s1) →
          (¬handlerKernel hdr → exec (.handlerEvent c) s = .next (fails s1)) ∧
          (handlerKernel hdr → ev.record.length = 256 → (s1.core c).hq = ev :: rest → ∃ s', exec (.handlerEvent c) s = .next s' ∧
            (s'.core c).hrun = some (s1.newId.1, ev) ∧ (s'.core c).hq = rest ∧
            (∃ u, s'.team (s1.newId.1 * 256) = some u ∧ u.st = .ready ∧ u.pc = hdr.entry ∧ u.core = c ∧ u.lanes = 32 ∧
              ∀ l, l < 32 → u.cur.getLsbD l = true) ∧
            (∃ v, s'.gang s1.newId.1 = some v ∧ v.src.origin = .handler c ∧ v.src.ctx = ev.ctx ∧ v.src.image = (s1.ctx ev.ctx).handler) ∧
            ∀ i, i < 256 → s'.locByte none (.scratch s1.newId.1 0 i) = ev.record.getD i 0)))) ∧
    (s.gang g = some y →
      let counts := time ≠ 0 ∧ y.st = .resident ∧ (∃ v ∈ s.teamsOf y.handle, v.st.code < 4) ∧ (∀ core, y.src.origin ≠ .handler core) ∧
        (∀ x ∈ s.svc.stalls, x.lifted ≠ none) ∧ time * 940 ≤ y.idle
      let halts := fun (u : State) i =>
        if ((y.groups[i]?).bind (·.halt)).isSome then u.pushEvent y i 2 Code.hang none else u.haltGroup g i Code.hang none none
      (¬counts → exec (.watchdogExpiry g) s = .next s) ∧
      (counts → y.handle = g →
        exec (.watchdogExpiry g) s = .next (((List.range y.groups.length).foldl halts s).modGang g fun v => { v with idle := 0 })))

/-- R366 and R368 to R371, R379 and R380: a gang asked to leave stops every team with its state kept for its restore, unless a handler
serves it or is it, and is Saved, its image in the save area, once its work has drained, where a kill that came meanwhile takes
effect; a saved gang is placed again at a fitting place and each of its teams goes on as it stood, with what its image in memory
holds; an image that fails its check is killed; a killed gang goes once its work has drained. -/
def Obligations.GangMoves : Prop :=
  ∀ (s : State) (g k core check pa : Nat) (y : Gang) (t : Team) (image : Image) (text : List Byte),
    let stops := y.st = .resident ∧ (∀ x ∈ y.groups, x.halt = none) ∧ ((s.ctx y.src.ctx).switching = true ∨ y.preempt = true ∧
      (∀ c ∈ s.cores, ∀ r, c.2.hrun = some r → r.2.gang ≠ y.handle) ∧ ∀ c, y.src.origin ≠ .handler c)
    let stays := fun (u v : Team) => v.file = u.file ∧ v.acc = u.acc ∧ v.stack = u.stack
    let asItStood := fun (u v : Team) => v.st = .saved ∧ stays u v ∧
      (∀ d status, given s.now u d status → v.back = .ready ∧ v.pc = u.pc + 8 ∧
        v.sreg d = { bits := BitVec.ofNat 64 status, tag := 2, taint := false }) ∧
      ((∀ d status, ¬given s.now u d status) → v.pc = u.pc ∧ v.sregs = u.sregs ∧
        (u.st = .ready → v.back = .ready) ∧ (∀ w, u.st = .waiting w → v.back = .ready) ∧
        (∀ wake, u.st = .sleeping wake → v.back = .sleeping (wake - s.now)) ∧ (∀ n c, u.st = .growing n c → v.back = .ready) ∧
        (u.st.code ∈ [4, 5] → v.back = u.st))
    let goesOn := fun (u v : Team) => stays u v ∧ v.core = core + u.group ∧ v.pc = u.pc ∧ v.sregs = u.sregs ∧
      (∀ r, u.back = .sleeping r → v.st = .sleeping (s.now + r)) ∧ (u.back.code ≠ 2 → v.st = u.back)
    let restored := fun (z : State) => ∃ s', exec (.gangRestore g) s = .next s' ∧
      (∃ x, s'.gang g = some x ∧ x.st = .resident ∧ x.off = false ∧ x.core0 = core ∧ x.cluster = core / 8) ∧
      (z.team k = some t → t.gang = g → t.freed = false → (t.st = .saved → ∃ v, s'.team k = some v ∧ goesOn t v) ∧
        (t.st = .ended → ∃ v, s'.team k = some v ∧ v.st = .ended ∧ v.core = core + t.group))
    let n := s.imageBytes y
    let kept := s.homeRead (some (s.ctx y.src.ctx).key) pa n
    s.gang g = some y → y.handle = g → (∀ j v, (j, v) ∈ s.teams → v.id = j) → (s.teams.map (·.1)).Nodup →
    (¬stops → exec (.preemptStop g) s = .next s) ∧
    (stops → ∃ s', exec (.preemptStop g) s = .next s' ∧ (∃ z, s'.gang g = some z ∧ z.st = .saving ∧ z.preempt = false) ∧
      (s.team k = some t → t.gang = g → t.st.code < 6 → ∃ v, s'.team k = some v ∧ asItStood t v) ∧
      (s.team k = some t → t.gang ≠ g → s'.team k = some t)) ∧
    (y.st ≠ .saving ∨ ¬quiet s g → exec (.saveComplete g) s = .next s) ∧
    (y.st = .saving → quiet s g → exec (.saveComplete g) s = .next (s.saveGang y) ∧
      ∃ z, (s.saveGang y).gang g = some z ∧ z.off = true ∧ z.st = (if y.kill then .killed else .saved) ∧
        (y.image = none → ∀ a bs, z.image = some (a, bs) → bs.length = n ∧
          bs.drop (n - 64) = padTo 64 ((Config.shake256 (bs.take (n - 64))).take 64))) ∧
    (y.st ≠ .killed ∨ ¬quiet s g → exec (.killComplete g) s = .next s) ∧
    (y.st = .killed → quiet s g → exec (.killComplete g) s =
      .next ((if y.off then s else s.writeBackAll y.cluster).endKill y)) ∧
    (y.st ≠ .saved ∨ ¬ctxRuns s y.src.ctx → exec (.gangRestore g) s = .next s) ∧
    (y.st = .saved → ctxRuns s y.src.ctx →
      (s.restorePlace y = none → exec (.gangRestore g) s = .next s) ∧
      (s.restorePlace y = some core →
        (y.image = some (pa, text) → (kept = text → s.readImage y = (imageCheck y.src.ctx text (some (s.imageFor y)), none)) ∧
          (kept ≠ text → s.readImage y = (imageCheck y.src.ctx kept (Config.imageOf (kept.take (n - 64))),
            Config.imageOf (kept.take (n - 64))))) ∧
        ((s.readImage y).1 = check → check ≠ 0 → exec (.gangRestore g) s = .next
          ((s.errItem y.src.ctx 8 0 0xFFFFFFFF (leBytes 8 g ++ leBytes 8 check)).endKill y)) ∧
        (s.readImage y = (0, none) → restored s) ∧
        (s.readImage y = (0, some image) → restored (s.loadImage y image))))

namespace Sys2Proof.Claim

/-! ## Versions (spec/14_version.md) -/

/-- The slot of a context that an instruction names. -/
def slotOf (s : State) (t : Team) (slot : Nat) : Option DomSlot := FMap.look (s.ctx (s.ctxOf t)).doms slot

/-- A long-latency instruction that acts on its team completes in a state, its team replaced. -/
def replacedIn (i : Instr) (s : State) (t : Team) (fb : Bool) (u : State) (v : Team) : Prop :=
  exec i s = .next ((counted t true fb (u.setTeam v)).retire t)

/-- The core's copy of a domain's epoch: the one before, while the core has not acknowledged the advance (R291). -/
def copyAt (x : Domain) (core : Nat) : Nat := if core ∈ x.behind then (x.epoch + 2 ^ 32 - 1) % 2 ^ 32 else x.epoch

/-- A state in which the counter of a core and a parity holds what a function makes of it (R295). -/
def recounted (s : State) (d core parity : Nat) (f : Nat → Nat) : State :=
  let x := s.domain d
  let n := FMap.lookD x.counts (core * 2 + parity) 0
  s.withSched fun y =>
    { y with domains := FMap.put y.domains d { x with counts := FMap.putD x.counts (core * 2 + parity) (f n) 0 } }

/-- An epoch or tag has reached another by wrap difference (R290). -/
def attains (a b : Nat) : Prop := 0 ≤ (BitVec.ofNat 32 a - BitVec.ofNat 32 b).toInt

/-- Entries of a domain's retire queues wait (R298). -/
def entriesOf (s : State) (d : Nat) : Prop :=
  ∃ c y i w, (c, y) ∈ s.sched.ctxs ∧ y.st ≠ .free ∧ (i, w) ∈ y.doms ∧ w.dom = d ∧ (s.retireSt c i).tags ≠ []

/-- What a GPWAIT waits for has come: the epoch has reached its target, or no entry tagged at or before it is left (R309). -/
def waitIsMet (s : State) (ctx slot dom target : Nat) (done : Bool) : Prop :=
  if done then ∀ g ∈ (s.retireSt ctx slot).tags, ¬attains target g else attains (s.domain dom).epoch target

/-- Entries of a domain wait, or a GPWAIT waits on it whose condition does not hold (R297, R298). -/
def inDemand (s : State) (d : Nat) : Prop :=
  entriesOf s d ∨
  ∃ k t slot target done deadline r, (k, t) ∈ s.teams ∧ t.st = .waiting (.gpwait slot d target done deadline r) ∧
    ¬waitIsMet s (s.ctxOf t) slot d target done

/-- A die reports a nonzero sum of a parity (R295, R297). -/
def dieCounts (x : Domain) (parity die : Nat) : Prop :=
  FMap.lookD x.parked (die * 2 + parity) 0 ≠ 0 ∨ ∃ k n, (k, n) ∈ x.counts ∧ k % 2 = parity ∧ k / 2 / 576 = die ∧ n ≠ 0

end Sys2Proof.Claim

/-! ## Versions (spec/14_version.md) -/

/-- R289 to R293, R306 to R308: an outermost RSEC.enter snapshots its core's epoch copy, raises that parity's counter and
acquires; an outermost leave releases and lowers it; inner ones move the depth. RETIRE releases and appends its record under the
current epoch, or writes FULL or BADQ; GPSEQ reads the slot's state; PUBL stores as a release. -/
def Obligations.ReaderSectionsAndRetirement : Prop :=
  ∀ (s : State) (t : Team) (h : Hd) (o : Sys) (e : Ec) (m : Mem) (x : DomSlot) (p : Place),
    let slot := o.imm.toNat
    let r := t.reader slot
    let snap := copyAt (s.domain x.dom) t.core
    let u := s.release t 5
    let q := s.retireSt (s.ctxOf t) slot
    let who := nodeOf u 78 (s.ctxOf t)
    let tags := (t.sreg e.a.toNat).tag ∈ [10, 2, 12] ∧ (t.sreg e.b.toNat).tag ∈ [10, 2, 12] ∧
      intTagged (t.sreg (e.a.toNat + 1)) ∧ (t.sreg e.c.toNat).tag ∈ Tag.any
    let size := scalarInt (t.sreg (e.a.toNat + 1)).tag (t.sreg (e.a.toNat + 1)).bits
    let target := (baseOf (t.sreg e.b.toNat)).toNat
    let action := e.e.toNat / 4 % 4
    let rslot := e.e.toNat % 4
    let retires := fun (v : State) n => completesIn (.retire h e) s t h.fb v fun w => w.setS e.d.toNat (BitVec.ofNat 64 n) 10
    let n := accessBytes m.ty.toNat
    let set := if 1 ≤ m.ty.toNat ∧ m.ty.toNat ≤ 11 then [m.ty.toNat, 12] else Tag.any
    let wide := 4 ≤ m.scope.toNat
    let how := if m.nol1 then Put.direct else if wide then .through else .plain
    let stored := ((s.usePlaces t .wr [p]).release t m.scope.toNat).writePlaces t how m.ret.toNat
      [(p, leBytes n (t.sreg m.d.toNat).bits.toNat, false)]
    s.issuing = some t → t.flagRoom h.fb = true →
    (slotOf s t slot = none → errs (.rsecEnter h o) s t Code.access ∧ errs (.rsecLeave h o) s t Code.access ∧
      errs (.gpseq h o) s t Code.access) ∧
    (slotOf s t slot = some x →
      (r.depth = 15 → errs (.rsecEnter h o) s t Code.rsecdepth) ∧
      (r.depth = 0 → replacedIn (.rsecEnter h o) s t h.fb ((recounted s x.dom t.core (snap % 2) (· + 1)).acquire t 5)
        (t.setReader slot { depth := 1, snap := snap })) ∧
      (r.depth ≠ 0 → r.depth ≠ 15 → replacedIn (.rsecEnter h o) s t h.fb s (t.setReader slot { r with depth := r.depth + 1 })) ∧
      (r.depth = 0 → errs (.rsecLeave h o) s t Code.rsecdepth) ∧
      (r.depth = 1 → replacedIn (.rsecLeave h o) s t h.fb (recounted u x.dom t.core (r.snap % 2) (· - 1))
        (t.setReader slot { r with depth := 0 })) ∧
      (2 ≤ r.depth → replacedIn (.rsecLeave h o) s t h.fb s (t.setReader slot { r with depth := r.depth - 1 })) ∧
      replacedIn (.gpseq h o) s t h.fb s (t.setS o.d.toNat (BitVec.ofNat 64 ((s.domain x.dom).epoch +
        min q.tags.length 65535 * 2 ^ 32 + if q.full then 2 ^ 48 else 0)) 10)) ∧
    (slotOf s t rslot = none → errs (.retire h e) s t Code.access) ∧
    (slotOf s t rslot = some x → (¬tags → errs (.retire h e) s t Code.format) ∧
      (tags → (size < 0 ∨ 2 ^ 32 ≤ size) → errs (.retire h e) s t Code.arith) ∧
      (tags → 0 ≤ size → size < 2 ^ 32 →
        ((action = 1 ∧ target % 4 ≠ 0) ∨ (action = 2 ∧ target % 32 ≠ 0) → errs (.retire h e) s t Code.align) ∧
        ((action = 1 → target % 4 = 0) → (action = 2 → target % 32 = 0) →
          (∀ v, u.serve who x.queue = (none, v) → retires v (2 * 2 ^ 32)) ∧
          ∀ b key k v, u.serve who x.queue = (some (b, key, k), v) →
            let E := (v.domain x.dom).epoch
            let y := v.retireSt (s.ctxOf t) rslot
            let record := leBytes 8 (baseOf (t.sreg e.a.toNat)).toNat ++ leBytes 8 (size.toNat + action * 2 ^ 32) ++
              leBytes 8 target ++ leBytes 8 (E + if action = 1 then (t.sreg e.c.toNat).bits.toNat % 2 ^ 32 * 2 ^ 32 else 0)
            (k.kind ≠ 4 → retires v (2 * 2 ^ 32)) ∧
            (k.kind = 4 → k.head + 2 ^ k.rcap < k.resv + 1 → retires v (1 * 2 ^ 32)) ∧
            (k.kind = 4 → k.resv + 1 ≤ k.head + 2 ^ k.rcap → retires
              (((v.qReserve key b k 1 none).addRows who.agent (s.ctxOf t) key b k none k.resv [record]).setRetireSt
                { y with tags := y.tags ++ [E] }) E)))) ∧
    ((t.sreg m.a.toNat).tag ∈ [10, 2, 12] → (t.sreg m.d.toNat).tag ∈ set → placed s t .wr n none (scalarVa t m) p →
      exec (.publ h m) s = .next ((farCounted s t true h.fb [] [] (if wide then stored else stored.noticeAll t [p])).retire t))

/-- R291, R297, R298 and R309: a grace check that finds every counter of the other parity zero advances the epoch, else it names the
first die that counts; a GPWAIT ends as MET once its target is reached or its entries are gone, else as TIMEOUT; a domain that
waits too long leaves a warning. -/
def Sys2Proof.Claim.GraceChecksAndWaits : Prop :=
  ∀ (s : State) (d die k slot target deadline dst since : Nat) (t : Team) (h : Hd) (o : Sys) (x : DomSlot) (done : Bool),
    let y := s.domain d
    let becomes := fun (f : Domain → Domain) => s.withSched fun z => { z with domains := FMap.put z.domains d (f y) }
    let parity := (y.epoch + 1) % 2
    let ready := inDemand s d ∧ y.behind = [] ∧ ∀ c, y.lastCheck = some c → c + 940 ≤ s.now
    let met := waitIsMet s
    let checked := fun (v : Domain) => { v with lastCheck := some s.now, firstDie := die }
    let advanced := fun (v : Domain) =>
      { v with epoch := (v.epoch + 1) % 2 ^ 32, behind := List.range Config.cores, lastCheck := none }
    let waits := fun (f : Domain → Domain) =>
      (entriesOf s d → exec (.graceCheck d) s = .next (becomes fun v => { f v with waitSince := some (y.waitSince.getD s.now) })) ∧
      (¬entriesOf s d → exec (.graceCheck d) s = .next (becomes fun v => { f v with waitSince := none }))
    let goal := (scalarInt (t.sreg o.a.toNat).tag (t.sreg o.a.toNat).bits % 2 ^ 32).toNat
    let time := (max 0 (min (2 ^ 32 - 1) (scalarInt (t.sreg (o.a.toNat + 1)).tag (t.sreg (o.a.toNat + 1)).bits))).toNat
    let all := o.e.getLsbD 0
    let dueOn := fun c => (s.ctx c).wdog ≠ 0 ∧ since + (FMap.lookD y.warned c 0 + 1) * (s.ctx c).wdog * 940 ≤ s.now ∧
      (s.ctx c).st ≠ .free ∧ ∃ i w, (i, w) ∈ (s.ctx c).doms ∧ w.dom = d
    (¬ready → exec (.graceCheck d) s = .next s) ∧
    (ready → (∀ j, j < 8 → ¬dieCounts y parity j) → waits advanced) ∧
    (ready → die < 8 → dieCounts y parity die → (∀ j, j < die → ¬dieCounts y parity j) → waits checked) ∧
    (entriesOf s d → s.settleWait d = s) ∧
    (¬entriesOf s d → s.settleWait d = becomes fun v => { v with waitSince := none, warned := [] }) ∧
    (y.behind = [] → exec (.advanceComplete d) s = .next s) ∧
    (y.behind ≠ [] → exec (.advanceComplete d) s = .next (becomes fun v => { v with behind := [] })) ∧
    (y.waitSince = none ∨ ¬entriesOf s d → exec (.graceWarning d) s = .next s) ∧
    (y.waitSince = some since → FMap.rising s.sched.ctxs = true → (∀ c, c ∈ s.sched.ctxs.map (·.1) → ¬dueOn c) → exec (.graceWarning d) s = .next s) ∧
    (y.waitSince = some since → entriesOf s d → FMap.rising s.sched.ctxs = true → dueOn k → (∀ c, dueOn c → c = k) →
      exec (.graceWarning d) s = .next ((s.errItem k 7 0 0xFFFFFFFF
        (leBytes 8 (d + y.firstDie * 2 ^ 8 + y.epoch * 2 ^ 32))).modDomain d fun v =>
          { v with warned := FMap.put v.warned k (FMap.lookD v.warned k 0 + 1) })) ∧
    (s.issuing = some t → t.flagRoom h.fb = true →
      (slotOf s t o.imm.toNat = none → errs (.gpwait h o) s t Code.access) ∧
      (slotOf s t o.imm.toNat = some x → intTagged (t.sreg o.a.toNat) → intTagged (t.sreg (o.a.toNat + 1)) →
        (met (s.ctxOf t) o.imm.toNat x.dom goal all →
          exec (.gpwait h o) s = .next (((s.acquire t 5).setTeam (t.setS o.d.toNat 0 2)).retire t)) ∧
        (¬met (s.ctxOf t) o.imm.toNat x.dom goal all → time = 0 → Completes (.gpwait h o) s t (t.setS o.d.toNat 2 2)) ∧
        (¬met (s.ctxOf t) o.imm.toNat x.dom goal all → time ≠ 0 →
          exec (.gpwait h o) s = .next ((s.setTeam { t with
            st := .waiting (.gpwait o.imm.toNat x.dom goal all (s.now + time) o.d.toNat) }).holdTeam t)))) ∧
    (s.team k = some t → t.st = .waiting (.gpwait slot d target done deadline dst) →
      (met (s.ctxOf t) slot d target done → exec (.gpwaitTimeout k) s = .next s ∧
        exec (.gpwaitMet k) s = .next ((s.acquire t 5).endWait k fun v => v.setS dst 0 2)) ∧
      (¬met (s.ctxOf t) slot d target done → exec (.gpwaitMet k) s = .next s ∧
        (s.now < deadline → exec (.gpwaitTimeout k) s = .next s) ∧
        (deadline ≤ s.now → exec (.gpwaitTimeout k) s = .next (s.endWait k fun v => v.setS dst 2 2))))

/-- R300 to R302: the detector acts on the head entry of a retire queue once the epoch has reached its tag + 2, passes an entry whose
action fails with a RETIRE item, holds a full pool's entry and a queue it cannot reach, and tries those again after a
microsecond; a pool record is committed before its entry is passed, its slot's fault awaited; a pool block that the detector cannot
reach is noted as any agent's is (R453). -/
def Sys2Proof.Claim.RetireActions : Prop :=
  ∀ (s : State) (c n : Nat) (i : Instr) (x : DomSlot) (b : Loc) (key : Option Nat) (q : Qcb) (u v : State) (bs : List Byte)
    (cause kind : Nat) (w : State) (p : Place) (e : LErr) (value : Nat),
    let who := nodeOf s 78 c
    let r := s.retireSt c n
    let held := r.full = true ∨ r.told = true
    let idle := fun (z : State) => z.setRetireSt { r with told := false }
    let hold := fun (z : State) =>
      (if r.told then z else z.errItem c 3 6 0xFFFFFFFF (List.replicate 32 0 ++ leBytes 8 0 ++ leBytes 8 x.queue)).setRetireSt
        { r with told := true, nextTry := z.now + 940 }
    let passed := fun (z : State) => (((z.qPut key b 32 (q.claim + 1)).qMarkDone key b q.claim 1).setRetireSt
      { r with tags := r.tags.drop 1, full := false, told := false, row := none }).settleWait x.dom
    let tag := field (leNat bs) 223 192
    let target := field value 191 128
    FMap.look (s.ctx c).doms n = some x →
    ((s.ctx c).st = .free ∨ held → exec (.retireAction c n) s = .next s) ∧
    ((s.ctx c).st = .free ∨ ¬held ∨ s.now < r.nextTry → exec (.retireRetry c n) s = .next s) ∧
    ((i = .retireAction c n ∧ ¬held) ∨ (i = .retireRetry c n ∧ held ∧ r.nextTry ≤ s.now) → (s.ctx c).st ≠ .free →
      (s.serve who x.queue = (none, u) → exec i s = .next (hold u)) ∧
      (s.serve who x.queue = (some (b, key, q), u) →
        (q.kind ≠ 4 → exec i s = .next (hold u)) ∧
        (q.kind = 4 → q.tail ≤ q.claim → exec i s = .next (idle u)) ∧
        (q.kind = 4 → q.claim < q.tail →
          (∀ f, u.agentRead who (q.slotVa q.claim) 32 = .error f → exec i s = .next (hold u)) ∧
          (u.agentRead who (q.slotVa q.claim) 32 = .ok (bs, v) →
            (¬attains (v.domain x.dom).epoch (tag + 2) → exec i s = .next (idle v)) ∧
            (attains (v.domain x.dom).epoch (tag + 2) →
              (∀ j, r.row = some j → ((∃ y ∈ v.eng.rows, y.id = j) → exec i s = .next v) ∧
                ((∀ y ∈ v.eng.rows, y.id ≠ j) → exec i s = .next (passed v))) ∧
              (r.row = none →
                (v.act who (leNat bs) = .done w → exec i s = .next (passed w)) ∧
                (∀ j, v.act who (leNat bs) = .held w j → exec i s = .next (w.setRetireSt
                  { r with full := false, told := false, row := some j })) ∧
                (v.act who (leNat bs) = .full → exec i s = .next (v.setRetireSt
                  { r with full := true, told := false, nextTry := v.now + 940 })) ∧
                (v.act who (leNat bs) = .failed w cause kind → exec i s = .next (passed (w.errItem c 3 cause 0xFFFFFFFF
                  ((bs ++ List.replicate (32 - bs.length) 0) ++ leBytes 8 kind ++ leBytes 8 x.queue)))))))))) ∧
    (field value 97 96 = 1 →
      (s.resolve who .wr 4 4 target = .ok p → s.act who value = .done (s.homePut who p (leBytes 4 (field value 255 224)))) ∧
      (s.resolve who .wr 4 4 target = .error e → s.act who value = .failed s e.cause.1 e.cause.2)) ∧
    (field value 97 96 = 2 →
      (∀ l, s.resolve who .rmw 32 32 target = .ok (.win l) →
        ((s.bar l).state = 1 →
          s.act who value = .done (s.barArrive c 0xFFFFFFFF l target (field value 95 64) (who.die * 128 + 78) none)) ∧
        ((s.bar l).state ≠ 1 → s.act who value = .failed s 4 0)) ∧
      (s.resolve who .rmw 32 32 target = .ok p → isWindow p = false → s.act who value = .failed s 3 0) ∧
      (s.resolve who .rmw 32 32 target = .error e → s.act who value = .failed s e.cause.1 e.cause.2)) ∧
    (field value 97 96 = 0 →
      (s.resolve who .rmw 64 64 target = .error e →
        (e = .unreachable → s.act who value = .failed (s.noteUnreached who target (some (e.asFault target 0))) 5 0) ∧
        (e ≠ .unreachable → e.cause.1 ≠ 2 →
          s.act who value = .failed (s.noteUnreached who target (some (e.asFault target 0))) e.cause.1 e.cause.2) ∧
        (e ≠ .unreachable → e.cause.1 = 2 → s.act who value = .failed s 2 e.cause.2)) ∧
      (s.resolve who .rmw 64 64 target = .ok p →
        (s.serve who target = (none, u) → s.act who value = .failed u 5 0) ∧
        (s.serve who target = (some (b, key, q), u) →
          (q.kind ∉ [1, 2] → s.act who value = .failed u 5 0) ∧
          (q.kind ∈ [1, 2] → q.head + 2 ^ q.rcap < q.resv + 1 → s.act who value = .full) ∧
          (q.kind ∈ [1, 2] → q.resv + 1 ≤ q.head + 2 ^ q.rcap →
            let y := (u.qReserve key b q 1 none).addRows who.agent c key b q none q.resv
              [leBytes 8 (field value 63 0) ++ leBytes 8 (field value 95 64)]
            let z := (y.eng.rows.getLast?).elim y y.writeRow
            ((∀ o ∈ z.eng.rows, o.block = b → o.index ≠ q.resv) → s.act who value = .done z) ∧
            ((∃ o ∈ z.eng.rows, o.block = b ∧ o.index = q.resv) → ∃ o ∈ z.eng.rows, o.block = b ∧ o.index = q.resv ∧
              s.act who value = .held z o.id)))))

/-- R291, R297, R298, R300 to R302 and R309: grace checks, their waits, and the actions of retire queues. -/
def Obligations.GraceAndRetireActions : Prop :=
  Sys2Proof.Claim.GraceChecksAndWaits ∧ Sys2Proof.Claim.RetireActions

namespace Sys2Proof.Claim

/-! ## Hoop windows and ticks (spec/19_window.md) -/

/-- The fields of a window block's 1,024 bits (R388). -/
def windowOf (v : Nat) : Wcb :=
  let f := fun o hi lo => field v (8 * o + hi) (8 * o + lo)
  { stream := f 0 31 0, port := f 0 32 32, reorder := f 0 47 40, sink := f 0 51 48, dslot := f 0 53 52, pgsz := f 0 57 56
    rowsz := f 0 63 60, pages := f 8 15 0, ficap := f 8 36 32, span := f 16 63 0, plist := f 24 63 0, fidx := f 32 63 0
    pool := f 40 63 0, cseq := f 48 31 0, cons := f 48 63 32, cstamp := f 56 63 0, nrow := f 64 63 0, dup := f 72 15 0
    lost := f 72 31 16, full := f 72 47 32, bad := f 72 63 48, state := f 80 2 0, evict := f 80 63 32 }

/-- The block is well-formed: its fields within the limits of R388, its reserved bits zero. -/
def goodWindow (v : Nat) : Prop :=
  let w := windowOf v
  let zero := fun o hi lo => field v (8 * o + hi) (8 * o + lo) = 0
  zero 0 39 33 ∧ zero 0 55 54 ∧ zero 0 59 58 ∧ zero 8 31 16 ∧ zero 8 63 37 ∧ zero 80 31 3 ∧ v / 2 ^ 704 = 0 ∧
  1 ≤ w.sink ∧ w.sink ≤ 8 ∧ w.pgsz ≤ 2 ∧ 6 ≤ w.rowsz ∧ w.rowsz ≤ 12 ∧ 2 ^ w.rowsz ≤ 4096 * 4 ^ w.pgsz ∧
  w.sink + 2 ≤ w.pages ∧ w.pages ≤ 4096 ∧ 4 ≤ w.ficap ∧ w.ficap ≤ 16

/-- The window block a team names: its place passed the checks of R203 and is device memory of this package (R388, R393). -/
def windowAt (s : State) (t : Team) (r : BitVec 8) (p : Place) (b : Loc) : Prop :=
  (t.sreg r.toNat).tag ∈ [10, 2, 12] ∧ s.resolveLanes t .rmw 128 128 [(none, (baseOf (t.sreg r.toNat)).toNat)] = .ok [p] ∧
  p.loc = some b ∧ ∃ x pa, p = .dev x pa ∧ regionOf pa = .local

/-- A result of a window instruction: a value and its status (R393). -/
def windowResult (d : BitVec 8) (status v : Nat) (u : Team) : Team := u.setS d.toNat (BitVec.ofNat 64 (v + status * 2 ^ 60)) 10

/-- A difference of sequence numbers by wrap (R290). -/
def ahead (a b : Nat) : Int := (BitVec.ofNat 32 a - BitVec.ofNat 32 b).toInt

/-- The scan of R391 from a sequence number passes k frames, of n up to CSEQ: it stops at the first stamped above the limit. -/
def scanned (placed : List Placed) (lim : Int) (from_ n k : Nat) : Prop :=
  let frame := fun j => placed.find? fun p => p.seq == (from_ + j) % 2 ^ 32
  k ≤ n ∧ (∀ j p, 1 ≤ j → j ≤ k → frame j = some p → (p.stamp : Int) ≤ lim) ∧
  (k = n ∨ ∃ p, frame (k + 1) = some p ∧ lim < (p.stamp : Int))

/-- A tick's launch record passes: it can be read, is counted with one gang, and passes steps 1 to 3 of R344. -/
def tickPasses (s : State) (c part va : Nat) (v : Nat) (h : KHdr) (u : State) : Prop :=
  ∃ bs x, s.agentRead (nodeOf s 80 c) va 64 = .ok (bs, x) ∧ v = leNat bs ∧ ¬badRecord v ∧
    x.readHeader c (field v 127 64) = some (h, u) ∧ h.footprint ≤ u.spaceOf part c

/-- The record of a TICKARM fails, with the state after what was read of it. -/
def armFails (s : State) (c part va : Nat) (u : State) : Prop :=
  (∃ e, s.agentRead (nodeOf s 80 c) va 64 = .error e ∧ u = s) ∨
  ∃ bs x, s.agentRead (nodeOf s 80 c) va 64 = .ok (bs, x) ∧
    let v := leNat bs
    ((field v 3 0 ≠ 0 ∨ field v 63 32 ≠ 1 ∨ badRecord v ∨ x.readHeader c (field v 127 64) = none) ∧ u = x ∨
      field v 3 0 = 0 ∧ field v 63 32 = 1 ∧ ¬badRecord v ∧
        ∃ h, x.readHeader c (field v 127 64) = some (h, u) ∧ u.spaceOf part c < h.footprint)

/-- The first tick at or after a time: T0 + k periods, k at least 0 (R394). -/
def firstAt (t0 period : Int) (ns n : Nat) : Prop := ∃ k : Nat, (n : Int) = t0 + k * period ∧ (ns : Int) ≤ n ∧
  (k = 0 ∨ (n : Int) - period < ns)

/-- The slot at its next tick, behind those that a step of the time base passed over while a fire was held (R392). -/
def nextTick (x : TickSlot) : TickSlot := { x with next := x.next + (1 + x.skip) * x.period, skip := 0, held := none }

/-- A tick that launches nothing: its slot's missed count rises, and its range is carried forward. -/
def ticksMissed (s : State) (c i : Nat) : State :=
  s.modTick c i fun x => { nextTick x with missed := x.missed + 1 }

/-- A step of the time base passes over a slot's ticks: they count as missed but for the latest of them, which follows a held fire
where there is one (R392). -/
def passedOver (ns : Nat) (x y : TickSlot) : Prop :=
  let n := (ns - x.next) / x.period
  (ns ≤ x.next ∨ x.period = 0 → y = x) ∧
  (x.next < ns → x.period ≠ 0 →
    (x.held = none → y = { x with next := x.next + n * x.period, missed := x.missed + n }) ∧
    (x.held ≠ none → y = { x with skip := max x.skip (n - 1), missed := x.missed + (n - 1 - x.skip) }))

/-- A complete frame of a window is stamped above a limit (R391): CSTAMP is, and it is the stamp of a frame. -/
def aboveLimit (placed : List Placed) (W : Wcb) (lim : Int) : Prop :=
  lim < (W.cstamp : Int) ∧ (W.cstamp ≠ 0 ∨ ∃ q ∈ placed, q.count ≠ 0 ∧ attains W.cseq q.seq)

/-- The gang of a fire (R391). -/
def fired (c i : Nat) (x : TickSlot) (v last n flags : Nat) (h : KHdr) : Cand :=
  { origin := .tick c i, ctx := c, part := x.part, ordinal := 0, hdr := h, image := field v 127 64, args := field v 191 128
    record := x.lrec, lrec := x.lrec, lflags := 8 + flags, lanes := h.lanes, cword := field v 319 256, cvalue := field v 351 320
    claim := none
    range := some { first := (x.served + 1) % 2 ^ 32, count := n, last := last }, rank := x.next }

end Sys2Proof.Claim

/-! ## Hoop windows and ticks (spec/19_window.md) -/

/-- R386, R394 to R396: TNOW reads the time base; TICKARM arms a free slot at its first tick, or writes BADWIN, BADREC or FULL, and
raises ARITH outside the limits; TICKDIS disarms; WCLAIM.open registers a window, WCLAIM and WCLAIM.tick give a range inside a
reader section, WREL consumes, and WREL.close retires every page and closes. -/
def Obligations.WindowInstructions : Prop :=
  ∀ (s : State) (t : Team) (h : Hd) (o : Ec) (y : Sys) (p : Place) (b : Loc) (x : Win) (g : Gang),
    let va := (baseOf (t.sreg o.a.toNat)).toNat
    let s1 := (s.usePlaces t .rmw [p]).meetHome t.cluster p
    let s2 := atBlock s t .rmw o p
    let v := s1.locNat p.slot b 128
    let W := windowOf v
    let c := s.ctxOf t
    let tick := fun n => FMap.look (s.ctx c).ticks n
    let arg := fun i => scalarInt (t.sreg (o.b.toNat + i)).tag (t.sreg (o.b.toNat + i)).bits
    let a := arg 0
    let policy := o.e.toNat % 4
    let needs := if policy = 1 then 4 else 3
    let limits := 10000 ≤ arg 1 ∧ arg 1 ≤ 2 ^ 40 ∧ 0 ≤ arg 2 ∧ arg 2 ≤ 2 ^ 40 ∧ (policy = 1 → 0 < arg 3 ∧ arg 3 < arg 1)
    let acq := fun (u : State) => if o.acq then u.acquire t o.scope.toNat else u
    let is := fun (i : Instr) (u : State) status n => completesIn i s t h.fb u (windowResult o.d status n)
    let opens := goodWindow v ∧ s1.openWin c va = some x
    let part := ((s.gangOf t).map (·.src.part)).getD 0
    s.issuing = some t →
    Completes (.tnow h y) s t (if y.e.getLsbD 0
      then t.setS y.d.toNat (BitVec.ofNat 64 (s.clk.frac % 2 ^ 16 + if s.clk.locked then 2 ^ 16 else 0)) 2
      else t.setS y.d.toNat (BitVec.ofNat 64 s.clk.ns) 10) ∧
    (t.flagRoom h.fb = true →
      (intTagged (t.sreg o.a.toNat) → ∀ n : Int, n = scalarInt (t.sreg o.a.toNat).tag (t.sreg o.a.toNat).bits →
        (0 ≤ n → n < 16 → tick n.toNat ≠ none →
          is (.tickdis h o) (s.modCtx c fun z => z.disarm n.toNat) 0 0) ∧
        (n < 0 ∨ 16 ≤ n ∨ tick n.toNat = none → is (.tickdis h o) s 5 0)) ∧
      (windowAt s t o.a p b →
        ((t.sreg o.c.toNat).tag ∈ [10, 2, 12] → (∀ i, i < needs → intTagged (t.sreg (o.b.toNat + i))) →
          let lrec := (baseOf (t.sreg o.c.toNat)).toNat
          let slot := fun n =>
            { win := va, next := n, period := (arg 1).toNat, lag := (arg 2).toNat, hold := if policy = 1 then (arg 3).toNat else 0
              policy := policy, lrec := lrec, part := part, served := W.cons, missed := 0, skip := 0, held := none, cand := none : TickSlot }
          (¬limits → errs (.tickarm h o) s t Code.arith) ∧
          (limits → (¬goodWindow v ∨ s1.openWin c va = none → is (.tickarm h o) s1 3 0) ∧
            (opens → ∀ u, (armFails s1 c part lrec u → is (.tickarm h o) u 4 0) ∧
              (∀ r k, tickPasses s1 c part lrec r k u → field r 3 0 = 0 → field r 63 32 = 1 →
                ((∀ i, i < 16 → FMap.look (u.ctx c).ticks i ≠ none) → is (.tickarm h o) u 1 0) ∧
                ∀ i n, i < 16 → FMap.look (u.ctx c).ticks i = none → (∀ j, j < i → FMap.look (u.ctx c).ticks j ≠ none) →
                  firstAt a (arg 1) s.clk.ns n →
                  is (.tickarm h o) (u.modCtx c fun z => { z with ticks := FMap.put z.ticks i (slot n) }) 0 i)))) ∧
        (let free := goodWindow v ∧ W.state = 0 ∧ s2.openWin c va = none ∧
            (∃ d, FMap.look (s2.ctx c).doms W.dslot = some d ∧ d.kind = 3) ∧
            ∀ z ∈ s2.sched.wins, z.port ≠ W.port ∨ z.stream ≠ W.stream
         let count := (s2.sched.wins.filter fun z => z.port == W.port).length
         (¬free → is (.wclaimOpen h o) s2 3 0) ∧ (free → 32 ≤ count → is (.wclaimOpen h o) s2 1 0) ∧
         (free → count < 32 → is (.wclaimOpen h o) (acq (((s2.withSched fun z => { z with
           wins := z.wins ++ [{ port := W.port, stream := W.stream, ctx := c, va := va, placed := [] }] }).pinSinks
             (windowWho W.port c) W true).putWcb ⟨b, p.slot, W⟩ { W with state := 1 })) 0 0)) ∧
        ((t.reader W.dslot).depth = 0 → (intTagged (t.sreg o.b.toNat) → errs (.wclaim h o) s t Code.rsecdepth) ∧
          errs (.wclaimTick h o) s t Code.rsecdepth) ∧
        ((t.reader W.dslot).depth ≠ 0 → s.gangOf t = some g →
          (¬goodWindow v ∨ s1.openWin c va = none → (intTagged (t.sreg o.b.toNat) → is (.wclaim h o) s2 3 0) ∧
            is (.wclaimTick h o) s2 3 0) ∧
          (opens → intTagged (t.sreg o.b.toNat) → ∀ k, scanned x.placed a W.cons (ahead W.cseq W.cons).toNat k →
            (k = 0 → is (.wclaim h o) s2 2 W.cons) ∧
            (k ≠ 0 → is (.wclaim h o) (acq s2) 0 ((W.cons + k) % 2 ^ 32 + k * 2 ^ 32))) ∧
          (opens → (g.src.range = none → is (.wclaimTick h o) s2 5 0) ∧
            ∀ r, g.src.range = some r → (r.count = 0 → is (.wclaimTick h o) s2 2 W.cons) ∧
              (r.count ≠ 0 → is (.wclaimTick h o) (acq s2) 0 (r.last + r.count * 2 ^ 32)))) ∧
        (intTagged (t.sreg o.b.toNat) →
          let q := (a % 2 ^ 32).toNat
          (¬goodWindow v ∨ s1.openWin c va = none → is (.wrel h o) s2 3 0) ∧
          (opens → ¬(attains q W.cons ∧ attains W.cseq q) → is (.wrel h o) s2 6 0) ∧
          (opens → attains q W.cons → attains W.cseq q →
            is (.wrel h o) (s2.locWrite p.slot (b.add 48) { W with cons := q }.partBytes) 0 0)) ∧
        (¬goodWindow v ∨ s1.openWin c va = none → is (.wrelClose h o) s2 3 0) ∧
        (opens → (FMap.look (s2.ctx c).doms W.dslot = none → is (.wrelClose h o) s2 1 0) ∧
          ∀ d, FMap.look (s2.ctx c).doms W.dslot = some d →
            (∀ u, s2.serve (nodeOf s2 78 c) d.queue = (none, u) → is (.wrelClose h o) u 1 0) ∧
            ∀ e key q u, s2.serve (nodeOf s2 78 c) d.queue = (some (e, key, q), u) →
              (q.kind ≠ 4 ∨ q.head + 2 ^ q.rcap < q.resv + W.pages → is (.wrelClose h o) u 1 0) ∧
              (q.kind = 4 → q.resv + W.pages ≤ q.head + 2 ^ q.rcap →
                let z := (u.retireAll (windowWho x.port c) W d).closeWin x ⟨b, p.slot, W⟩
                is (.wrelClose h o) z 0 0 ∧ z.openWin c va = none))))

/-- R385 and R387 to R392: the servo steps forward before the first lock and slews after it, and where the time base is ahead; a port
drops what is no frame of an open window; a tick fires its range, is held or missed as its policy says; a fire whose record fails
leaves its status there; a held fire goes at its time; a frame is dropped and counted by the first test it fails, or is placed; a
Starved window whose pool serves it again runs. -/
def Obligations.WindowEvents : Prop :=
  ∀ (s : State) (ns frac c i n k : Nat) (f : Frame) (x : TickSlot) (w : Win) (a : WinAt) (fi : FrameIn) (h : FrameHdr) (p : Place),
    let T : Nat := ns % 2 ^ 64 * 2 ^ 16 + frac % 2 ^ 16
    let d : Int := (T : Int) - ((s.clk.ns * 2 ^ 16 + s.clk.frac : Nat) : Int)
    let near := -(10 * 2 ^ 16) ≤ d ∧ d ≤ 10 * 2 ^ 16
    let synced := fun (u : State) locked => { u with clk := { u.clk with locked := locked, ever := locked || u.clk.ever, lastSync := u.now } }
    let udp := (s.timePort f.port).udp
    let bits := leNat (f.payload.take 32)
    let rows := field bits 31 16
    let formed := 32 ≤ f.payload.length ∧ field bits 15 0 = 1 ∧ 1 ≤ rows ∧ rows ≤ 64 ∧ 6 ≤ field bits 163 160 ∧
      field bits 163 160 ≤ 12 ∧ field bits 255 164 = 0 ∧ f.payload.length = 32 + rows * 2 ^ field bits 163 160
    let named := s.sched.wins.find? fun z => z.port == f.port && z.stream == field bits 63 32
    let lim : Int := (x.next : Int) - x.lag
    let due := i < 16 ∧ x.next ≤ s.clk.ns ∧ x.held = none ∧ s.noFrames c x.win = true
    let heldDue := ∃ e, x.held = some e ∧ e ≤ s.clk.ns ∧ s.noFrames c x.win = true
    let at_ := (s.openWin c x.win).bind s.winAt
    let fires := fun (u z : State) (y : TickSlot) last m flags =>
      (∀ e q l, u.agentRead (nodeOf u 80 c) y.lrec 64 = .error e → (e = .park q l ∨ ∃ j, e = .err j (some (q, l))) →
        z = ticksMissed (u.errXlate c (agentRecord y.lrec q 0 l)) c i) ∧
      (∀ bs r q, u.agentRead (nodeOf u 80 c) y.lrec 64 = .ok (bs, r) →
        let header := r.readHeader c (field (leNat bs) 127 64)
        (badRecord (leNat bs) → z = (ticksMissed r c i).tickStatus c y.lrec 3) ∧
        (¬badRecord (leNat bs) → header = none → z = (ticksMissed r c i).tickStatus c y.lrec 1) ∧
        ∀ kh, ¬badRecord (leNat bs) → header = some (kh, q) → q.spaceOf y.part c < kh.footprint →
          z = (ticksMissed q c i).tickStatus c y.lrec 2) ∧
      (∀ v kh r, tickPasses u c y.part y.lrec v kh r →
        z = r.modTick c i fun y' => { nextTick y' with cand := some (fired c i y v last m flags kh), served := last })
    let bump := fun n => min (n + 1) 65535
    let who := windowWho w.port w.ctx
    let u := (s.withSched fun y => { y with frames := y.frames.erase fi }).usePlace who .rmw p
    let W := a.wcb
    let drops := fun (g : Wcb → Wcb) => exec (.windowFrame n) s = .next (u.locWrite a.key (a.loc.add 48) (g W).partBytes)
    let known := ahead h.seq W.cseq ≤ 0 ∨ ∃ q ∈ w.placed, q.seq = h.seq
    (near → s.clk.ever = false → exec (.ptpSync ns frac) s = .next (synced { s with clk := { s.clk with slew := d } } true)) ∧
    (s.clk.ever = true → exec (.ptpSync ns frac) s = .next (synced { s with clk := { s.clk with slew := d } }
      (s.clk.locked || decide near))) ∧
    (¬near → s.clk.ever = false → s.clk.locked = false → d < 0 →
      exec (.ptpSync ns frac) s = .next (synced { s with clk := { s.clk with slew := d } } false)) ∧
    (¬near → s.clk.ever = false → s.clk.locked = false → 0 ≤ d → ∃ z, exec (.ptpSync ns frac) s = .next z ∧ z.clk.ns = ns % 2 ^ 64 ∧
      z.clk.frac = frac % 2 ^ 16 ∧ z.clk.slew = 0 ∧ z.clk.locked = false ∧ z.clk.ever = false ∧ z.clk.lastSync = s.now ∧
      (FMap.look (s.ctx c).ticks i = some x → ∃ y, FMap.look (z.ctx c).ticks i = some y ∧ passedOver (ns % 2 ^ 64) x y)) ∧
    (s.clk.locked = true → s.clk.lastSync + 940000000 ≤ s.now →
      exec .lockLoss s = .next { s with clk := { s.clk with locked := false } }) ∧
    (s.clk.locked = false ∨ s.now < s.clk.lastSync + 940000000 → exec .lockLoss s = .next s) ∧
    (2 ≤ f.port ∨ f.udp ≠ udp → exec (.tokenFrame f) s = .next s) ∧
    (f.port < 2 → f.udp = udp →
      (¬formed → exec (.tokenFrame f) s = .next (s.modPort f.port fun q => { q with malf := (q.malf + 1) % 2 ^ 32 })) ∧
      (formed → named = none → exec (.tokenFrame f) s = .next (s.modPort f.port fun q => { q with nowin := (q.nowin + 1) % 2 ^ 32 })) ∧
      (formed → ∀ z, named = some z → exec (.tokenFrame f) s = .next (s.withSched fun y =>
        { y with frames := y.frames ++ [{ ctx := z.ctx, va := z.va, frame := f }] }))) ∧
    (FMap.look (s.ctx c).ticks i = none → exec (.tick c i) s = .next s ∧ exec (.holdExpiry c i) s = .next s) ∧
    (FMap.look (s.ctx c).ticks i = some x →
      (¬due → exec (.tick c i) s = .next s) ∧ (¬heldDue → exec (.holdExpiry c i) s = .next s) ∧
      (heldDue → at_ = none → exec (.holdExpiry c i) s = .next (ticksMissed s c i)) ∧
      (heldDue → at_ = some a → ∃ z, exec (.holdExpiry c i) s = .next z ∧
        fires s z x W.cseq (ahead W.cseq x.served).toNat 17) ∧
      (due → x.cand ≠ none ∨ at_ = none → exec (.tick c i) s = .next (ticksMissed s c i)) ∧
      (due → x.cand = none → s.openWin c x.win = some w → s.winAt w = some a →
        let late := ¬aboveLimit w.placed W lim
        (late → x.policy = 1 → exec (.tick c i) s = .next (s.modTick c i fun y => { y with held := some (x.next + x.hold) })) ∧
        (late → x.policy = 2 → exec (.tick c i) s = .next (ticksMissed s c i)) ∧
        (x.served < 2 ^ 32 → scanned w.placed lim x.served (ahead W.cseq x.served).toNat k →
          (¬late → ∃ z, exec (.tick c i) s = .next z ∧ fires s z x ((x.served + k) % 2 ^ 32) k 0) ∧
          (late → x.policy = 0 → ∃ z, exec (.tick c i) s = .next z ∧ fires s z x ((x.served + k) % 2 ^ 32) k 1)))) ∧
    (s.sched.wins[n]? = none → exec (.windowFrame n) s = .next s) ∧
    (s.sched.wins[n]? = some w →
      (s.frameFor w = none → exec (.windowFrame n) s = .next s) ∧
      (s.frameFor w = some fi →
        (∀ e q l, s.resolve who .rmw 128 128 w.va = .error e →
          (e = .park q l ∨ ∃ j, e = .err j (some (q, l))) →
          exec (.windowFrame n) s = .next ((((s.withSched fun y => { y with frames := y.frames.erase fi }).errXlate w.ctx
            (agentRecord w.va q 0 l))).modPort w.port fun y => { y with nowin := (y.nowin + 1) % 2 ^ 32 })) ∧
        (s.winPlace who w.va = .ok p → s.winAt w = some a → frameHdr fi.frame.payload = some h →
          (h.rowlog ≠ W.rowsz → drops fun y => { y with bad := bump y.bad }) ∧
          (h.rowlog = W.rowsz → known → drops fun y => { y with dup := bump y.dup }) ∧
          (h.rowlog = W.rowsz → ¬known → ((2 ^ W.ficap : Nat) : Int) < ahead h.seq W.cons →
            drops fun y => { y with full := bump y.full }) ∧
          (h.rowlog = W.rowsz → ¬known → ahead h.seq W.cons ≤ ((2 ^ W.ficap : Nat) : Int) →
            let fresh := W.fresh h.rows
            let full := fun (z : State) (y : Wcb) => exec (.windowFrame n) s = .next (z.locWrite a.key (a.loc.add 48) y.partBytes)
            let entries := (lostBefore W w.placed h.seq ++ [h.seq]).map W.entryVa
            let entered := ((List.range h.rows).map fun j => W.pageOf (W.nrow + j)).eraseDups
            let lands := fun (z : State) (y : Wcb) (pool : Option Qcb) (dom : Option DomSlot) =>
              (∀ e, z.winReachAll who .wr 24 entries = .error e → full (z.errXlate w.ctx e.noTeam) { y with bad := bump W.bad }) ∧
              ∀ pages, z.winReachAll who .wr 24 entries = .ok () →
                (∀ e, z.winPages who y pool (fresh.map W.pageOf) entered = .error e →
                  full (z.errXlate w.ctx e.noTeam) { y with bad := bump W.bad }) ∧
                (z.winPages who y pool (fresh.map W.pageOf) entered = .ok pages → exec (.windowFrame n) s =
                  .next (z.landFrame w { a with wcb := y } h (fi.frame.payload.drop 32) ⟨fresh.map W.pageOf, dom, pages⟩))
            let fed := if W.state = 3 then { W with state := 2 } else W
            (fresh = [] → lands u W none none) ∧
            (fresh ≠ [] → (∃ o ∈ fresh, W.evictable w.placed o = false) → full u { W with full := bump W.full }) ∧
            (fresh ≠ [] → (∀ o ∈ fresh, W.evictable w.placed o = true) → ∀ pool z, u.poolAt who W fresh.length = (pool, z) →
              (pool = none → full z { W with state := 3, full := bump W.full }) ∧
              ∀ b key q, pool = some (b, key, q) → ∀ d room y, FMap.look (z.ctx w.ctx).doms W.dslot = some d →
                z.retireRoom w.ctx d = (room, y) →
                (room < fresh.length → full y { fed with full := bump W.full }) ∧
                (fresh.length ≤ room → lands y fed (some q) (some d)))))))

namespace Sys2Proof.Claim

/-! ## Contexts (spec/18_context.md, spec/20_link.md R408) -/

/-- The next command of a function's ring (R377, R408): its value, its context and its three operands. -/
def nextCommand (s : State) (f v c x y z : Nat) : Prop :=
  let r := s.func f
  let e := leNat (s.homeRead none (2 ^ 55 + (r.cmdbase + 64 * (r.cmdcons % 2 ^ r.cmdsize)) % 2 ^ 54) 32)
  f < 64 ∧ 4 ≤ r.cmdsize ∧ r.cmdsize ≤ 12 ∧ r.cmdprod ≠ r.cmdcons ∧ (∀ i ∈ s.sched.invals, i.func ≠ f) ∧
  (∀ i ∈ s.sched.carves, i.func ≠ f) ∧ v = field e 7 0 ∧ c = field e 14 8 ∧ x = field e 127 64 ∧ y = field e 191 128 ∧
  z = field e 255 192

/-- No command of a function waits to run. -/
def noCommand (s : State) (f : Nat) : Prop := ∀ v c x y z, ¬nextCommand s f v c x y z

/-- A command completes: its status and value are in its entry, CMDCONS has advanced, vector 0 is raised (R408). -/
def answered (u : State) (f status value : Nat) : State :=
  let r := u.func f
  let w := u.homeWrite none (2 ^ 55 + (r.cmdbase + 64 * (r.cmdcons % 2 ^ r.cmdsize)) % 2 ^ 54 + 32) (leBytes 8 status ++ leBytes 8 value)
  w.withHost fun h =>
    { h with funcs := FMap.put h.funcs f { r with cmdcons := (r.cmdcons + 1) % 2 ^ 64 }, irqs := h.irqs ++ [(f, 0)] }

/-- A context that its commands act on. -/
def isLive (s : State) (c : Nat) : Prop := (s.ctx c).st ∈ [.bound, .running, .stopped]

/-- A function may not name a context (R377). -/
def mayNot (s : State) (f c : Nat) : Prop := f ≠ 0 ∧ (s.ctx c).func ≠ f

/-- The state word of a context (R380). -/
def stateWordOf (s : State) (c : Nat) : Nat :=
  let code := match (s.ctx c).st with | .free => 0 | .bound => 1 | .running => 2 | .stopped => 3 | .draining => 4
  code + c * 2 ^ 8 + (s.ctx c).func * 2 ^ 16 +
    ((List.range 16).map fun p => if s.sched.parts.any fun y => y.num == p && y.ctx == c then 2 ^ (32 + p) else 0).foldl (· + ·) 0

/-- The error-record counts of a context (R383). -/
def errCounts (s : State) (c : Nat) : Nat :=
  let x := s.ctx c
  let at_ := fun o n => leNat (s.homeRead (some x.key) (x.errec + o) n)
  min (at_ 0 8 - at_ 8 8) (2 ^ 32 - 1) + min (at_ 16 4) (2 ^ 24 - 1) * 2 ^ 32

/-- What a command on a context's gangs does (R201, R365, R366, R368, R377, R380, R383), from a state: its status, the value it
returns and the state; `own` is the gang of the team that issues it. -/
def commandDoes (s : State) (own : Option Nat) (c v x y w status value : Nat) (u : State) : Prop :=
  let is := fun st n z => status = st ∧ value = n ∧ u = z
  let group := y / 256 % 8
  let away := fun (t : Team) => (if t.st = .saved then t.back else t.st) = .halted
  let dying := fun (g : Gang) => g.st = .killed ∨ g.kill = true
  (v = 0 ∧ is 0 (stateWordOf s c) s) ∨ (v ∈ [1, 2, 3, 4, 5, 11] ∧ ¬isLive s c ∧ is 1 0 s) ∨
  (isLive s c ∧
    ((v ∈ [1, 2, 3, 11] ∧ (∀ g, s.gang x = some g → g.src.ctx ≠ c) ∧ is 2 0 s) ∨
      (v = 5 ∧ is 0 (errCounts s c) s) ∨ (v = 4 ∧ (y % 4096 ≠ 0 ∨ y = 0 ∨ 2 ^ 57 < y) ∧ is 3 0 s) ∨
      (v = 4 ∧ y % 4096 = 0 ∧ y ≠ 0 ∧ y ≤ 2 ^ 57 ∧ is 0 0 (s.invalidate c x y)) ∨
      ∃ g, s.gang x = some g ∧ g.src.ctx = c ∧
        ((v = 1 ∧ (y ≠ y % 32 + group * 256 ∨ g.groups.length ≤ group ∨ g.src.hdr.teams ≤ y % 32) ∧ is 3 0 s) ∨
          (v = 1 ∧ y = y % 32 + group * 256 ∧ group < g.groups.length ∧ y % 32 < g.src.hdr.teams ∧
            ∃ t, (s.teamsOfGroup x group).find? (·.index == y % 32) = some t ∧
              ((¬dying g ∧ (if t.st = .saved then t.back else t.st).code ∈ [4, 5] ∧ is 0 0 (s.resume t (BitVec.ofNat 64 w))) ∨
                ((dying g ∨ (if t.st = .saved then t.back else t.st).code ∉ [4, 5]) ∧ is 1 0 s))) ∨
          (v = 2 ∧ g.groups.length ≤ y ∧ is 3 0 s) ∨
          (v = 2 ∧ y < g.groups.length ∧ (dying g ∨ ∀ t ∈ s.teamsOfGroup x y, ¬away t) ∧ is 1 0 s) ∨
          (v = 2 ∧ y < g.groups.length ∧ ¬dying g ∧ (∃ t ∈ s.teamsOfGroup x y, away t) ∧
            is 0 0 (((s.teamsOfGroup x y).filter fun t => t.standing == .halted).foldl (fun z t => z.resume t 0) s)) ∨
          (v = 3 ∧ (dying g ∨ own = some x) ∧ is 1 0 s) ∨ (v = 3 ∧ ¬dying g ∧ own ≠ some x ∧ is 0 0 (if g.st = .saving then s.modGang g.handle fun z => { z with kill := true } else s.killGang g)) ∨
          (v = 11 ∧ g.st ≠ .resident ∧ is 1 0 s) ∨
          (v = 11 ∧ g.st = .resident ∧ is 0 0 (s.modGang g.handle fun z => { z with preempt := true })))))

/-- The context that a descriptor's 2,048 bits name, with its segments (R376). -/
def contextOf (v : Nat) (segs : List Nat) : Ctx :=
  let f := fun o hi lo => field v (8 * o + hi) (8 * o + lo)
  { st := .bound, switching := false, key := f 0 6 0, func := f 0 13 8, wdog := f 0 63 32, root := f 8 55 0, keyshr := f 16 127 0
    handler := f 32 63 0, sysq := f 40 63 0, errec := f 48 55 0, save := f 56 55 0, saveSize := f 64 31 0, errcap := f 64 36 32
    segs := segs, doms := descDoms v, ticks := [] }

/-- A function holds a key slot (R455). -/
def holdsKey (s : State) (f slot : Nat) : Prop := f = 0 ∨ FMap.look s.sched.holders slot = some f

/-- A descriptor's fields lie within their limits, for context c (R376). -/
def goodDescriptor (s : State) (c v : Nat) : Prop :=
  let x := contextOf v []
  let zero := fun o hi lo => field v (8 * o + hi) (8 * o + lo) = 0
  let tab := field v (8 * 72 + 55) (8 * 72)
  let n := field v (8 * 80 + 12) (8 * 80)
  let others := fun (p : Nat → Ctx → Prop) => ∀ k y, (k, y) ∈ s.sched.ctxs → y.st ≠ .free → p k y
  zero 0 7 7 ∧ zero 0 31 14 ∧ zero 8 63 56 ∧ zero 48 63 56 ∧ zero 56 63 56 ∧ zero 64 63 37 ∧ zero 72 63 56 ∧ zero 80 63 13 ∧
  zero 88 63 0 ∧ (∀ i, i < 4 → zero (96 + 16 * i) 63 9) ∧ v / 2 ^ 1280 = 0 ∧ holdsKey s x.func x.key ∧
  others (fun k y => k = c ∨ y.key ≠ x.key) ∧
  (∀ k, k < 128 → k ≠ x.key → x.keyshr.testBit k = true → holdsKey s x.func k) ∧
  others (fun _ y => y.func = x.func ∨ ∀ d ∈ x.doms, ∀ e ∈ y.doms, e.2.dom ≠ d.2.dom) ∧
  x.root % 2 ^ 22 = 0 ∧ 6 ≤ x.errcap ∧ x.errcap ≤ 16 ∧ x.errec % 4096 = 0 ∧ inDevice x.errec 1 = true ∧
  x.save % 65536 = 0 ∧ 1 ≤ x.saveSize ∧ inSaveStore x.save 1 = true ∧ n ≤ 4096 ∧ (c = 0 → x.func = 0) ∧
  (n = 0 ∨ regionOf tab ≠ .reserved ∧ reachable tab = true) ∧ ∀ e ∈ s.segTable tab n, field e 8 0 < 288 ∧ field e 15 9 = 0 ∧ field e 31 19 = 0

end Sys2Proof.Claim

/-! ## Contexts (spec/18_context.md) -/

/-- R201, R365, R366, R368, R377, R380, R383 and R384: a function's ring runs its commands in order, each with the status and value
of R377, DENIED for a context of another function; INVAL completes later; CTXQ does the same for its own context, between a release
and an acquire at system scope. -/
def Obligations.CommandsOnGangs : Prop :=
  ∀ (s : State) (f v c x y w st n k : Nat) (i : Instr) (z : State) (t : Team) (h : Hd) (o : Sys) (e : Inval),
    let table := [(0, Instr.state f), (1, .resumet f), (2, .resumeg f), (3, .kill f), (5, .errstat f), (11, .preempt f)]
    let count := if o.imm.toNat = 1 then 3 else if o.imm.toNat ∈ [2, 4] then 2 else if o.imm.toNat = 3 then 1 else 0
    let reg := fun j => t.sreg (o.a.toNat + j)
    let arg := fun j => if j < count then
      if (reg j).tag = 12 then (reg j).bits.toNat else (scalarInt (reg j).tag (reg j).bits % 2 ^ 64).toNat else 0
    (noCommand s f → ∀ p ∈ (4, .inval f) :: table, exec p.2 s = .next s) ∧
    (nextCommand s f v c x y w →
      (∀ p ∈ (4, .inval f) :: table, p.1 ≠ v → exec p.2 s = .next s) ∧
      ((v, i) ∈ table → (mayNot s f c → exec i s = .next (answered s f 4 0)) ∧
        (¬mayNot s f c → commandDoes s none c v x y w st n z → exec i s = .next (answered z f st n))) ∧
      (v = 4 → (mayNot s f c → exec (.inval f) s = .next (answered s f 4 0)) ∧
        (¬mayNot s f c → ¬isLive s c → exec (.inval f) s = .next (answered s f 1 0)) ∧
        (¬mayNot s f c → isLive s c → (y % 4096 ≠ 0 ∨ y = 0 ∨ 2 ^ 57 < y) → exec (.inval f) s = .next (answered s f 3 0)) ∧
        (¬mayNot s f c → isLive s c → y % 4096 = 0 → y ≠ 0 → y ≤ 2 ^ 57 → exec (.inval f) s = .next (s.withSched fun q =>
          { q with invals := q.invals ++ [{ func := f, ctx := c, va := x, len := y }] })))) ∧
    (s.sched.invals[k]? = none → exec (.invalComplete k) s = .next s) ∧
    (s.sched.invals[k]? = some e → exec (.invalComplete k) s = .next (answered
      ((s.withSched fun q => { q with invals := q.invals.eraseIdx k }).invalidate e.ctx e.va e.len) e.func 0 0)) ∧
    (∀ a ∈ (s.invalidate c x y).mem.tlb, a.ctx ≠ c ∨ a.vbase + pageSize a.leaf.size ≤ x ∨ x + y ≤ a.vbase) ∧
    (∀ a ∈ (s.invalidate c x y).mem.walks, a.ctx ≠ c ∨ (a.vpre + 1) * 2 ^ levelShift a.level ≤ x ∨
      x + y ≤ a.vpre * 2 ^ levelShift a.level) ∧
    (s.issuing = some t → t.flagRoom h.fb = true → o.imm.toNat < 6 →
      ((∃ j, j < count ∧ (reg j).tag ∉ [10, 1, 2, 12]) → errs (.ctxq h o) s t Code.format) ∧
      ((∀ j, j < count → (reg j).tag ∈ [10, 1, 2, 12]) →
        commandDoes (s.release t 7) (some t.gang) (s.ctxOf t) o.imm.toNat (arg 0) (arg 1) (arg 2) st n z →
        completesIn (.ctxq h o) s t h.fb (z.acquire t 7) fun u => u.setS o.d.toNat (BitVec.ofNat 64 (n * 2 ^ 8 + st)) 10))

/-- R374 to R376, R378, R379, R381, R407, R408 and R455: CREATE binds a well-formed descriptor; START, SWITCHOUT, SWITCHIN and
DESTROY move a context between its states; CARVE holds a change until its commit or its timeout; PARTITION and KEYLOAD belong to the
physical function; a Function Level Reset destroys its contexts; a reset leaves the machine as after reset. -/
def Obligations.ContextLife : Prop :=
  ∀ (s : State) (f v c x y w n : Nat) (cv : Carve) (key : List Byte),
    let all := [(6, Instr.create f), (7, .start f), (8, .switchout f), (9, .switchin f), (10, .destroy f), (12, .carve f),
      (13, .hrestart f), (14, .partition f), (15, .keyload f)]
    let done := fun (i : Instr) u st => exec i s = .next (answered u f st 0)
    let desc := leNat (s.homeRead none x 256)
    let func := field desc 13 8
    let segs := (s.segTable (field desc (8 * 72 + 55) (8 * 72)) (field desc (8 * 80 + 12) (8 * 80))).map
      fun e => field e 8 0 * 8 + field e 18 16
    let aligned := fun (a m : Nat) => a % 64 = 0 ∧ a < 2 ^ 56 ∧
      (regionOf a = .system ∨ regionOf a = .local ∧ populated a = true ∧ populated (a + m - 1) = true)
    let held := (s.sched.ctxs.filter fun z => z.2.st != .free).flatMap fun z => z.2.segs
    let free := ∀ g ∈ segs, g ∉ held ∧ ((held ++ segs).filter fun b => b / 8 == g / 8).length ≤ 8
    let moves := fun (i : Instr) src dst =>
      ((s.ctx c).st ≠ src → done i s 1) ∧ ((s.ctx c).st = src → done i (s.modCtx c fun z => { z with st := dst }) 0)
    let images := fun p => (((s.gangs.map (·.2)).filter fun g => g.src.ctx == c && p g).map s.imageBytes).foldl (· + ·) 0
    let room := images (fun g => g.st == .saved) + images (fun g => g.st == .resident || g.st == .saving) ≤ (s.ctx c).saveSize * 2 ^ 20
    let hasGang := ∃ g ∈ s.gangs, g.2.src.ctx = c
    let part := fun p => ∃ z ∈ s.sched.parts, z.num = p ∧ z.ctx = c
    let overlaps := ∃ z ∈ s.sched.carves, ∃ k ∈ s.clustersOf z.part, k ∈ s.clustersOf x
    let pd := leNat (s.homeRead none y 128)
    let clusters := (List.range 576).filter fun p => pd.testBit (128 + p)
    let inUse := ∃ z, s.sched.parts.find? (·.num == x) = some z ∧ ∃ g ∈ s.gangs, g.2.src.part = x ∧ g.2.src.ctx = z.ctx ∧
      ∀ core, g.2.src.origin ≠ .handler core
    let slotUsed := ∃ k z, (k, z) ∈ s.sched.ctxs ∧ z.st ≠ .free ∧ (z.key = x ∨ z.keyshr.testBit x = true) ∧ z.func ≠ w
    (noCommand s f → ∀ p ∈ (22, .unassignedCommand f) :: all, exec p.2 s = .next s) ∧
    (nextCommand s f v c x y w →
      (∀ p ∈ all, p.1 ≠ v → exec p.2 s = .next s) ∧ (v < 22 → exec (.unassignedCommand f) s = .next s) ∧
      (22 ≤ v → done (.unassignedCommand f) s 3) ∧
      (∀ p ∈ all, p.1 = v → v ≠ 6 → mayNot s f c → done p.2 s 4) ∧
      (v = 6 → (f ≠ 0 ∧ c = 0 → done (.create f) s 4) ∧ ((f = 0 ∨ c ≠ 0) → (¬aligned x 256 → done (.create f) s 3) ∧
        (aligned x 256 → (f ≠ 0 ∧ func ≠ f → done (.create f) s 4) ∧ ((f = 0 ∨ func = f) →
          ((s.ctx c).st ≠ .free → done (.create f) s 1) ∧
          ((s.ctx c).st = .free → (¬goodDescriptor s c desc → done (.create f) s 3) ∧
            (goodDescriptor s c desc → ¬free → done (.create f) s 5) ∧
            (goodDescriptor s c desc → free → ∃ u, done (.create f) u 0 ∧ u.ctx c = contextOf desc segs ∧
              (∀ a, a / 2 ^ 20 ∈ segs → u.locByte none (.seg a) = 0) ∧ (∀ k, k ≠ c → u.ctx k = s.ctx k))))))) ∧
      (¬mayNot s f c →
        (v = 7 → moves (.start f) .bound .running) ∧ (v = 9 → moves (.switchin f) .stopped .running) ∧
        (v = 8 → ((s.ctx c).st ≠ .running ∨ (s.ctx c).switching = true → done (.switchout f) s 1) ∧
          ((s.ctx c).st = .running → (s.ctx c).switching = false → (¬room → done (.switchout f) s 5) ∧
            (room → done (.switchout f) ((s.modCtx c fun z => { z with switching := true }).settleSwitch c) 0))) ∧
        (v = 10 → (¬isLive s c → done (.destroy f) s 1) ∧ (isLive s c → ∃ u, done (.destroy f) u 0 ∧
          (hasGang → (u.ctx c).st = .draining) ∧ (¬hasGang → (u.ctx c).st = .free ∧
            (∀ p ∈ u.sched.parts, p.ctx ≠ c) ∧ (∀ z ∈ u.sched.wins, z.ctx ≠ c) ∧ ∀ a ∈ u.mem.tlb, a.ctx ≠ c))) ∧
        (v = 13 → (¬isLive s c → done (.hrestart f) s 1) ∧ (isLive s c → ∃ u, done (.hrestart f) u 0 ∧
          ∀ core, (u.core core).hstop ≠ some c)) ∧
        (v = 12 → (¬part x ∨ y % 32768 ≠ 0 ∨ 2 ^ 19 < y → done (.carve f) s 2) ∧
          (part x → y % 32768 = 0 → y ≤ 2 ^ 19 → (overlaps → done (.carve f) s 3) ∧
            (¬overlaps → exec (.carve f) s = .next (((s.clustersOf x).foldl (fun z k => z.cleanWays k (y / 32768)) s).withSched
              fun z => { z with carves := z.carves ++ [{ func := f, part := x, ways := y / 32768, deadline := s.now + w * 940 }] })))) ∧
        (v = 14 → (f ≠ 0 → done (.partition f) s 4) ∧ (f = 0 → (¬isLive s c → done (.partition f) s 1) ∧
          (isLive s c → (16 ≤ x ∨ ¬aligned y 128 ∨ field pd 127 67 ≠ 0 ∨ pd / 2 ^ 704 ≠ 0 ∨ clusters = [] ∨ field pd 63 0 % 64 ≠ 0 →
              done (.partition f) s 3) ∧
            (x < 16 → aligned y 128 → field pd 127 67 = 0 → pd / 2 ^ 704 = 0 → clusters ≠ [] → field pd 63 0 % 64 = 0 →
              (inUse → done (.partition f) s 1) ∧
              (¬inUse → done (.partition f) (s.withSched fun z => { z with parts := (z.parts.filter fun p => p.num != x) ++
                [{ num := x, ctx := c, lq := field pd 63 0, prio := field pd 66 64, clusters := clusters }] }) 0))))) ∧
        (v = 15 → (f ≠ 0 → done (.keyload f) s 4) ∧ (f = 0 →
          (128 ≤ x ∨ 64 ≤ w ∨ ¬aligned (y / 64 * 64) 64 → done (.keyload f) s 3) ∧
          (x < 128 → w < 64 → aligned (y / 64 * 64) 64 → (slotUsed → done (.keyload f) s 1) ∧
            (¬slotUsed → key = Config.unwrapKey s.fresh y → ∃ u, done (.keyload f) u 0 ∧ FMap.look u.sched.keys x = some key ∧
              (∀ k, k ≠ 0 → (holdsKey u k x ↔ k = w)) ∧
              ∀ k a, a ≠ x → (holdsKey u k a ↔ holdsKey s k a))))))) ∧
    (s.sched.carves.find? (·.part == n) = none → exec (.carveCommit n) s = .next s ∧ exec (.carveTimeout n) s = .next s) ∧
    (s.sched.carves.find? (·.part == n) = some cv →
      let dropped := fun (z : State) => z.withSched fun q => { q with carves := q.carves.filter (· != cv) }
      (s.reserved cv = false ∨ cv.deadline ≤ s.now → exec (.carveCommit n) s = .next s) ∧
      (s.reserved cv = true → s.now < cv.deadline → exec (.carveCommit n) s = .next (answered
        (dropped ((s.clustersOf n).foldl (fun z k => z.setWays k cv.ways) s)) cv.func 0 0)) ∧
      (s.now < cv.deadline → exec (.carveTimeout n) s = .next s) ∧
      (cv.deadline ≤ s.now → exec (.carveTimeout n) s = .next (answered (dropped s) cv.func 1 0))) ∧
    exec (.functionLevelReset f) s = .next (((s.sched.ctxs.filter fun z => z.2.func == f && z.2.live).map (·.1)).foldl State.destroy s) ∧
    (∃ u, exec .reset s = .next u ∧ u.mem = { State.reset.mem with host := s.hostKept } ∧
      u.svc = { State.reset.svc with fenced := (Config.failedCores s.fresh).filter (· < 4608) } ∧ u.teams = [] ∧ u.gangs = [] ∧
      u.running = [] ∧ u.sched = State.reset.sched ∧ u.eng = State.reset.eng ∧ u.host = State.reset.host ∧ u.link = State.reset.link ∧
      u.clk = State.reset.clk)

namespace Sys2Proof.Claim

/-! ## Links, host and service (spec/20_link.md, spec/21_service.md) -/

/-- A link's entry replaced. -/
def linkBecomes (s : State) (l : Nat) (x : Link) : State := s.withLink fun y => { y with links := FMap.put y.links l x }

/-- A function owns a context (R408). -/
def ownsContext (s : State) (f c : Nat) : Prop := c < 128 ∧ (s.ctx c).st ≠ .free ∧ (s.ctx c).func = f

/-- A write of PODID (R399): by the physical function, while no context runs. -/
def podidWritten (s : State) (f v : Nat) : State :=
  if f = 0 ∧ ∀ c ∈ s.sched.ctxs, c.2.st ≠ .running then s.withLink fun x => { x with podid := v % 2 ^ 9 } else s

/-- A write of SVC.PLIMIT (R419), clipped to 1,000 to 4,200 watts. -/
def limitWritten (s : State) (f v : Nat) : State :=
  if f = 0 then s.withSvc fun x => { x with plimit := max 1000 (min 4200 v) } else s

/-- The Resident gangs with a group on a core of a set are asked to leave, but for a handler's (R361, R368). -/
def preempted (s : State) (p : Nat → Prop) [DecidablePred p] : State :=
  { s with gangs := s.gangs.map fun g => (g.1,
      if g.2.st = .resident ∧ g.2.isHandler = false ∧ g.2.held = true ∧ ∃ x ∈ g.2.groups, p x.core then { g.2 with preempt := true } else g.2) }

/-- A number joins a set. -/
def joinSet (l : List Nat) (c : Nat) : List Nat := if c ∈ l then l else c :: l

/-- A cluster lies on an island (R414): local island m < 36 holds clusters 2m and 2m + 1 of its die. -/
def islandOf (cl : Nat) : Nat := cl / 72 * 64 + cl % 72 / 2

end Sys2Proof.Claim

/-! ## Links, host and service (spec/20_link.md, spec/21_service.md) -/

/-- R398, R399 and R401: links train, retrain at the eighth replay and are fenced as R398 says; a message leaves on its primary link
while that is in use, else on its backup, in the order of its link and channel; a multicast flit that arrives is written here where
this package is of its set; a branch in use takes the oldest flit of the lowest port that has destinations there, and the flit goes
once every branch has taken it. -/
def Sys2Proof.Claim.Links : Prop :=
  ∀ (s : State) (l lanes die k n port pa : Nat) (bs : List Byte) (dests : List Nat) (page : PodPage) (pre post : List Mcast) (m : Mcast)
    (x : OutFlit),
    let y := s.fabricLink l
    let inUse := fun a => (s.fabricLink a).st = .up ∨ (s.fabricLink a).st = .degraded
    let becomes := fun st => linkBecomes s l { st := st, replay := 0, since := s.now }
    let late := y.since + 9400000 ≤ s.now
    let takes := fun (z : Mcast) d => d ∈ z.dests ∧ s.routeLink z.die d = k
    let waits := fun (z : Mcast) => z.die = die ∧ ∃ d, takes z d
    let left := m.dests.filter fun d => s.routeLink m.die d != k
    let sent := m.dests.filter fun d => s.routeLink m.die d == k
    let departs := fun (u : State) a chan body => u.withHost fun h => { h with podOut := h.podOut ++ [{ link := a, chan := chan, body := body }] }
    let way := s.routeLink x.die x.pkg
    let first := ∀ z ∈ s.link.out.take n, z.chan ≠ x.chan ∨ s.routeLink z.die z.pkg ≠ way
    let arrives := s.applyInput (.mcast die port dests page pa bs)
    let mine := fun d => s.link.podid.testBit 8 = true ∧ d = s.link.podid % 256
    let here := (∃ d ∈ dests, mine d) ∧ regionOf pa = .local ∧ populated pa = true ∧ populated (pa + bs.length - 1) = true
    let got := (s.homeWrite (some page.slot) pa bs).touchLine (homeSlice page.place page.hdie pa) page.hint pa
    let others := dests.filter fun d => !(s.link.podid.testBit 8 && d == s.link.podid % 256)
    let buffered := fun (u : State) => u.withLink fun z =>
      { z with mcast := z.mcast ++ [{ die := die, port := port, dests := others, page := page, pa := pa, bytes := bs }] }
    (18 ≤ l ∨ y.st = .training → exec (.linkTrainingRequest l) s = .next s) ∧
    (l < 18 → y.st ≠ .training → exec (.linkTrainingRequest l) s = .next (becomes .training)) ∧
    (y.st ≠ .training ∨ late → exec (.linkTrained l lanes) s = .next s) ∧
    (y.st = .training → ¬late →
      (lanes = 8 → exec (.linkTrained l lanes) s = .next (becomes .up)) ∧
      (4 ≤ lanes → lanes < 8 → exec (.linkTrained l lanes) s = .next (becomes .degraded)) ∧
      (lanes < 4 → exec (.linkTrained l lanes) s = .next (becomes .down))) ∧
    (y.st ≠ .training ∨ ¬late → exec (.linkTrainingTimeout l) s = .next s) ∧
    (y.st = .training → late → exec (.linkTrainingTimeout l) s = .next (becomes .down)) ∧
    (¬inUse l → exec (.flitCrcFail l) s = .next s ∧ exec (.linkFence l) s = .next s) ∧
    (inUse l → exec (.linkFence l) s = .next (becomes .fenced) ∧ (7 ≤ y.replay → exec (.flitCrcFail l) s = .next (becomes .training)) ∧
      (y.replay < 7 → exec (.flitCrcFail l) s = .next (linkBecomes s l { y with replay := y.replay + 1 }))) ∧
    (inUse (s.route die k).1 → s.routeLink die k = (s.route die k).1) ∧
    (¬inUse (s.route die k).1 → s.routeLink die k = (s.route die k).2) ∧
    (s.link.out[n]? = some x →
      (inUse way → first → s.applyInput (.send n) =
        departs (s.withLink fun z => { z with out := z.out.eraseIdx n }) way x.chan x.body) ∧
      (¬inUse way ∨ ¬first → s.applyInput (.send n) = s)) ∧
    (s.link.out[n]? = none → s.applyInput (.send n) = s) ∧
    ((others = [] → (here → arrives = got) ∧ (¬here → arrives = s)) ∧
      (others ≠ [] → (here → arrives = buffered got) ∧ (¬here → arrives = buffered s))) ∧
    (¬inUse k ∨ (∀ z ∈ s.link.mcast, ¬waits z) → exec (.multicastFlit die k) s = .next s) ∧
    (inUse k → s.link.mcast = pre ++ m :: post → waits m → (∀ z ∈ pre, waits z → m.port < z.port) →
      (∀ z ∈ post, waits z → m.port ≤ z.port) →
      exec (.multicastFlit die k) s = .next (departs (s.withLink fun z =>
        { z with mcast := if left = [] then pre ++ post else pre ++ { m with dests := left } :: post }) k .multicast
          (.copies sent m.pa m.bytes)))

/-- A message for another package joins those that wait for their links. -/
def queues (s : State) (die pkg : Nat) (chan : Chan) (body : PodOut) : State :=
  s.withLink fun x => { x with out := x.out ++ [{ die := die, pkg := pkg, chan := chan, team := none, body := body }] }

/-- No route has led to a package of an access for 65,536 cycles, but for those in which its links' islands were stalled (R400,
R415). -/
def isStranded (s : State) (f : Fly) : Prop :=
  ∃ p ∈ f.pkgs, s.podReachable f.die p = false ∧
    65536 ≤ s.waited [f.die * 64 + 61, f.die * 64 + 63] (max (s.fabricLink (s.route f.die p).1).since (s.fabricLink (s.route f.die p).2).since)

/-- R399 and R400: a load, a store, an atomic, a prefetch, a flush, a narrow release and a promoted acquire at a page of another package
send it a message; the instruction that sent it is under way, with what it writes kept as it was, and its team begins no other; where
no route leads there for 65,536 cycles its group halts with ACCESS at it, and it has written nothing; a WAITA or WAKE there raises
ACCESS at issue (R218). -/
def Sys2Proof.Claim.PodAccesses : Prop :=
  ∀ (s s' : State) (t u : Team) (x : Xlat) (pa q k j scope n op ty lane va : Nat) (slot : Option Nat) (b : Byte) (ftz : Bool) (v w : Nat)
    (fb : Bool) (vs ss cs : List Nat) (new : List OutFlit) (e : Pend) (f : Fly) (g : Gang) (gs : GroupSt) (h : Hd) (o : Atm),
    let die := s.link.acting.getD (s.turn / 2304)
    let asks := queues s die q .request
    let p := Place.dev x pa
    let old := (Config.podWord s.fresh (pa + 2 ^ 56 * lane)).toNat % 2 ^ wordBits ty
    let pkgs := (new.map (·.pkg)).eraseDups
    let kept : Fly :=
      { pkgs := pkgs, die := t.die, pc := t.pc, clause := t.clause, vs := vs, ss := ss, cs := cs, file := t.file, sregs := t.sregs
        acc := t.acc, raised := ((s'.team t.id).map (·.sticky)).getD 0 &&& ~~~t.sticky }
    let flag := if (fb = true ∧ (t.clause.map (·.flagB)).getD 15 < 12) ∨ (fb = false ∧ (t.clause.map (·.flagA)).getD 15 < 12) then
      (if fb = true then (t.clause.map (·.flagB)).getD 15 else (t.clause.map (·.flagA)).getD 15) else 15
    (regionOf pa = .pod q →
      s.askHome n x pa k = asks (.load pa k) ∧ s.homeStore slot pa b = asks (.store pa [b]) ∧
      (op ≤ 8 → ty ≤ 3 → (ty = 3 → op ∈ [0, 1, 2, 6, 7]) → v < 2 ^ wordBits ty → w < 2 ^ wordBits ty →
        s.atomLane ftz op ty lane p v w = ((old, (atomicResult ftz op ty old v w).2),
          asks (.atomic pa op ty ftz (BitVec.ofNat 64 v) (BitVec.ofNat 64 w)))) ∧
      s.promotePlace t scope p = asks (.promote pa scope t.cluster) ∧
      (s.noticePlace t p).link = (asks (.notice pa t.cluster)).link ∧ (pa / 512, t.cluster) ∈ (s.noticePlace t p).mem.away ∧
      s.orPte n pa b = asks (.orByte (pa + 1) b)) ∧
    (s'.link.out = s.link.out ++ new →
      (new = [] → s.countFar s' t fb vs ss cs = s'.modTeam t.id (Team.count fb none)) ∧
      (new ≠ [] → s'.team t.id = some u → u.clause = t.clause → u.skidLeft = 0 → ∃ z, (s.countFar s' t fb vs ss cs).team t.id = some z ∧
        (s.countFar s' t fb vs ss cs).link.out = s.link.out ++ new.map (fun y => { y with team := some t.id }) ∧
        z = { u with pend := u.pend ++ [{ flag := flag, mma := none, skid := false, fly := some kept }] })) ∧
    (s.issuing = some t → (∃ y ∈ t.pend, y.fly ≠ none) → s.agenda = [.issue s.turn] → s.cyc.rank = 0 → s.cyc.pipes = [] →
      ∃ z, step s = .next z ∧ z.team t.id = some t) ∧
    (s.team k = some u →
      ((∀ y ∈ u.pend, ∀ z, y.fly = some z → ¬isStranded s z) → exec (.podAccessTimeout k) s = .next s) ∧
      (u.id = k → u.pend[j]? = some e → e.fly = some f → isStranded s f → (∀ i y z, i < j → u.pend[i]? = some y → y.fly = some z → ¬isStranded s z) →
        s.gangOf u = some g → g.groups[u.group]? = some gs → (∀ c, g.src.origin ≠ .handler c) → u.st = .ready →
        FMap.rising u.file.bits = true → FMap.rising f.file.bits = true → FMap.rising u.sregs = true → FMap.rising f.sregs = true →
        ∃ z y, exec (.podAccessTimeout k) s = .next z ∧ z.team k = some y ∧ y.st = .halted ∧ y.err = Code.access ∧ y.pc = f.pc ∧
          y.pend = u.pend.eraseIdx j ∧ y.sticky = u.sticky &&& ~~~f.raised ∧
          (∀ r i, i < 1024 → y.lane r i = (if r ∈ f.vs then FMap.lookD f.file.bits (r * 1024 + i) 0 else u.lane r i)) ∧
          (∀ r, y.sreg r = if r ∈ f.ss then FMap.lookD f.sregs r SReg.none else u.sreg r) ∧
          (∀ a ∈ z.link.out, a.team ≠ some k ∨ a.pkg ∉ f.pkgs))) ∧
    (s.issuing = some t → t.flagRoom h.fb = true → (t.sreg o.a.toNat).tag ∈ [10, 2, 12] → (baseOf (t.sreg o.a.toNat)).toNat = va →
      regionOf pa = .pod q →
      (intTagged (t.sreg (o.c.toNat + 1)) → (t.sreg o.c.toNat).tag ∈ Tag.any → s.resolveLanes t .rd (wordBits o.ty.toNat / 8) (wordBits o.ty.toNat / 8) [(none, va)] = .ok [p] →
        errs (.waita h o) s t Code.access) ∧
      (intTagged (t.sreg o.c.toNat) → 0 ≤ scalarInt (t.sreg o.c.toNat).tag (t.sreg o.c.toNat).bits →
        s.resolveLanes t .wr 4 4 [(none, va)] = .ok [p] → errs (.wake h o) s t Code.access))

/-- R80, R98, R200, R214, R219: a request of another package is performed at the home of its page in this one: a load, a store and an
atomic under the page's key slot, with what they find there sent back; the atomic OR of a byte of a page entry; the notice of a
narrow release and the probes of a promoted acquire; a flush; and one that names no memory here is none of this package's. -/
def Sys2Proof.Claim.PodRequests : Prop :=
  ∀ (s : State) (pkg pa n op ty scope cl : Nat) (p : PodPage) (bs : List Byte) (v x : Word) (ftz : Bool) (b : Byte) (i : PodReq),
    let here := fun i => regionOf pa = .local ∧ populated pa = true ∧ populated (pa + i - 1) = true
    let slice := homeSlice p.place p.hdie pa
    let s1 := s.touchLine slice p.hint pa
    let word := Loc.dev pa
    let q := s1.withMem fun z => z.touchWord (slice / 36) word
    let size := wordBits ty / 8
    let old := q.locNat (some p.slot) word size
    let arg := x.toNat % 2 ^ wordBits ty
    let new := (atomicResult ftz op ty old (v.toNat % 2 ^ wordBits ty) arg).1
    let stored := q.locWrite (some p.slot) word (leBytes size new)
    let woken := if op = 8 ∧ wordVal ty old < wordVal ty arg ∧ wordVal ty arg ≤ wordVal ty new then stored.wakeEvent word else stored
    let replies := fun (z : State) r => queues z (slice / 36) pkg .response (.reply pkg r)
    let does := fun i z => exec (.podRequest i) s = .next z
    let one := [PodReq.orByte pkg p pa b, .notice pkg p pa cl, .promote pkg p pa scope cl, .flush pkg p pa scope]
    (here n → does (.load pkg p pa n) (replies s1 (s1.homeRead (some p.slot) pa n))) ∧
    (¬here n → does (.load pkg p pa n) s) ∧
    (here bs.length → does (.store pkg p pa bs) (s1.homeWrite (some p.slot) pa bs)) ∧
    (¬here bs.length → does (.store pkg p pa bs) s) ∧
    (here size → pa % size = 0 → op ≤ 8 → ty ≤ 3 → (ty = 3 → op ∈ [0, 1, 2, 6, 7]) →
      does (.atomic pkg p pa op ty ftz v x) (replies woken (leBytes size old))) ∧
    (¬here 1 → i ∈ one → does i s) ∧
    (here 1 → does (.orByte pkg p pa b) (s1.homeStore (some p.slot) pa (s1.homeByte (some p.slot) pa ||| b)) ∧
      does (.notice pkg p pa cl) (s1.narrowNotice slice (pa / 512) ((pkg + 1) * 1024 + cl)) ∧
      does (.promote pkg p pa scope cl) (s1.promote slice (pa / 512) scope ((pkg + 1) * 1024 + cl)) ∧
      (scope = 7 → does (.flush pkg p pa scope) (s1.dropLine (pa / 512))) ∧
      (scope ≠ 7 → does (.flush pkg p pa scope) s1))

/-- R80, R98, R200, R214, R218, R219 and R398 to R401: the links of the package, its accesses to others, and theirs to it. -/
def Obligations.LinksAndPod : Prop :=
  Sys2Proof.Claim.Links ∧ Sys2Proof.Claim.PodAccesses ∧ Sys2Proof.Claim.PodRequests

/-- R100, R399, R408, R409, R412 and R419: a doorbell and a BAR2 write enter as posted writes of their function, which take effect in
order but for the relaxed; a doorbell appends its record, which commits with it, or is refused; a BAR2 read waits for its function's
writes; registers take writes as their table says; a BAR0 read gives the registers, and zeros for the page of a context that the
function does not own. -/
def Obligations.HostAccesses : Prop :=
  ∀ (s : State) (f c off n k : Nat) (bytes : List Byte) (relaxed : Bool) (v : Word) (p : Posted) (b : Loc) (key : Option Nat) (q : Qcb)
    (u : State) (e : TFault),
    let full := 256 ≤ (s.host.posted.filter fun y => y.func == f).length
    let quiet := ∀ y ∈ s.host.posted, y.func ≠ f
    let enters := fun (y : Posted) => s.withHost fun h => { h with posted := h.posted ++ [y] }
    let base := FMap.lookD s.host.bases (f * 128 + c) 0
    let bell : Posted := { func := f, ctx := c, va := 0, bytes := bytes, relaxed := false, bell := true }
    let store : Posted := { func := f, ctx := c, va := base + off, bytes := bytes, relaxed := relaxed, bell := false }
    let answers := fun (z : State) r => z.withHost fun h => { h with replies := h.replies ++ [{ func := f, bytes := r }] }
    let gone := s.withHost fun h => { h with posted := h.posted.erase p }
    let takes := fun z => exec (.postedWriteEffect f k) s = .next z
    let refused := fun (z : State) st => z.errItem p.ctx 10 st 0xFFFFFFFF (padTo 8 (p.bytes.take 8) ++
      leBytes 8 (p.func + p.ctx * 2 ^ 8) ++ padTo 32 ((p.bytes.drop 16).take 32))
    let pieces := p.bytes.length / 512 + 2
    let regs := FMap.lookD s.host.funcs f { cmdbase := 0, cmdsize := 0, cmdprod := 0, cmdcons := 0 }
    let func := fun (g : Func) => s.withHost fun h => { h with funcs := FMap.put h.funcs f g }
    let writes := fun o z => exec (.registerWrite f o v) s = .next z
    (¬ownsContext s f c ∨ full → exec (.doorbell f c bytes) s = .next s ∧ exec (.bar2Write f c off bytes relaxed) s = .next s) ∧
    (ownsContext s f c → ¬full → exec (.doorbell f c bytes) s = .next (enters bell) ∧
      (off + bytes.length ≤ 2 ^ 29 → exec (.bar2Write f c off bytes relaxed) s = .next (enters store))) ∧
    (¬quiet → exec (.bar2Read f c off n) s = .next s) ∧
    (quiet → off + n ≤ 2 ^ 29 → n ≤ 4096 →
      (¬ownsContext s f c → exec (.bar2Read f c off n) s = .next (answers s (some (List.replicate n 0)))) ∧
      (ownsContext s f c →
        (s.hostReach c .rd (n / 512 + 2) (base + off) n = .error e →
          exec (.bar2Read f c off n) s = .next (answers (s.errXlate c e.noTeam) none)) ∧
        (s.hostReach c .rd (n / 512 + 2) (base + off) n = .ok () →
          let r := s.hostRead c (n / 512 + 2) (base + off) n
          exec (.bar2Read f c off n) s = .next (answers r.2 (some r.1))))) ∧
    ((s.host.posted.filter fun y => y.func == f)[k]? = none → takes s) ∧
    ((s.host.posted.filter fun y => y.func == f)[k]? = some p →
      (k ≠ 0 → p.relaxed = false → takes s) ∧
      (k = 0 ∨ p.relaxed = true →
        (¬ownsContext s p.func p.ctx → takes gone) ∧
        (ownsContext s p.func p.ctx → p.bell = false →
          (gone.hostReach p.ctx .wr pieces p.va p.bytes.length = .error e → takes (gone.errXlate p.ctx e.noTeam)) ∧
          (gone.hostReach p.ctx .wr pieces p.va p.bytes.length = .ok () →
            takes (gone.winWrite (nodeOf s 82 p.ctx) pieces p.va p.bytes))) ∧
        (ownsContext s p.func p.ctx → p.bell = true →
          (p.bytes.length < 16 → takes (refused gone 6)) ∧
          (16 ≤ p.bytes.length →
            (gone.serve (nodeOf s 82 p.ctx) (leNat (p.bytes.take 8)) = (none, u) → takes (refused u 3)) ∧
            (gone.serve (nodeOf s 82 p.ctx) (leNat (p.bytes.take 8)) = (some (b, key, q), u) →
              (q.kind ∉ [0, 1, 2, 3] → takes (refused u 4)) ∧
              (q.kind ∈ [0, 1, 2, 3] → p.bytes.length ≠ 16 + 2 ^ q.rsize → takes (refused u 6)) ∧
              (q.kind ∈ [0, 1, 2, 3] → p.bytes.length = 16 + 2 ^ q.rsize →
                (q.head + 2 ^ q.rcap < q.resv + 1 → takes (refused u 1)) ∧
                (q.resv + 1 ≤ q.head + 2 ^ q.rcap →
                  let y := (u.qReserve key b q 1 none).addRows (nodeOf s 82 p.ctx).agent p.ctx key b q none q.resv [p.bytes.drop 16]
                  takes ((y.eng.rows.getLast?).elim y y.writeRow)))))))) ∧
    (64 ≤ f ∨ 2 ^ 20 < off + n ∨ 4096 < n → s.applyInput (.bar0Read f off n) = s) ∧
    (f < 64 → off + n ≤ 2 ^ 20 → n ≤ 4096 → ∃ r, s.applyInput (.bar0Read f off n) = answers s (some r) ∧ r.length = n ∧
      (let reads := fun (o v : Nat) => ∀ i, i < n → (off + i) / 8 * 8 = o → r.getD i 0 = BitVec.ofNat 8 (v / 256 ^ ((off + i) % 8))
       reads 0 regs.cmdbase ∧ reads 8 regs.cmdsize ∧ reads 16 regs.cmdprod ∧ reads 24 regs.cmdcons ∧
       (c < 128 → reads (32 + 8 * c) base) ∧
       (f = 0 → reads 0x800 s.svc.plimit ∧ reads 0x808 s.svc.power ∧ reads 0x810 s.svc.ratemin ∧ reads 0x818 s.svc.softlost ∧
         reads 0x840 s.link.podid) ∧
       ∀ i, i < n → 0x80000 + 4096 * c ≤ off + i → off + i < 0x80000 + 4096 * (c + 1) → ¬ownsContext s f c → r.getD i 0 = 0)) ∧
    exec (.podid f v) s = .next (podidWritten s f v.toNat) ∧ exec (.svcPlimit f v) s = .next (limitWritten s f v.toNat) ∧
    (64 ≤ f → writes off s) ∧
    (f < 64 → writes 0 (func { regs with cmdbase := v.toNat / 64 * 64 }) ∧ writes 8 (func { regs with cmdsize := v.toNat }) ∧
      writes 16 (func { regs with cmdprod := v.toNat }) ∧ writes 24 s ∧
      (c < 128 → writes (32 + 8 * c) (s.withHost fun h =>
        { h with bases := FMap.put h.bases (f * 128 + c) (v.toNat / 2 ^ 29 * 2 ^ 29) })) ∧
      writes 0x840 (podidWritten s f v.toNat) ∧ writes 0x800 (limitWritten s f v.toNat))

/-- R22 and R413 to R419: a service command of the physical function with context 0 has the effect of its row and its outcome, any
other is denied; a core is fenced once the gangs on it, asked to leave, are gone; an island is stopped once no gang is on it, and
comes back when its recalibration completes; the governor sets each core's rate and its registers. -/
def Obligations.ServiceCommands : Prop :=
  ∀ (s : State) (f v c x y w island watts : Nat),
    let table := [(16, Instr.recal f), (17, .fwload f), (18, .selftest f), (19, .fenceCore f), (20, .unfence f), (21, .attest f)]
    let done := fun (i : Instr) u st value => exec i s = .next (answered u f st value)
    let fails := x ∈ Config.failedCores s.fresh ∨ x ∈ s.svc.closing
    let asked := (preempted s (· = x)).withSvc fun z => { z with closing := joinSet z.closing x }
    let fenced := asked.withSvc fun z => { z with closing := z.closing.filter (· != x), fenced := joinSet z.fenced x }
    let standing := ∃ g ∈ s.gangs, g.2.held = true ∧ ∃ y ∈ g.2.groups, y.core = x
    let fences := fun i out => (standing → exec i s = .next asked) ∧ (¬standing → done i fenced 0 out)
    let busyDie := ∃ i ∈ s.svc.recal, i / 64 = x / 64
    let image := s.homeRead none (2 ^ 55 + y % 2 ^ 54) w
    let body := image.take (w - 3373)
    let digest := (image.drop (w - 3373)).take 64
    let sig := image.drop (w - 3309)
    let hdr := Config.fwHeader (image.take 64)
    let signed := (Config.shake256 body).take 64 = digest ∧ Config.mldsaVerify Config.vendorKey digest sig = true ∧ hdr.1 = x
    let nonce := s.homeRead none (2 ^ 55 + y % 2 ^ 54) 32
    let occupied := ∃ g ∈ s.gangs, g.2.held = true ∧ islandOf g.2.cluster = island ∧ g.2.cluster < 576
    let due := ((s.svc.evals.head?.map (·.1)).getD 0) + 9400 ≤ s.now
    let rate := fun core => (Config.governorRate s.fresh core).toNat
    (noCommand s f → ∀ p ∈ table, exec p.2 s = .next s) ∧
    (nextCommand s f v c x y w → (∀ p ∈ table, p.1 ≠ v → exec p.2 s = .next s) ∧
      (f ≠ 0 ∨ c ≠ 0 → ∀ p ∈ table, p.1 = v → done p.2 s 4 0) ∧
      (f = 0 → c = 0 →
        (v = 16 → (512 ≤ x → done (.recal f) s 3 0) ∧ (x < 512 → busyDie → done (.recal f) s 0 3) ∧
          (x < 512 → ¬busyDie → done (.recal f) ((preempted s fun core => islandOf (core / 8) = x ∧ core / 8 < 576).withSvc fun z =>
            { z with recal := z.recal ++ [x] }).settleRecal 0 0)) ∧
        (v = 17 → (8 ≤ x ∨ w < 3437 → done (.fwload f) s 3 0) ∧ (x < 8 → 3437 ≤ w →
          ((∃ i ∈ s.svc.recal, i % 64 ∈ controllerIslands x) → done (.fwload f) s 0 3) ∧
          ((∀ i ∈ s.svc.recal, i % 64 ∉ controllerIslands x) → (¬signed → done (.fwload f) s 0 1) ∧
            (signed → hdr.2.toNat < (s.firmware x).version → done (.fwload f) s 0 2) ∧
            (signed → (s.firmware x).version ≤ hdr.2.toNat → done (.fwload f) (s.withSvc fun z =>
              { z with fw := FMap.put z.fw x { measure := digest, version := hdr.2.toNat } }) 0 0)))) ∧
        (4608 ≤ x → (v = 18 → done (.selftest f) s 3 0) ∧ (v = 19 → done (.fenceCore f) s 3 0) ∧ (v = 20 → done (.unfence f) s 3 0)) ∧
        (x < 4608 → (v = 18 → (fails → fences (.selftest f) 4) ∧ (¬fails → done (.selftest f) s 0 0)) ∧
          (v = 19 → fences (.fenceCore f) 0) ∧
          (v = 20 → (fails → fences (.unfence f) 4) ∧ (¬fails → done (.unfence f) (s.withSvc fun z =>
            { z with fenced := z.fenced.filter (· != x) }) 0 0))) ∧
        (v = 21 → ∃ bits live sign,
          let report := leBytes 8 (0x0001 + 0x0100 * 2 ^ 16) ++ nonce ++ leBytes 8 s.clk.ns ++
            ((List.range 8).flatMap fun i => padTo 64 ((s.firmware i).measure.take 64)) ++
            ((List.range 8).flatMap fun i => leBytes 4 (s.firmware i).version) ++ bits ++ live ++ padTo 1952 (Config.identityKey.take 1952)
          done (.attest f) (s.homeWrite none (2 ^ 55 + x % 2 ^ 54) (report ++ sign)) 0 0 ∧
          bits.length = 576 ∧ live.length = 16 ∧ sign = padTo 3309 ((Config.mldsaSign report).take 3309) ∧
          (∀ i, i < 4608 → ((leNat bits).testBit i = true ↔ i ∈ s.svc.fenced)) ∧
          (∀ i, i < 128 → ((leNat live).testBit i = true ↔ (s.ctx i).st ≠ .free))))) ∧
    (island ∉ s.svc.recal ∨ occupied → exec (.recalComplete island) s = .next s) ∧
    (island ∈ s.svc.recal → ¬occupied → exec (.recalComplete island) s = .next (s.withSvc fun z =>
      { z with recal := z.recal.filter (· != island)
               stalls := z.stalls.map fun y => if y.island = island ∧ y.lifted = none then { y with lifted := some s.now } else y })) ∧
    (s.settleRecal.svc.stalls = s.svc.stalls ++ ((s.svc.recal.filter fun i => !s.stalled i && s.islandFree i).map fun i =>
      { island := i, since := s.now, lifted := none })) ∧
    (s.islandFree island = true ↔ ¬occupied) ∧
    exec .dieFenced s = .next (s.withSvc fun z => { z with die0 := true }) ∧
    (¬due → exec (.governorEval watts) s = .next s) ∧
    (due → ∃ u, exec (.governorEval watts) s = .next u ∧ (∀ core, core < 4608 → u.core core = { s.core core with rate := rate core }) ∧
      u.svc.evals = (s.now, watts, (List.range 4608).foldl (fun m core => min m (rate core)) 255) ::
        (s.svc.evals.filter fun e => s.now < e.1 + 940000) ∧
      u.svc.power = (u.svc.evals.map (·.2.1)).foldl (· + ·) 0 / u.svc.evals.length ∧
      u.svc.ratemin = (u.svc.evals.map (·.2.2)).foldl min 255 ∧ u.teams = s.teams ∧ u.gangs = s.gangs ∧ u.mem = s.mem)

namespace Sys2Proof.Claim

/-! ## Encodings, the step and the machine at reset (spec/06_kernel_image.md) -/

/-- The common fields of a word that acts on the team: guard p15, no negation, no index apply, flag A. -/
def onTeam : Hd := { guard := 15, neg := false, ixA := false, ixD := false, fb := false }

/-- Every clause in progress belongs to a team that exists, is Ready, is bound to its pipe, and has an instruction left. -/
def PipesHold (s : State) : Prop :=
  ∀ p r, (p, r) ∈ s.running → ∃ t c, s.team r.1 = some t ∧ t.st = .ready ∧ t.pipe = p ∧ t.clause = some c ∧ c.words ≠ []

/-- Every memory of the machine is in its canonical form. -/
def Formed (s : State) : Prop :=
  Memory.wf s.mem.dev = true ∧ Memory.wf s.mem.host = true ∧ Memory.wf s.mem.seg = true ∧
  (∀ h g, (h, g) ∈ s.gangs → ∀ x ∈ g.groups, Memory.wf x.bytes = true ∧ Memory.wf x.share = true) ∧
  ∀ k t, (k, t) ∈ s.teams → Memory.wf t.store = true

/-- An outcome of an input or of the pipe with the turn, as step answers it: the pipes drop clauses that are over. -/
def stepAnswers (s : State) (r : Host.Outcome State Fault Refusal) : Prop :=
  (∀ x, r = .next x → step s = .next x.settle) ∧ (∀ f, r = .fault f → step s = .fault f) ∧
    ∀ f, r = .refused f → step s = .refused f

/-- The place of a team's issue in its cycle: ascending core, then slot (R219). -/
def issuePlace (t : Team) : Nat := 1 + t.core * 64 + t.slot

/-- The pipe with the turn issues in the cycle in progress, or in the next one where it has issued in this one or the place of its
team has been passed (log entry 7). -/
def inOrder (s v : State) : Prop :=
  let late := s.turn ∈ s.cyc.pipes ∨ ∃ t, s.issuing = some t ∧ issuePlace t ≤ s.cyc.rank
  let noted := fun (z : State) => { z with cyc := { z.cyc with
    rank := max z.cyc.rank ((z.issuing.map issuePlace).getD 0), pipes := z.turn :: z.cyc.pipes } }
  (late → v = noted (s.elapse 1)) ∧ (¬late → v = noted s)

/-- What the pipe with the turn does in a state v, as step answers it from s: nothing while an MMA sweeps or an access of its team to
another package is under way; a clause chosen where none is in progress; else the first word of its clause: the instruction it
decodes to, or ILLEGAL. -/
def pipeRuns (s v : State) : Prop :=
  let waits := v.sweeping v.turn = true ∨ ∃ t, v.issuing = some t ∧ ∃ e ∈ t.pend, e.fly ≠ none
  (waits → step s = .next v.settle) ∧
  (¬waits → (v.issuing = none → stepAnswers s (exec (.clauseIssue v.turn) v)) ∧
    ∀ t c w ws, v.issuing = some t → t.clause = some c → c.words = w :: ws →
      (∀ i, decodeWord w = .ok i → stepAnswers s (exec i (v.useSlots i))) ∧
      (∀ e, decodeWord w = .error e → step s = .next ((v.takeTrap t (.err Code.illegal none)).leavePipe t.id).settle))

end Sys2Proof.Claim

/-! ## Encodings, the step and the machine at reset -/

/-- R118 to R130, on the worked encodings of the spec: each word decodes to the instruction it stands for. -/
def Obligations.WorkedWords : Prop :=
  decodeWord 0x0000C0408004003A = .ok (.iadd { guard := 3, neg := true, ixA := false, ixD := true, fb := false }
    { d := 3, a := 1, b := 2, c := 0, ty := 1, rm := 0, sat := false, e := 0 }) ∧
  decodeWord 0x0DC28080C2560CF0 = .ok (.cvt onTeam { d := 10, a := 2, b := 3, c := 9, ty := 5, rm := 4, sat := false, e := 12 }) ∧
  decodeWord 0x20010101C40C00F0 = .ok (.ld onTeam { d := 4, a := 4, b := 7, imm := 4, prom := false, noOff := false, ty := 3, ord := 0
                                                    scope := 0, ret := 0, nol1 := false }) ∧
  decodeWord 0x82803FFFFFF400F0 = .ok (.endl onTeam { d := 0, imm := -48, e := 0 }) ∧
  decodeWord 0xA0018100821760F0 = .ok (.atom onTeam { d := 6, a := 4, b := 2, c := 8, ty := 1, ord := 3, scope := 5, op := 8
                                                      prom := false, noOff := false }) ∧
  decodeWord 0x40008203040440F0 = .ok (.mma onTeam { d := 2, a := 8, b := 12, c := 16, m := 0x440 }) ∧
  decodeWord 0x6142_4101_433A_00F0 = .ok (.xcopy onTeam { d := 9, a := 4, b := 5, c := 12, acq := true, rel := true, scope := 5, e := 0 }) ∧
  decodeWord 0x8502_4500_0C40_02F0 = .ok (.trap onTeam { d := 9, a := 20, imm := 0x31, e := 2 }) ∧
  decodeHeader 0xC200_105E_0000_0000 = .ok { cls := 1, count := 0, wait := 8, flagA := 2, flagB := 15, yield := false }

/-- R118, R119 and R122 to R131: every instruction that the part decodes has a word, which decodes to it with every operand as it
was; and a word decodes to one instruction alone, whose word it is. -/
def Obligations.DecodeOfEncode : Prop :=
  (∀ i : Instr, i.reject = none → ∃ w, encode i = some w ∧ decodeWord w = .ok i) ∧
  ∀ (w : Word) (i : Instr), decodeWord w = .ok i → i.reject = none ∧ encode i = some w

/-- A step of an idle agenda lets a cycle pass and issues the first word of the clause in progress on the pipe with the turn: where
it decodes to an instruction, the step is that instruction's, and ILLEGAL where it decodes to none (R113, R131); a free pipe chooses
a clause, a pipe whose MMA still sweeps issues nothing (R255). An input is a pipe's issue, an event's meaning or its own effect (log
entries 1 and 7): requests of one cycle stand in the order of R219, and one that comes before the last opens the next cycle. The
registers an instruction uses are its pipe's last used near slots, and that changes nothing else (R186). -/
def Obligations.StepRunsDecoded : Prop :=
  ∀ (s : State) (i : Instr) (x : Input) (rest : List Input) (f n k core id : Nat) (q : PodReq) (v : State),
    let u := { s with fresh := s.fresh + 1 }.elapse 1
    let still := s.cyc.bars = [] ∧ s.cyc.blocks = [] ∧ (∀ c ∈ s.sched.ctxs, c.2.ticks = []) ∧ (∀ t ∈ s.teams, t.2.skidLeft = 0) ∧
      s.svc.recal = []
    let at_ := fun kind agent => kind * 1000000 + min agent 999999
    (∀ z p r, (p, r) ∈ (State.settle z).running ↔ (p, r) ∈ z.running ∧ ∃ v k, z.team r.1 = some v ∧ v.st = .ready ∧ v.pipe = p ∧
      v.clause = some k ∧ k.words ≠ []) ∧
    (u.cyc = { rank := 0, pipes := [], bars := [], blocks := [] } ∧
      (still → u.now = s.now + 1 ∧ u.turn = s.turn ∧ u.teams = s.teams ∧ u.running = s.running ∧ u.mem = s.mem ∧ u.sched = s.sched ∧ u.eng = s.eng)) ∧
    (s.agenda = [] → inOrder u v → pipeRuns s v) ∧
    (s.agenda = x :: rest →
      let z := { s with agenda := rest, fresh := s.fresh + 1 }
      (∀ p, x = .issue p → inOrder { z with turn := p } v → pipeRuns s v) ∧
      (∀ e, x = .event e → e.reject = some .event →
        (z.eventRank e = 0 → stepAnswers s (exec e z)) ∧
        (z.eventRank e ≠ 0 → s.cyc.rank ≤ z.eventRank e →
          stepAnswers s (exec e { z with cyc := { z.cyc with rank := z.eventRank e } })) ∧
        (z.eventRank e ≠ 0 → z.eventRank e < s.cyc.rank →
          let y := z.elapse 1
          stepAnswers s (exec e { y with cyc := { y.cyc with rank := z.eventRank e } }))) ∧
      (∀ e, x = .event e → e.reject ≠ some .event → step s = .next z.settle) ∧
      ((∀ e, x ≠ .event e) → (∀ p, x ≠ .issue p) → step s = .next (z.applyInput x).settle)) ∧
    (s.eventRank (.podRequest q) = at_ 1 (podPkg q) ∧ s.eventRank (.wordOpStart core) = at_ 2 core ∧
      s.eventRank (.wordOpComplete core id) = at_ 2 core ∧ s.eventRank (.promoteProbe k) = at_ 3 k ∧
      s.eventRank (.pieceLand id) = at_ 4 (((s.item id).map (·.engine)).getD 0) ∧
      s.eventRank (.recordWrite id) = at_ 4 (((s.eng.rows.find? (·.id == id)).map (·.agent - 1000000)).getD 0) ∧
      s.eventRank (.rowStageClaim id) = at_ 5 0 ∧ s.eventRank (.postedWriteEffect f n) = at_ 6 f ∧
      s.eventRank (.create f) = at_ 7 f ∧ s.eventRank (.kill f) = at_ 7 f ∧ s.eventRank (.waitaTimeout k) = at_ 8 0) ∧
    ((s.useSlots i).teams = s.teams ∧ (s.useSlots i).gangs = s.gangs ∧ (s.useSlots i).mem = s.mem ∧
      (s.useSlots i).running = s.running ∧ ∀ c, { (s.useSlots i).core c with near := [] } = { s.core c with near := [] })

/-- R113: whatever a step does, no pipe keeps a clause of a team that is gone, is not Ready, runs elsewhere or has nothing left to
issue. -/
def Obligations.PipesHoldReadyTeams : Prop := ∀ s s' : State, PipesHold s → step s = .next s' → PipesHold s'

/-- The canonical form of the memories (the model's own, log entry 3): memories that read alike are one, and every named operation
over memory keeps the form. -/
def Obligations.MemoryKeepsForm : Prop :=
  (∀ m n : Memory, Memory.wf m = true → Memory.wf n = true → (∀ a, Memory.read m a = Memory.read n a) → m = n) ∧
  ∀ (s : State) (slot : Option Nat) (l : Loc) (pa cl line ways : Nat) (page : Page) (bs : List Byte), Formed s →
    Formed (s.homeWrite slot pa bs) ∧ Formed (s.locWrite slot l bs) ∧ Formed (s.l1Store cl page pa bs) ∧
    Formed (s.l1Evict cl line) ∧ Formed (s.writeBackAll cl) ∧ Formed (s.invalidateAll cl) ∧ Formed (s.setWays cl ways)

/-- The machine at reset: R375 no context is live; R398 and R399 links are Down and PODID is 0; R419 SVC.PLIMIT is 4,200; R455 no
virtual function holds a key slot; R59 the cache ways take 128 KiB; no team, gang, launch or window stands. It meets the invariants;
memory that nothing has written reads as zero (log entry 3, the model's choice). -/
def Obligations.MachineAtReset : Prop :=
  (∀ c, (State.reset.ctx c).st = .free) ∧ (∀ l, (State.reset.fabricLink l).st = .down) ∧ State.reset.link.podid = 0 ∧
  State.reset.svc.plimit = 4200 ∧ (∀ f k, f ≠ 0 → ¬holdsKey State.reset f k) ∧ (∀ cl, 32 * State.reset.waysOf cl = 128) ∧
  State.reset.teams = [] ∧ State.reset.gangs = [] ∧ State.reset.sched.launches = [] ∧ State.reset.sched.wins = [] ∧
  State.reset.now = 0 ∧ State.reset.clk.locked = false ∧ PipesHold State.reset ∧ Formed State.reset ∧
  (∀ slot pa, regionOf pa = .local → State.reset.homeByte slot pa = 0) ∧ ∃ s, step State.reset = .next s ∧ s.now = 1 ∧ PipesHold s
end

