-- ==== Sys2Proof/Laws/State.lean ====
section
/-! SUPPORT. Each update of the state, field by field: one lemma a field, all by rfl. -/

namespace Sys2Proof.Machine

/-! ## withMem -/

@[simp] theorem State.withMem_agenda (s : State) (f : MemSt → MemSt) : (s.withMem f).agenda = s.agenda := rfl
@[simp] theorem State.withMem_turn (s : State) (f : MemSt → MemSt) : (s.withMem f).turn = s.turn := rfl
@[simp] theorem State.withMem_fresh (s : State) (f : MemSt → MemSt) : (s.withMem f).fresh = s.fresh := rfl
@[simp] theorem State.withMem_ids (s : State) (f : MemSt → MemSt) : (s.withMem f).ids = s.ids := rfl
@[simp] theorem State.withMem_now (s : State) (f : MemSt → MemSt) : (s.withMem f).now = s.now := rfl
@[simp] theorem State.withMem_cyc (s : State) (f : MemSt → MemSt) : (s.withMem f).cyc = s.cyc := rfl
@[simp] theorem State.withMem_clk (s : State) (f : MemSt → MemSt) : (s.withMem f).clk = s.clk := rfl
@[simp] theorem State.withMem_teams (s : State) (f : MemSt → MemSt) : (s.withMem f).teams = s.teams := rfl
@[simp] theorem State.withMem_running (s : State) (f : MemSt → MemSt) : (s.withMem f).running = s.running := rfl
@[simp] theorem State.withMem_gangs (s : State) (f : MemSt → MemSt) : (s.withMem f).gangs = s.gangs := rfl
@[simp] theorem State.withMem_cores (s : State) (f : MemSt → MemSt) : (s.withMem f).cores = s.cores := rfl
@[simp] theorem State.withMem_mem (s : State) (f : MemSt → MemSt) : (s.withMem f).mem = f s.mem := rfl
@[simp] theorem State.withMem_sched (s : State) (f : MemSt → MemSt) : (s.withMem f).sched = s.sched := rfl
@[simp] theorem State.withMem_eng (s : State) (f : MemSt → MemSt) : (s.withMem f).eng = s.eng := rfl
@[simp] theorem State.withMem_link (s : State) (f : MemSt → MemSt) : (s.withMem f).link = s.link := rfl
@[simp] theorem State.withMem_host (s : State) (f : MemSt → MemSt) : (s.withMem f).host = s.host := rfl
@[simp] theorem State.withMem_svc (s : State) (f : MemSt → MemSt) : (s.withMem f).svc = s.svc := rfl

/-! ## withSched -/

@[simp] theorem State.withSched_agenda (s : State) (f : SchedSt → SchedSt) : (s.withSched f).agenda = s.agenda := rfl
@[simp] theorem State.withSched_turn (s : State) (f : SchedSt → SchedSt) : (s.withSched f).turn = s.turn := rfl
@[simp] theorem State.withSched_fresh (s : State) (f : SchedSt → SchedSt) : (s.withSched f).fresh = s.fresh := rfl
@[simp] theorem State.withSched_ids (s : State) (f : SchedSt → SchedSt) : (s.withSched f).ids = s.ids := rfl
@[simp] theorem State.withSched_now (s : State) (f : SchedSt → SchedSt) : (s.withSched f).now = s.now := rfl
@[simp] theorem State.withSched_cyc (s : State) (f : SchedSt → SchedSt) : (s.withSched f).cyc = s.cyc := rfl
@[simp] theorem State.withSched_clk (s : State) (f : SchedSt → SchedSt) : (s.withSched f).clk = s.clk := rfl
@[simp] theorem State.withSched_teams (s : State) (f : SchedSt → SchedSt) : (s.withSched f).teams = s.teams := rfl
@[simp] theorem State.withSched_running (s : State) (f : SchedSt → SchedSt) : (s.withSched f).running = s.running := rfl
@[simp] theorem State.withSched_gangs (s : State) (f : SchedSt → SchedSt) : (s.withSched f).gangs = s.gangs := rfl
@[simp] theorem State.withSched_cores (s : State) (f : SchedSt → SchedSt) : (s.withSched f).cores = s.cores := rfl
@[simp] theorem State.withSched_mem (s : State) (f : SchedSt → SchedSt) : (s.withSched f).mem = s.mem := rfl
@[simp] theorem State.withSched_sched (s : State) (f : SchedSt → SchedSt) : (s.withSched f).sched = f s.sched := rfl
@[simp] theorem State.withSched_eng (s : State) (f : SchedSt → SchedSt) : (s.withSched f).eng = s.eng := rfl
@[simp] theorem State.withSched_link (s : State) (f : SchedSt → SchedSt) : (s.withSched f).link = s.link := rfl
@[simp] theorem State.withSched_host (s : State) (f : SchedSt → SchedSt) : (s.withSched f).host = s.host := rfl
@[simp] theorem State.withSched_svc (s : State) (f : SchedSt → SchedSt) : (s.withSched f).svc = s.svc := rfl

/-! ## withEng -/

@[simp] theorem State.withEng_agenda (s : State) (f : EngSt → EngSt) : (s.withEng f).agenda = s.agenda := rfl
@[simp] theorem State.withEng_turn (s : State) (f : EngSt → EngSt) : (s.withEng f).turn = s.turn := rfl
@[simp] theorem State.withEng_fresh (s : State) (f : EngSt → EngSt) : (s.withEng f).fresh = s.fresh := rfl
@[simp] theorem State.withEng_ids (s : State) (f : EngSt → EngSt) : (s.withEng f).ids = s.ids := rfl
@[simp] theorem State.withEng_now (s : State) (f : EngSt → EngSt) : (s.withEng f).now = s.now := rfl
@[simp] theorem State.withEng_cyc (s : State) (f : EngSt → EngSt) : (s.withEng f).cyc = s.cyc := rfl
@[simp] theorem State.withEng_clk (s : State) (f : EngSt → EngSt) : (s.withEng f).clk = s.clk := rfl
@[simp] theorem State.withEng_teams (s : State) (f : EngSt → EngSt) : (s.withEng f).teams = s.teams := rfl
@[simp] theorem State.withEng_running (s : State) (f : EngSt → EngSt) : (s.withEng f).running = s.running := rfl
@[simp] theorem State.withEng_gangs (s : State) (f : EngSt → EngSt) : (s.withEng f).gangs = s.gangs := rfl
@[simp] theorem State.withEng_cores (s : State) (f : EngSt → EngSt) : (s.withEng f).cores = s.cores := rfl
@[simp] theorem State.withEng_mem (s : State) (f : EngSt → EngSt) : (s.withEng f).mem = s.mem := rfl
@[simp] theorem State.withEng_sched (s : State) (f : EngSt → EngSt) : (s.withEng f).sched = s.sched := rfl
@[simp] theorem State.withEng_eng (s : State) (f : EngSt → EngSt) : (s.withEng f).eng = f s.eng := rfl
@[simp] theorem State.withEng_link (s : State) (f : EngSt → EngSt) : (s.withEng f).link = s.link := rfl
@[simp] theorem State.withEng_host (s : State) (f : EngSt → EngSt) : (s.withEng f).host = s.host := rfl
@[simp] theorem State.withEng_svc (s : State) (f : EngSt → EngSt) : (s.withEng f).svc = s.svc := rfl

/-! ## withHost -/

@[simp] theorem State.withHost_agenda (s : State) (f : HostSt → HostSt) : (s.withHost f).agenda = s.agenda := rfl
@[simp] theorem State.withHost_turn (s : State) (f : HostSt → HostSt) : (s.withHost f).turn = s.turn := rfl
@[simp] theorem State.withHost_fresh (s : State) (f : HostSt → HostSt) : (s.withHost f).fresh = s.fresh := rfl
@[simp] theorem State.withHost_ids (s : State) (f : HostSt → HostSt) : (s.withHost f).ids = s.ids := rfl
@[simp] theorem State.withHost_now (s : State) (f : HostSt → HostSt) : (s.withHost f).now = s.now := rfl
@[simp] theorem State.withHost_cyc (s : State) (f : HostSt → HostSt) : (s.withHost f).cyc = s.cyc := rfl
@[simp] theorem State.withHost_clk (s : State) (f : HostSt → HostSt) : (s.withHost f).clk = s.clk := rfl
@[simp] theorem State.withHost_teams (s : State) (f : HostSt → HostSt) : (s.withHost f).teams = s.teams := rfl
@[simp] theorem State.withHost_running (s : State) (f : HostSt → HostSt) : (s.withHost f).running = s.running := rfl
@[simp] theorem State.withHost_gangs (s : State) (f : HostSt → HostSt) : (s.withHost f).gangs = s.gangs := rfl
@[simp] theorem State.withHost_cores (s : State) (f : HostSt → HostSt) : (s.withHost f).cores = s.cores := rfl
@[simp] theorem State.withHost_mem (s : State) (f : HostSt → HostSt) : (s.withHost f).mem = s.mem := rfl
@[simp] theorem State.withHost_sched (s : State) (f : HostSt → HostSt) : (s.withHost f).sched = s.sched := rfl
@[simp] theorem State.withHost_eng (s : State) (f : HostSt → HostSt) : (s.withHost f).eng = s.eng := rfl
@[simp] theorem State.withHost_link (s : State) (f : HostSt → HostSt) : (s.withHost f).link = s.link := rfl
@[simp] theorem State.withHost_host (s : State) (f : HostSt → HostSt) : (s.withHost f).host = f s.host := rfl
@[simp] theorem State.withHost_svc (s : State) (f : HostSt → HostSt) : (s.withHost f).svc = s.svc := rfl

/-! ## withLink -/

@[simp] theorem State.withLink_agenda (s : State) (f : LinkSt → LinkSt) : (s.withLink f).agenda = s.agenda := rfl
@[simp] theorem State.withLink_turn (s : State) (f : LinkSt → LinkSt) : (s.withLink f).turn = s.turn := rfl
@[simp] theorem State.withLink_fresh (s : State) (f : LinkSt → LinkSt) : (s.withLink f).fresh = s.fresh := rfl
@[simp] theorem State.withLink_ids (s : State) (f : LinkSt → LinkSt) : (s.withLink f).ids = s.ids := rfl
@[simp] theorem State.withLink_now (s : State) (f : LinkSt → LinkSt) : (s.withLink f).now = s.now := rfl
@[simp] theorem State.withLink_cyc (s : State) (f : LinkSt → LinkSt) : (s.withLink f).cyc = s.cyc := rfl
@[simp] theorem State.withLink_clk (s : State) (f : LinkSt → LinkSt) : (s.withLink f).clk = s.clk := rfl
@[simp] theorem State.withLink_teams (s : State) (f : LinkSt → LinkSt) : (s.withLink f).teams = s.teams := rfl
@[simp] theorem State.withLink_running (s : State) (f : LinkSt → LinkSt) : (s.withLink f).running = s.running := rfl
@[simp] theorem State.withLink_gangs (s : State) (f : LinkSt → LinkSt) : (s.withLink f).gangs = s.gangs := rfl
@[simp] theorem State.withLink_cores (s : State) (f : LinkSt → LinkSt) : (s.withLink f).cores = s.cores := rfl
@[simp] theorem State.withLink_mem (s : State) (f : LinkSt → LinkSt) : (s.withLink f).mem = s.mem := rfl
@[simp] theorem State.withLink_sched (s : State) (f : LinkSt → LinkSt) : (s.withLink f).sched = s.sched := rfl
@[simp] theorem State.withLink_eng (s : State) (f : LinkSt → LinkSt) : (s.withLink f).eng = s.eng := rfl
@[simp] theorem State.withLink_link (s : State) (f : LinkSt → LinkSt) : (s.withLink f).link = f s.link := rfl
@[simp] theorem State.withLink_host (s : State) (f : LinkSt → LinkSt) : (s.withLink f).host = s.host := rfl
@[simp] theorem State.withLink_svc (s : State) (f : LinkSt → LinkSt) : (s.withLink f).svc = s.svc := rfl

/-! ## withSvc -/

@[simp] theorem State.withSvc_agenda (s : State) (f : Svc → Svc) : (s.withSvc f).agenda = s.agenda := rfl
@[simp] theorem State.withSvc_turn (s : State) (f : Svc → Svc) : (s.withSvc f).turn = s.turn := rfl
@[simp] theorem State.withSvc_fresh (s : State) (f : Svc → Svc) : (s.withSvc f).fresh = s.fresh := rfl
@[simp] theorem State.withSvc_ids (s : State) (f : Svc → Svc) : (s.withSvc f).ids = s.ids := rfl
@[simp] theorem State.withSvc_now (s : State) (f : Svc → Svc) : (s.withSvc f).now = s.now := rfl
@[simp] theorem State.withSvc_cyc (s : State) (f : Svc → Svc) : (s.withSvc f).cyc = s.cyc := rfl
@[simp] theorem State.withSvc_clk (s : State) (f : Svc → Svc) : (s.withSvc f).clk = s.clk := rfl
@[simp] theorem State.withSvc_teams (s : State) (f : Svc → Svc) : (s.withSvc f).teams = s.teams := rfl
@[simp] theorem State.withSvc_running (s : State) (f : Svc → Svc) : (s.withSvc f).running = s.running := rfl
@[simp] theorem State.withSvc_gangs (s : State) (f : Svc → Svc) : (s.withSvc f).gangs = s.gangs := rfl
@[simp] theorem State.withSvc_cores (s : State) (f : Svc → Svc) : (s.withSvc f).cores = s.cores := rfl
@[simp] theorem State.withSvc_mem (s : State) (f : Svc → Svc) : (s.withSvc f).mem = s.mem := rfl
@[simp] theorem State.withSvc_sched (s : State) (f : Svc → Svc) : (s.withSvc f).sched = s.sched := rfl
@[simp] theorem State.withSvc_eng (s : State) (f : Svc → Svc) : (s.withSvc f).eng = s.eng := rfl
@[simp] theorem State.withSvc_link (s : State) (f : Svc → Svc) : (s.withSvc f).link = s.link := rfl
@[simp] theorem State.withSvc_host (s : State) (f : Svc → Svc) : (s.withSvc f).host = s.host := rfl
@[simp] theorem State.withSvc_svc (s : State) (f : Svc → Svc) : (s.withSvc f).svc = f s.svc := rfl

/-! ## setTeam -/

@[simp] theorem State.setTeam_agenda (s : State) (t : Team) : (s.setTeam t).agenda = s.agenda := rfl
@[simp] theorem State.setTeam_turn (s : State) (t : Team) : (s.setTeam t).turn = s.turn := rfl
@[simp] theorem State.setTeam_fresh (s : State) (t : Team) : (s.setTeam t).fresh = s.fresh := rfl
@[simp] theorem State.setTeam_ids (s : State) (t : Team) : (s.setTeam t).ids = s.ids := rfl
@[simp] theorem State.setTeam_now (s : State) (t : Team) : (s.setTeam t).now = s.now := rfl
@[simp] theorem State.setTeam_cyc (s : State) (t : Team) : (s.setTeam t).cyc = s.cyc := rfl
@[simp] theorem State.setTeam_clk (s : State) (t : Team) : (s.setTeam t).clk = s.clk := rfl
@[simp] theorem State.setTeam_teams (s : State) (t : Team) : (s.setTeam t).teams = FMap.put s.teams t.id t := rfl
@[simp] theorem State.setTeam_running (s : State) (t : Team) : (s.setTeam t).running = s.running := rfl
@[simp] theorem State.setTeam_gangs (s : State) (t : Team) : (s.setTeam t).gangs = s.gangs := rfl
@[simp] theorem State.setTeam_cores (s : State) (t : Team) : (s.setTeam t).cores = s.cores := rfl
@[simp] theorem State.setTeam_mem (s : State) (t : Team) : (s.setTeam t).mem = s.mem := rfl
@[simp] theorem State.setTeam_sched (s : State) (t : Team) : (s.setTeam t).sched = s.sched := rfl
@[simp] theorem State.setTeam_eng (s : State) (t : Team) : (s.setTeam t).eng = s.eng := rfl
@[simp] theorem State.setTeam_link (s : State) (t : Team) : (s.setTeam t).link = s.link := rfl
@[simp] theorem State.setTeam_host (s : State) (t : Team) : (s.setTeam t).host = s.host := rfl
@[simp] theorem State.setTeam_svc (s : State) (t : Team) : (s.setTeam t).svc = s.svc := rfl

/-! ## modTeam -/

@[simp] theorem State.modTeam_agenda (s : State) (t : Nat) (f : Team → Team) : (s.modTeam t f).agenda = s.agenda := rfl
@[simp] theorem State.modTeam_turn (s : State) (t : Nat) (f : Team → Team) : (s.modTeam t f).turn = s.turn := rfl
@[simp] theorem State.modTeam_fresh (s : State) (t : Nat) (f : Team → Team) : (s.modTeam t f).fresh = s.fresh := rfl
@[simp] theorem State.modTeam_ids (s : State) (t : Nat) (f : Team → Team) : (s.modTeam t f).ids = s.ids := rfl
@[simp] theorem State.modTeam_now (s : State) (t : Nat) (f : Team → Team) : (s.modTeam t f).now = s.now := rfl
@[simp] theorem State.modTeam_cyc (s : State) (t : Nat) (f : Team → Team) : (s.modTeam t f).cyc = s.cyc := rfl
@[simp] theorem State.modTeam_clk (s : State) (t : Nat) (f : Team → Team) : (s.modTeam t f).clk = s.clk := rfl
@[simp] theorem State.modTeam_teams (s : State) (t : Nat) (f : Team → Team) : (s.modTeam t f).teams = FMap.modify s.teams t f := rfl
@[simp] theorem State.modTeam_running (s : State) (t : Nat) (f : Team → Team) : (s.modTeam t f).running = s.running := rfl
@[simp] theorem State.modTeam_gangs (s : State) (t : Nat) (f : Team → Team) : (s.modTeam t f).gangs = s.gangs := rfl
@[simp] theorem State.modTeam_cores (s : State) (t : Nat) (f : Team → Team) : (s.modTeam t f).cores = s.cores := rfl
@[simp] theorem State.modTeam_mem (s : State) (t : Nat) (f : Team → Team) : (s.modTeam t f).mem = s.mem := rfl
@[simp] theorem State.modTeam_sched (s : State) (t : Nat) (f : Team → Team) : (s.modTeam t f).sched = s.sched := rfl
@[simp] theorem State.modTeam_eng (s : State) (t : Nat) (f : Team → Team) : (s.modTeam t f).eng = s.eng := rfl
@[simp] theorem State.modTeam_link (s : State) (t : Nat) (f : Team → Team) : (s.modTeam t f).link = s.link := rfl
@[simp] theorem State.modTeam_host (s : State) (t : Nat) (f : Team → Team) : (s.modTeam t f).host = s.host := rfl
@[simp] theorem State.modTeam_svc (s : State) (t : Nat) (f : Team → Team) : (s.modTeam t f).svc = s.svc := rfl

/-! ## modGang -/

@[simp] theorem State.modGang_agenda (s : State) (g : Nat) (f : Gang → Gang) : (s.modGang g f).agenda = s.agenda := rfl
@[simp] theorem State.modGang_turn (s : State) (g : Nat) (f : Gang → Gang) : (s.modGang g f).turn = s.turn := rfl
@[simp] theorem State.modGang_fresh (s : State) (g : Nat) (f : Gang → Gang) : (s.modGang g f).fresh = s.fresh := rfl
@[simp] theorem State.modGang_ids (s : State) (g : Nat) (f : Gang → Gang) : (s.modGang g f).ids = s.ids := rfl
@[simp] theorem State.modGang_now (s : State) (g : Nat) (f : Gang → Gang) : (s.modGang g f).now = s.now := rfl
@[simp] theorem State.modGang_cyc (s : State) (g : Nat) (f : Gang → Gang) : (s.modGang g f).cyc = s.cyc := rfl
@[simp] theorem State.modGang_clk (s : State) (g : Nat) (f : Gang → Gang) : (s.modGang g f).clk = s.clk := rfl
@[simp] theorem State.modGang_teams (s : State) (g : Nat) (f : Gang → Gang) : (s.modGang g f).teams = s.teams := rfl
@[simp] theorem State.modGang_running (s : State) (g : Nat) (f : Gang → Gang) : (s.modGang g f).running = s.running := rfl
@[simp] theorem State.modGang_gangs (s : State) (g : Nat) (f : Gang → Gang) : (s.modGang g f).gangs = FMap.modify s.gangs g f := rfl
@[simp] theorem State.modGang_cores (s : State) (g : Nat) (f : Gang → Gang) : (s.modGang g f).cores = s.cores := rfl
@[simp] theorem State.modGang_mem (s : State) (g : Nat) (f : Gang → Gang) : (s.modGang g f).mem = s.mem := rfl
@[simp] theorem State.modGang_sched (s : State) (g : Nat) (f : Gang → Gang) : (s.modGang g f).sched = s.sched := rfl
@[simp] theorem State.modGang_eng (s : State) (g : Nat) (f : Gang → Gang) : (s.modGang g f).eng = s.eng := rfl
@[simp] theorem State.modGang_link (s : State) (g : Nat) (f : Gang → Gang) : (s.modGang g f).link = s.link := rfl
@[simp] theorem State.modGang_host (s : State) (g : Nat) (f : Gang → Gang) : (s.modGang g f).host = s.host := rfl
@[simp] theorem State.modGang_svc (s : State) (g : Nat) (f : Gang → Gang) : (s.modGang g f).svc = s.svc := rfl

/-! ## modCore -/

@[simp] theorem State.modCore_agenda (s : State) (c : Nat) (f : Core → Core) : (s.modCore c f).agenda = s.agenda := rfl
@[simp] theorem State.modCore_turn (s : State) (c : Nat) (f : Core → Core) : (s.modCore c f).turn = s.turn := rfl
@[simp] theorem State.modCore_fresh (s : State) (c : Nat) (f : Core → Core) : (s.modCore c f).fresh = s.fresh := rfl
@[simp] theorem State.modCore_ids (s : State) (c : Nat) (f : Core → Core) : (s.modCore c f).ids = s.ids := rfl
@[simp] theorem State.modCore_now (s : State) (c : Nat) (f : Core → Core) : (s.modCore c f).now = s.now := rfl
@[simp] theorem State.modCore_cyc (s : State) (c : Nat) (f : Core → Core) : (s.modCore c f).cyc = s.cyc := rfl
@[simp] theorem State.modCore_clk (s : State) (c : Nat) (f : Core → Core) : (s.modCore c f).clk = s.clk := rfl
@[simp] theorem State.modCore_teams (s : State) (c : Nat) (f : Core → Core) : (s.modCore c f).teams = s.teams := rfl
@[simp] theorem State.modCore_running (s : State) (c : Nat) (f : Core → Core) : (s.modCore c f).running = s.running := rfl
@[simp] theorem State.modCore_gangs (s : State) (c : Nat) (f : Core → Core) : (s.modCore c f).gangs = s.gangs := rfl
@[simp] theorem State.modCore_cores (s : State) (c : Nat) (f : Core → Core) : (s.modCore c f).cores = FMap.put s.cores c (f (s.core c)) := rfl
@[simp] theorem State.modCore_mem (s : State) (c : Nat) (f : Core → Core) : (s.modCore c f).mem = s.mem := rfl
@[simp] theorem State.modCore_sched (s : State) (c : Nat) (f : Core → Core) : (s.modCore c f).sched = s.sched := rfl
@[simp] theorem State.modCore_eng (s : State) (c : Nat) (f : Core → Core) : (s.modCore c f).eng = s.eng := rfl
@[simp] theorem State.modCore_link (s : State) (c : Nat) (f : Core → Core) : (s.modCore c f).link = s.link := rfl
@[simp] theorem State.modCore_host (s : State) (c : Nat) (f : Core → Core) : (s.modCore c f).host = s.host := rfl
@[simp] theorem State.modCore_svc (s : State) (c : Nat) (f : Core → Core) : (s.modCore c f).svc = s.svc := rfl

/-! ## modCtx -/

@[simp] theorem State.modCtx_agenda (s : State) (c : Nat) (f : Ctx → Ctx) : (s.modCtx c f).agenda = s.agenda := rfl
@[simp] theorem State.modCtx_turn (s : State) (c : Nat) (f : Ctx → Ctx) : (s.modCtx c f).turn = s.turn := rfl
@[simp] theorem State.modCtx_fresh (s : State) (c : Nat) (f : Ctx → Ctx) : (s.modCtx c f).fresh = s.fresh := rfl
@[simp] theorem State.modCtx_ids (s : State) (c : Nat) (f : Ctx → Ctx) : (s.modCtx c f).ids = s.ids := rfl
@[simp] theorem State.modCtx_now (s : State) (c : Nat) (f : Ctx → Ctx) : (s.modCtx c f).now = s.now := rfl
@[simp] theorem State.modCtx_cyc (s : State) (c : Nat) (f : Ctx → Ctx) : (s.modCtx c f).cyc = s.cyc := rfl
@[simp] theorem State.modCtx_clk (s : State) (c : Nat) (f : Ctx → Ctx) : (s.modCtx c f).clk = s.clk := rfl
@[simp] theorem State.modCtx_teams (s : State) (c : Nat) (f : Ctx → Ctx) : (s.modCtx c f).teams = s.teams := rfl
@[simp] theorem State.modCtx_running (s : State) (c : Nat) (f : Ctx → Ctx) : (s.modCtx c f).running = s.running := rfl
@[simp] theorem State.modCtx_gangs (s : State) (c : Nat) (f : Ctx → Ctx) : (s.modCtx c f).gangs = s.gangs := rfl
@[simp] theorem State.modCtx_cores (s : State) (c : Nat) (f : Ctx → Ctx) : (s.modCtx c f).cores = s.cores := rfl
@[simp] theorem State.modCtx_mem (s : State) (c : Nat) (f : Ctx → Ctx) : (s.modCtx c f).mem = s.mem := rfl
@[simp] theorem State.modCtx_sched (s : State) (c : Nat) (f : Ctx → Ctx) : (s.modCtx c f).sched = { s.sched with ctxs := FMap.put s.sched.ctxs c (f (s.ctx c)) } := rfl
@[simp] theorem State.modCtx_eng (s : State) (c : Nat) (f : Ctx → Ctx) : (s.modCtx c f).eng = s.eng := rfl
@[simp] theorem State.modCtx_link (s : State) (c : Nat) (f : Ctx → Ctx) : (s.modCtx c f).link = s.link := rfl
@[simp] theorem State.modCtx_host (s : State) (c : Nat) (f : Ctx → Ctx) : (s.modCtx c f).host = s.host := rfl
@[simp] theorem State.modCtx_svc (s : State) (c : Nat) (f : Ctx → Ctx) : (s.modCtx c f).svc = s.svc := rfl

/-! ## freePipe -/

@[simp] theorem State.freePipe_agenda (s : State) (t : Team) : (s.freePipe t).agenda = s.agenda := rfl
@[simp] theorem State.freePipe_turn (s : State) (t : Team) : (s.freePipe t).turn = s.turn := rfl
@[simp] theorem State.freePipe_fresh (s : State) (t : Team) : (s.freePipe t).fresh = s.fresh := rfl
@[simp] theorem State.freePipe_ids (s : State) (t : Team) : (s.freePipe t).ids = s.ids := rfl
@[simp] theorem State.freePipe_now (s : State) (t : Team) : (s.freePipe t).now = s.now := rfl
@[simp] theorem State.freePipe_cyc (s : State) (t : Team) : (s.freePipe t).cyc = s.cyc := rfl
@[simp] theorem State.freePipe_clk (s : State) (t : Team) : (s.freePipe t).clk = s.clk := rfl
@[simp] theorem State.freePipe_teams (s : State) (t : Team) : (s.freePipe t).teams = s.teams := rfl
@[simp] theorem State.freePipe_running (s : State) (t : Team) : (s.freePipe t).running = FMap.del s.running t.pipe := rfl
@[simp] theorem State.freePipe_gangs (s : State) (t : Team) : (s.freePipe t).gangs = s.gangs := rfl
@[simp] theorem State.freePipe_cores (s : State) (t : Team) : (s.freePipe t).cores = s.cores := rfl
@[simp] theorem State.freePipe_mem (s : State) (t : Team) : (s.freePipe t).mem = s.mem := rfl
@[simp] theorem State.freePipe_sched (s : State) (t : Team) : (s.freePipe t).sched = s.sched := rfl
@[simp] theorem State.freePipe_eng (s : State) (t : Team) : (s.freePipe t).eng = s.eng := rfl
@[simp] theorem State.freePipe_link (s : State) (t : Team) : (s.freePipe t).link = s.link := rfl
@[simp] theorem State.freePipe_host (s : State) (t : Team) : (s.freePipe t).host = s.host := rfl
@[simp] theorem State.freePipe_svc (s : State) (t : Team) : (s.freePipe t).svc = s.svc := rfl

/-! ## touch -/

@[simp] theorem State.touch_agenda (s : State) (g : Nat) : (s.touch g).agenda = s.agenda := rfl
@[simp] theorem State.touch_turn (s : State) (g : Nat) : (s.touch g).turn = s.turn := rfl
@[simp] theorem State.touch_fresh (s : State) (g : Nat) : (s.touch g).fresh = s.fresh := rfl
@[simp] theorem State.touch_ids (s : State) (g : Nat) : (s.touch g).ids = s.ids := rfl
@[simp] theorem State.touch_now (s : State) (g : Nat) : (s.touch g).now = s.now := rfl
@[simp] theorem State.touch_cyc (s : State) (g : Nat) : (s.touch g).cyc = s.cyc := rfl
@[simp] theorem State.touch_clk (s : State) (g : Nat) : (s.touch g).clk = s.clk := rfl
@[simp] theorem State.touch_teams (s : State) (g : Nat) : (s.touch g).teams = s.teams := rfl
@[simp] theorem State.touch_running (s : State) (g : Nat) : (s.touch g).running = s.running := rfl
@[simp] theorem State.touch_gangs (s : State) (g : Nat) : (s.touch g).gangs = FMap.modify s.gangs g fun x => { x with idle := 0 } := rfl
@[simp] theorem State.touch_cores (s : State) (g : Nat) : (s.touch g).cores = s.cores := rfl
@[simp] theorem State.touch_mem (s : State) (g : Nat) : (s.touch g).mem = s.mem := rfl
@[simp] theorem State.touch_sched (s : State) (g : Nat) : (s.touch g).sched = s.sched := rfl
@[simp] theorem State.touch_eng (s : State) (g : Nat) : (s.touch g).eng = s.eng := rfl
@[simp] theorem State.touch_link (s : State) (g : Nat) : (s.touch g).link = s.link := rfl
@[simp] theorem State.touch_host (s : State) (g : Nat) : (s.touch g).host = s.host := rfl
@[simp] theorem State.touch_svc (s : State) (g : Nat) : (s.touch g).svc = s.svc := rfl

/-! ## interrupt -/

@[simp] theorem State.interrupt_agenda (s : State) (func vec : Nat) : (s.interrupt func vec).agenda = s.agenda := rfl
@[simp] theorem State.interrupt_turn (s : State) (func vec : Nat) : (s.interrupt func vec).turn = s.turn := rfl
@[simp] theorem State.interrupt_fresh (s : State) (func vec : Nat) : (s.interrupt func vec).fresh = s.fresh := rfl
@[simp] theorem State.interrupt_ids (s : State) (func vec : Nat) : (s.interrupt func vec).ids = s.ids := rfl
@[simp] theorem State.interrupt_now (s : State) (func vec : Nat) : (s.interrupt func vec).now = s.now := rfl
@[simp] theorem State.interrupt_cyc (s : State) (func vec : Nat) : (s.interrupt func vec).cyc = s.cyc := rfl
@[simp] theorem State.interrupt_clk (s : State) (func vec : Nat) : (s.interrupt func vec).clk = s.clk := rfl
@[simp] theorem State.interrupt_teams (s : State) (func vec : Nat) : (s.interrupt func vec).teams = s.teams := rfl
@[simp] theorem State.interrupt_running (s : State) (func vec : Nat) : (s.interrupt func vec).running = s.running := rfl
@[simp] theorem State.interrupt_gangs (s : State) (func vec : Nat) : (s.interrupt func vec).gangs = s.gangs := rfl
@[simp] theorem State.interrupt_cores (s : State) (func vec : Nat) : (s.interrupt func vec).cores = s.cores := rfl
@[simp] theorem State.interrupt_mem (s : State) (func vec : Nat) : (s.interrupt func vec).mem = s.mem := rfl
@[simp] theorem State.interrupt_sched (s : State) (func vec : Nat) : (s.interrupt func vec).sched = s.sched := rfl
@[simp] theorem State.interrupt_eng (s : State) (func vec : Nat) : (s.interrupt func vec).eng = s.eng := rfl
@[simp] theorem State.interrupt_link (s : State) (func vec : Nat) : (s.interrupt func vec).link = s.link := rfl
@[simp] theorem State.interrupt_host (s : State) (func vec : Nat) : (s.interrupt func vec).host = { s.host with irqs := s.host.irqs ++ [(func, vec)] } := rfl
@[simp] theorem State.interrupt_svc (s : State) (func vec : Nat) : (s.interrupt func vec).svc = s.svc := rfl

/-! ## The settled state -/

@[simp] theorem State.settle_agenda (s : State) : s.settle.agenda = s.agenda := rfl
@[simp] theorem State.settle_turn (s : State) : s.settle.turn = s.turn := rfl
@[simp] theorem State.settle_fresh (s : State) : s.settle.fresh = s.fresh := rfl
@[simp] theorem State.settle_ids (s : State) : s.settle.ids = s.ids := rfl
@[simp] theorem State.settle_now (s : State) : s.settle.now = s.now := rfl
@[simp] theorem State.settle_cyc (s : State) : s.settle.cyc = s.cyc := rfl
@[simp] theorem State.settle_clk (s : State) : s.settle.clk = s.clk := rfl
@[simp] theorem State.settle_teams (s : State) : s.settle.teams = s.teams := rfl
@[simp] theorem State.settle_gangs (s : State) : s.settle.gangs = s.gangs := rfl
@[simp] theorem State.settle_cores (s : State) : s.settle.cores = s.cores := rfl
@[simp] theorem State.settle_mem (s : State) : s.settle.mem = s.mem := rfl
@[simp] theorem State.settle_sched (s : State) : s.settle.sched = s.sched := rfl
@[simp] theorem State.settle_eng (s : State) : s.settle.eng = s.eng := rfl
@[simp] theorem State.settle_link (s : State) : s.settle.link = s.link := rfl
@[simp] theorem State.settle_host (s : State) : s.settle.host = s.host := rfl
@[simp] theorem State.settle_svc (s : State) : s.settle.svc = s.svc := rfl

/-! ## Teams -/

@[simp] theorem Team.setS_gang (t : Team) (r : Nat) (b : Word) (g : Tag) (q : Bool) :
    (t.setS r b g q).gang = t.gang := rfl
@[simp] theorem Team.setS_group (t : Team) (r : Nat) (b : Word) (g : Tag) (q : Bool) :
    (t.setS r b g q).group = t.group := rfl
@[simp] theorem Team.setS_index (t : Team) (r : Nat) (b : Word) (g : Tag) (q : Bool) :
    (t.setS r b g q).index = t.index := rfl
@[simp] theorem Team.setS_slot (t : Team) (r : Nat) (b : Word) (g : Tag) (q : Bool) :
    (t.setS r b g q).slot = t.slot := rfl
@[simp] theorem Team.setS_pipe (t : Team) (r : Nat) (b : Word) (g : Tag) (q : Bool) :
    (t.setS r b g q).pipe = t.pipe := rfl
@[simp] theorem Team.setS_base (t : Team) (r : Nat) (b : Word) (g : Tag) (q : Bool) :
    (t.setS r b g q).base = t.base := rfl
@[simp] theorem Team.setS_lanes (t : Team) (r : Nat) (b : Word) (g : Tag) (q : Bool) :
    (t.setS r b g q).lanes = t.lanes := rfl
@[simp] theorem Team.setS_vregs (t : Team) (r : Nat) (b : Word) (g : Tag) (q : Bool) :
    (t.setS r b g q).vregs = t.vregs := rfl
@[simp] theorem Team.setS_accs (t : Team) (r : Nat) (b : Word) (g : Tag) (q : Bool) :
    (t.setS r b g q).accs = t.accs := rfl
@[simp] theorem Team.setS_priv (t : Team) (r : Nat) (b : Word) (g : Tag) (q : Bool) :
    (t.setS r b g q).priv = t.priv := rfl
@[simp] theorem Team.setS_ftz (t : Team) (r : Nat) (b : Word) (g : Tag) (q : Bool) :
    (t.setS r b g q).ftz = t.ftz := rfl
@[simp] theorem Team.setS_i4trap (t : Team) (r : Nat) (b : Word) (g : Tag) (q : Bool) :
    (t.setS r b g q).i4trap = t.i4trap := rfl
@[simp] theorem Team.setS_unwtrap (t : Team) (r : Nat) (b : Word) (g : Tag) (q : Bool) :
    (t.setS r b g q).unwtrap = t.unwtrap := rfl
@[simp] theorem Team.setS_st (t : Team) (r : Nat) (b : Word) (g : Tag) (q : Bool) :
    (t.setS r b g q).st = t.st := rfl
@[simp] theorem Team.setS_back (t : Team) (r : Nat) (b : Word) (g : Tag) (q : Bool) :
    (t.setS r b g q).back = t.back := rfl
@[simp] theorem Team.setS_pc (t : Team) (r : Nat) (b : Word) (g : Tag) (q : Bool) :
    (t.setS r b g q).pc = t.pc := rfl
@[simp] theorem Team.setS_clause (t : Team) (r : Nat) (b : Word) (g : Tag) (q : Bool) :
    (t.setS r b g q).clause = t.clause := rfl
@[simp] theorem Team.setS_cur (t : Team) (r : Nat) (b : Word) (g : Tag) (q : Bool) :
    (t.setS r b g q).cur = t.cur := rfl
@[simp] theorem Team.setS_exited (t : Team) (r : Nat) (b : Word) (g : Tag) (q : Bool) :
    (t.setS r b g q).exited = t.exited := rfl
@[simp] theorem Team.setS_stack (t : Team) (r : Nat) (b : Word) (g : Tag) (q : Bool) :
    (t.setS r b g q).stack = t.stack := rfl
@[simp] theorem Team.setS_x (t : Team) (r : Nat) (b : Word) (g : Tag) (q : Bool) :
    (t.setS r b g q).x = t.x := rfl
@[simp] theorem Team.setS_sregs (t : Team) (r : Nat) (b : Word) (g : Tag) (q : Bool) :
    (t.setS r b g q).sregs = FMap.put t.sregs r { bits := b, tag := g, taint := q } := rfl
@[simp] theorem Team.setS_preds (t : Team) (r : Nat) (b : Word) (g : Tag) (q : Bool) :
    (t.setS r b g q).preds = t.preds := rfl
@[simp] theorem Team.setS_kregs (t : Team) (r : Nat) (b : Word) (g : Tag) (q : Bool) :
    (t.setS r b g q).kregs = t.kregs := rfl
@[simp] theorem Team.setS_file (t : Team) (r : Nat) (b : Word) (g : Tag) (q : Bool) :
    (t.setS r b g q).file = t.file := rfl
@[simp] theorem Team.setS_acc (t : Team) (r : Nat) (b : Word) (g : Tag) (q : Bool) :
    (t.setS r b g q).acc = t.acc := rfl
@[simp] theorem Team.setS_pend (t : Team) (r : Nat) (b : Word) (g : Tag) (q : Bool) :
    (t.setS r b g q).pend = t.pend := rfl
@[simp] theorem Team.setS_sticky (t : Team) (r : Nat) (b : Word) (g : Tag) (q : Bool) :
    (t.setS r b g q).sticky = t.sticky := rfl
@[simp] theorem Team.setS_readers (t : Team) (r : Nat) (b : Word) (g : Tag) (q : Bool) :
    (t.setS r b g q).readers = t.readers := rfl
@[simp] theorem Team.setS_bars (t : Team) (r : Nat) (b : Word) (g : Tag) (q : Bool) :
    (t.setS r b g q).bars = t.bars := rfl
@[simp] theorem Team.setS_prick (t : Team) (r : Nat) (b : Word) (g : Tag) (q : Bool) :
    (t.setS r b g q).prick = t.prick := rfl
@[simp] theorem Team.setS_region (t : Team) (r : Nat) (b : Word) (g : Tag) (q : Bool) :
    (t.setS r b g q).region = t.region := rfl
@[simp] theorem Team.setS_store (t : Team) (r : Nat) (b : Word) (g : Tag) (q : Bool) :
    (t.setS r b g q).store = t.store := rfl
@[simp] theorem Team.setS_skidLeft (t : Team) (r : Nat) (b : Word) (g : Tag) (q : Bool) :
    (t.setS r b g q).skidLeft = t.skidLeft := rfl
@[simp] theorem Team.setS_skid (t : Team) (r : Nat) (b : Word) (g : Tag) (q : Bool) :
    (t.setS r b g q).skid = t.skid := rfl
@[simp] theorem Team.setS_err (t : Team) (r : Nat) (b : Word) (g : Tag) (q : Bool) :
    (t.setS r b g q).err = t.err := rfl
@[simp] theorem Team.setS_xrec (t : Team) (r : Nat) (b : Word) (g : Tag) (q : Bool) :
    (t.setS r b g q).xrec = t.xrec := rfl
@[simp] theorem Team.setS_boost (t : Team) (r : Nat) (b : Word) (g : Tag) (q : Bool) :
    (t.setS r b g q).boost = t.boost := rfl
@[simp] theorem Team.setS_passed (t : Team) (r : Nat) (b : Word) (g : Tag) (q : Bool) :
    (t.setS r b g q).passed = t.passed := rfl
@[simp] theorem Team.setS_lastIssue (t : Team) (r : Nat) (b : Word) (g : Tag) (q : Bool) :
    (t.setS r b g q).lastIssue = t.lastIssue := rfl
@[simp] theorem Team.setS_afresh (t : Team) (r : Nat) (b : Word) (g : Tag) (q : Bool) :
    (t.setS r b g q).afresh = t.afresh := rfl
@[simp] theorem Team.setS_freed (t : Team) (r : Nat) (b : Word) (g : Tag) (q : Bool) :
    (t.setS r b g q).freed = t.freed := rfl

@[simp] theorem Team.raiseFlags_gang (t : Team) (f : Sticky) :
    (t.raiseFlags f).gang = t.gang := rfl
@[simp] theorem Team.raiseFlags_group (t : Team) (f : Sticky) :
    (t.raiseFlags f).group = t.group := rfl
@[simp] theorem Team.raiseFlags_index (t : Team) (f : Sticky) :
    (t.raiseFlags f).index = t.index := rfl
@[simp] theorem Team.raiseFlags_slot (t : Team) (f : Sticky) :
    (t.raiseFlags f).slot = t.slot := rfl
@[simp] theorem Team.raiseFlags_pipe (t : Team) (f : Sticky) :
    (t.raiseFlags f).pipe = t.pipe := rfl
@[simp] theorem Team.raiseFlags_base (t : Team) (f : Sticky) :
    (t.raiseFlags f).base = t.base := rfl
@[simp] theorem Team.raiseFlags_lanes (t : Team) (f : Sticky) :
    (t.raiseFlags f).lanes = t.lanes := rfl
@[simp] theorem Team.raiseFlags_vregs (t : Team) (f : Sticky) :
    (t.raiseFlags f).vregs = t.vregs := rfl
@[simp] theorem Team.raiseFlags_accs (t : Team) (f : Sticky) :
    (t.raiseFlags f).accs = t.accs := rfl
@[simp] theorem Team.raiseFlags_priv (t : Team) (f : Sticky) :
    (t.raiseFlags f).priv = t.priv := rfl
@[simp] theorem Team.raiseFlags_ftz (t : Team) (f : Sticky) :
    (t.raiseFlags f).ftz = t.ftz := rfl
@[simp] theorem Team.raiseFlags_i4trap (t : Team) (f : Sticky) :
    (t.raiseFlags f).i4trap = t.i4trap := rfl
@[simp] theorem Team.raiseFlags_unwtrap (t : Team) (f : Sticky) :
    (t.raiseFlags f).unwtrap = t.unwtrap := rfl
@[simp] theorem Team.raiseFlags_st (t : Team) (f : Sticky) :
    (t.raiseFlags f).st = t.st := rfl
@[simp] theorem Team.raiseFlags_back (t : Team) (f : Sticky) :
    (t.raiseFlags f).back = t.back := rfl
@[simp] theorem Team.raiseFlags_pc (t : Team) (f : Sticky) :
    (t.raiseFlags f).pc = t.pc := rfl
@[simp] theorem Team.raiseFlags_clause (t : Team) (f : Sticky) :
    (t.raiseFlags f).clause = t.clause := rfl
@[simp] theorem Team.raiseFlags_cur (t : Team) (f : Sticky) :
    (t.raiseFlags f).cur = t.cur := rfl
@[simp] theorem Team.raiseFlags_exited (t : Team) (f : Sticky) :
    (t.raiseFlags f).exited = t.exited := rfl
@[simp] theorem Team.raiseFlags_stack (t : Team) (f : Sticky) :
    (t.raiseFlags f).stack = t.stack := rfl
@[simp] theorem Team.raiseFlags_x (t : Team) (f : Sticky) :
    (t.raiseFlags f).x = t.x := rfl
@[simp] theorem Team.raiseFlags_sregs (t : Team) (f : Sticky) :
    (t.raiseFlags f).sregs = t.sregs := rfl
@[simp] theorem Team.raiseFlags_preds (t : Team) (f : Sticky) :
    (t.raiseFlags f).preds = t.preds := rfl
@[simp] theorem Team.raiseFlags_kregs (t : Team) (f : Sticky) :
    (t.raiseFlags f).kregs = t.kregs := rfl
@[simp] theorem Team.raiseFlags_file (t : Team) (f : Sticky) :
    (t.raiseFlags f).file = t.file := rfl
@[simp] theorem Team.raiseFlags_acc (t : Team) (f : Sticky) :
    (t.raiseFlags f).acc = t.acc := rfl
@[simp] theorem Team.raiseFlags_pend (t : Team) (f : Sticky) :
    (t.raiseFlags f).pend = t.pend := rfl
@[simp] theorem Team.raiseFlags_sticky (t : Team) (f : Sticky) :
    (t.raiseFlags f).sticky = t.sticky ||| f := rfl
@[simp] theorem Team.raiseFlags_readers (t : Team) (f : Sticky) :
    (t.raiseFlags f).readers = t.readers := rfl
@[simp] theorem Team.raiseFlags_bars (t : Team) (f : Sticky) :
    (t.raiseFlags f).bars = t.bars := rfl
@[simp] theorem Team.raiseFlags_prick (t : Team) (f : Sticky) :
    (t.raiseFlags f).prick = t.prick := rfl
@[simp] theorem Team.raiseFlags_region (t : Team) (f : Sticky) :
    (t.raiseFlags f).region = t.region := rfl
@[simp] theorem Team.raiseFlags_store (t : Team) (f : Sticky) :
    (t.raiseFlags f).store = t.store := rfl
@[simp] theorem Team.raiseFlags_skidLeft (t : Team) (f : Sticky) :
    (t.raiseFlags f).skidLeft = t.skidLeft := rfl
@[simp] theorem Team.raiseFlags_skid (t : Team) (f : Sticky) :
    (t.raiseFlags f).skid = t.skid := rfl
@[simp] theorem Team.raiseFlags_err (t : Team) (f : Sticky) :
    (t.raiseFlags f).err = t.err := rfl
@[simp] theorem Team.raiseFlags_xrec (t : Team) (f : Sticky) :
    (t.raiseFlags f).xrec = t.xrec := rfl
@[simp] theorem Team.raiseFlags_boost (t : Team) (f : Sticky) :
    (t.raiseFlags f).boost = t.boost := rfl
@[simp] theorem Team.raiseFlags_passed (t : Team) (f : Sticky) :
    (t.raiseFlags f).passed = t.passed := rfl
@[simp] theorem Team.raiseFlags_lastIssue (t : Team) (f : Sticky) :
    (t.raiseFlags f).lastIssue = t.lastIssue := rfl
@[simp] theorem Team.raiseFlags_afresh (t : Team) (f : Sticky) :
    (t.raiseFlags f).afresh = t.afresh := rfl
@[simp] theorem Team.raiseFlags_freed (t : Team) (f : Sticky) :
    (t.raiseFlags f).freed = t.freed := rfl

@[simp] theorem Team.writeReg_gang (t : Team) (act : Mask) (v : Nat) (g : Tag) (val : Nat → Lane32) (q : Nat → Bool) :
    (t.writeReg act v g val q).gang = t.gang := rfl
@[simp] theorem Team.writeReg_group (t : Team) (act : Mask) (v : Nat) (g : Tag) (val : Nat → Lane32) (q : Nat → Bool) :
    (t.writeReg act v g val q).group = t.group := rfl
@[simp] theorem Team.writeReg_index (t : Team) (act : Mask) (v : Nat) (g : Tag) (val : Nat → Lane32) (q : Nat → Bool) :
    (t.writeReg act v g val q).index = t.index := rfl
@[simp] theorem Team.writeReg_slot (t : Team) (act : Mask) (v : Nat) (g : Tag) (val : Nat → Lane32) (q : Nat → Bool) :
    (t.writeReg act v g val q).slot = t.slot := rfl
@[simp] theorem Team.writeReg_pipe (t : Team) (act : Mask) (v : Nat) (g : Tag) (val : Nat → Lane32) (q : Nat → Bool) :
    (t.writeReg act v g val q).pipe = t.pipe := rfl
@[simp] theorem Team.writeReg_base (t : Team) (act : Mask) (v : Nat) (g : Tag) (val : Nat → Lane32) (q : Nat → Bool) :
    (t.writeReg act v g val q).base = t.base := rfl
@[simp] theorem Team.writeReg_lanes (t : Team) (act : Mask) (v : Nat) (g : Tag) (val : Nat → Lane32) (q : Nat → Bool) :
    (t.writeReg act v g val q).lanes = t.lanes := rfl
@[simp] theorem Team.writeReg_vregs (t : Team) (act : Mask) (v : Nat) (g : Tag) (val : Nat → Lane32) (q : Nat → Bool) :
    (t.writeReg act v g val q).vregs = t.vregs := rfl
@[simp] theorem Team.writeReg_accs (t : Team) (act : Mask) (v : Nat) (g : Tag) (val : Nat → Lane32) (q : Nat → Bool) :
    (t.writeReg act v g val q).accs = t.accs := rfl
@[simp] theorem Team.writeReg_priv (t : Team) (act : Mask) (v : Nat) (g : Tag) (val : Nat → Lane32) (q : Nat → Bool) :
    (t.writeReg act v g val q).priv = t.priv := rfl
@[simp] theorem Team.writeReg_ftz (t : Team) (act : Mask) (v : Nat) (g : Tag) (val : Nat → Lane32) (q : Nat → Bool) :
    (t.writeReg act v g val q).ftz = t.ftz := rfl
@[simp] theorem Team.writeReg_i4trap (t : Team) (act : Mask) (v : Nat) (g : Tag) (val : Nat → Lane32) (q : Nat → Bool) :
    (t.writeReg act v g val q).i4trap = t.i4trap := rfl
@[simp] theorem Team.writeReg_unwtrap (t : Team) (act : Mask) (v : Nat) (g : Tag) (val : Nat → Lane32) (q : Nat → Bool) :
    (t.writeReg act v g val q).unwtrap = t.unwtrap := rfl
@[simp] theorem Team.writeReg_st (t : Team) (act : Mask) (v : Nat) (g : Tag) (val : Nat → Lane32) (q : Nat → Bool) :
    (t.writeReg act v g val q).st = t.st := rfl
@[simp] theorem Team.writeReg_back (t : Team) (act : Mask) (v : Nat) (g : Tag) (val : Nat → Lane32) (q : Nat → Bool) :
    (t.writeReg act v g val q).back = t.back := rfl
@[simp] theorem Team.writeReg_pc (t : Team) (act : Mask) (v : Nat) (g : Tag) (val : Nat → Lane32) (q : Nat → Bool) :
    (t.writeReg act v g val q).pc = t.pc := rfl
@[simp] theorem Team.writeReg_clause (t : Team) (act : Mask) (v : Nat) (g : Tag) (val : Nat → Lane32) (q : Nat → Bool) :
    (t.writeReg act v g val q).clause = t.clause := rfl
@[simp] theorem Team.writeReg_cur (t : Team) (act : Mask) (v : Nat) (g : Tag) (val : Nat → Lane32) (q : Nat → Bool) :
    (t.writeReg act v g val q).cur = t.cur := rfl
@[simp] theorem Team.writeReg_exited (t : Team) (act : Mask) (v : Nat) (g : Tag) (val : Nat → Lane32) (q : Nat → Bool) :
    (t.writeReg act v g val q).exited = t.exited := rfl
@[simp] theorem Team.writeReg_stack (t : Team) (act : Mask) (v : Nat) (g : Tag) (val : Nat → Lane32) (q : Nat → Bool) :
    (t.writeReg act v g val q).stack = t.stack := rfl
@[simp] theorem Team.writeReg_x (t : Team) (act : Mask) (v : Nat) (g : Tag) (val : Nat → Lane32) (q : Nat → Bool) :
    (t.writeReg act v g val q).x = t.x := rfl
@[simp] theorem Team.writeReg_sregs (t : Team) (act : Mask) (v : Nat) (g : Tag) (val : Nat → Lane32) (q : Nat → Bool) :
    (t.writeReg act v g val q).sregs = t.sregs := rfl
@[simp] theorem Team.writeReg_preds (t : Team) (act : Mask) (v : Nat) (g : Tag) (val : Nat → Lane32) (q : Nat → Bool) :
    (t.writeReg act v g val q).preds = t.preds := rfl
@[simp] theorem Team.writeReg_kregs (t : Team) (act : Mask) (v : Nat) (g : Tag) (val : Nat → Lane32) (q : Nat → Bool) :
    (t.writeReg act v g val q).kregs = t.kregs := rfl
@[simp] theorem Team.writeReg_file (t : Team) (act : Mask) (v : Nat) (g : Tag) (val : Nat → Lane32) (q : Nat → Bool) :
    (t.writeReg act v g val q).file = (t.file.retag t.lanes act v g).fill t.lanes act v val q := rfl
@[simp] theorem Team.writeReg_acc (t : Team) (act : Mask) (v : Nat) (g : Tag) (val : Nat → Lane32) (q : Nat → Bool) :
    (t.writeReg act v g val q).acc = t.acc := rfl
@[simp] theorem Team.writeReg_pend (t : Team) (act : Mask) (v : Nat) (g : Tag) (val : Nat → Lane32) (q : Nat → Bool) :
    (t.writeReg act v g val q).pend = t.pend := rfl
@[simp] theorem Team.writeReg_sticky (t : Team) (act : Mask) (v : Nat) (g : Tag) (val : Nat → Lane32) (q : Nat → Bool) :
    (t.writeReg act v g val q).sticky = t.sticky := rfl
@[simp] theorem Team.writeReg_readers (t : Team) (act : Mask) (v : Nat) (g : Tag) (val : Nat → Lane32) (q : Nat → Bool) :
    (t.writeReg act v g val q).readers = t.readers := rfl
@[simp] theorem Team.writeReg_bars (t : Team) (act : Mask) (v : Nat) (g : Tag) (val : Nat → Lane32) (q : Nat → Bool) :
    (t.writeReg act v g val q).bars = t.bars := rfl
@[simp] theorem Team.writeReg_prick (t : Team) (act : Mask) (v : Nat) (g : Tag) (val : Nat → Lane32) (q : Nat → Bool) :
    (t.writeReg act v g val q).prick = t.prick := rfl
@[simp] theorem Team.writeReg_region (t : Team) (act : Mask) (v : Nat) (g : Tag) (val : Nat → Lane32) (q : Nat → Bool) :
    (t.writeReg act v g val q).region = t.region := rfl
@[simp] theorem Team.writeReg_store (t : Team) (act : Mask) (v : Nat) (g : Tag) (val : Nat → Lane32) (q : Nat → Bool) :
    (t.writeReg act v g val q).store = t.store := rfl
@[simp] theorem Team.writeReg_skidLeft (t : Team) (act : Mask) (v : Nat) (g : Tag) (val : Nat → Lane32) (q : Nat → Bool) :
    (t.writeReg act v g val q).skidLeft = t.skidLeft := rfl
@[simp] theorem Team.writeReg_skid (t : Team) (act : Mask) (v : Nat) (g : Tag) (val : Nat → Lane32) (q : Nat → Bool) :
    (t.writeReg act v g val q).skid = t.skid := rfl
@[simp] theorem Team.writeReg_err (t : Team) (act : Mask) (v : Nat) (g : Tag) (val : Nat → Lane32) (q : Nat → Bool) :
    (t.writeReg act v g val q).err = t.err := rfl
@[simp] theorem Team.writeReg_xrec (t : Team) (act : Mask) (v : Nat) (g : Tag) (val : Nat → Lane32) (q : Nat → Bool) :
    (t.writeReg act v g val q).xrec = t.xrec := rfl
@[simp] theorem Team.writeReg_boost (t : Team) (act : Mask) (v : Nat) (g : Tag) (val : Nat → Lane32) (q : Nat → Bool) :
    (t.writeReg act v g val q).boost = t.boost := rfl
@[simp] theorem Team.writeReg_passed (t : Team) (act : Mask) (v : Nat) (g : Tag) (val : Nat → Lane32) (q : Nat → Bool) :
    (t.writeReg act v g val q).passed = t.passed := rfl
@[simp] theorem Team.writeReg_lastIssue (t : Team) (act : Mask) (v : Nat) (g : Tag) (val : Nat → Lane32) (q : Nat → Bool) :
    (t.writeReg act v g val q).lastIssue = t.lastIssue := rfl
@[simp] theorem Team.writeReg_afresh (t : Team) (act : Mask) (v : Nat) (g : Tag) (val : Nat → Lane32) (q : Nat → Bool) :
    (t.writeReg act v g val q).afresh = t.afresh := rfl
@[simp] theorem Team.writeReg_freed (t : Team) (act : Mask) (v : Nat) (g : Tag) (val : Nat → Lane32) (q : Nat → Bool) :
    (t.writeReg act v g val q).freed = t.freed := rfl

@[simp] theorem Team.writeK_gang (t : Team) (act : Mask) (k : Nat) (f : Nat → BitVec 16) :
    (t.writeK act k f).gang = t.gang := rfl
@[simp] theorem Team.writeK_group (t : Team) (act : Mask) (k : Nat) (f : Nat → BitVec 16) :
    (t.writeK act k f).group = t.group := rfl
@[simp] theorem Team.writeK_index (t : Team) (act : Mask) (k : Nat) (f : Nat → BitVec 16) :
    (t.writeK act k f).index = t.index := rfl
@[simp] theorem Team.writeK_slot (t : Team) (act : Mask) (k : Nat) (f : Nat → BitVec 16) :
    (t.writeK act k f).slot = t.slot := rfl
@[simp] theorem Team.writeK_pipe (t : Team) (act : Mask) (k : Nat) (f : Nat → BitVec 16) :
    (t.writeK act k f).pipe = t.pipe := rfl
@[simp] theorem Team.writeK_base (t : Team) (act : Mask) (k : Nat) (f : Nat → BitVec 16) :
    (t.writeK act k f).base = t.base := rfl
@[simp] theorem Team.writeK_lanes (t : Team) (act : Mask) (k : Nat) (f : Nat → BitVec 16) :
    (t.writeK act k f).lanes = t.lanes := rfl
@[simp] theorem Team.writeK_vregs (t : Team) (act : Mask) (k : Nat) (f : Nat → BitVec 16) :
    (t.writeK act k f).vregs = t.vregs := rfl
@[simp] theorem Team.writeK_accs (t : Team) (act : Mask) (k : Nat) (f : Nat → BitVec 16) :
    (t.writeK act k f).accs = t.accs := rfl
@[simp] theorem Team.writeK_priv (t : Team) (act : Mask) (k : Nat) (f : Nat → BitVec 16) :
    (t.writeK act k f).priv = t.priv := rfl
@[simp] theorem Team.writeK_ftz (t : Team) (act : Mask) (k : Nat) (f : Nat → BitVec 16) :
    (t.writeK act k f).ftz = t.ftz := rfl
@[simp] theorem Team.writeK_i4trap (t : Team) (act : Mask) (k : Nat) (f : Nat → BitVec 16) :
    (t.writeK act k f).i4trap = t.i4trap := rfl
@[simp] theorem Team.writeK_unwtrap (t : Team) (act : Mask) (k : Nat) (f : Nat → BitVec 16) :
    (t.writeK act k f).unwtrap = t.unwtrap := rfl
@[simp] theorem Team.writeK_st (t : Team) (act : Mask) (k : Nat) (f : Nat → BitVec 16) :
    (t.writeK act k f).st = t.st := rfl
@[simp] theorem Team.writeK_back (t : Team) (act : Mask) (k : Nat) (f : Nat → BitVec 16) :
    (t.writeK act k f).back = t.back := rfl
@[simp] theorem Team.writeK_pc (t : Team) (act : Mask) (k : Nat) (f : Nat → BitVec 16) :
    (t.writeK act k f).pc = t.pc := rfl
@[simp] theorem Team.writeK_clause (t : Team) (act : Mask) (k : Nat) (f : Nat → BitVec 16) :
    (t.writeK act k f).clause = t.clause := rfl
@[simp] theorem Team.writeK_cur (t : Team) (act : Mask) (k : Nat) (f : Nat → BitVec 16) :
    (t.writeK act k f).cur = t.cur := rfl
@[simp] theorem Team.writeK_exited (t : Team) (act : Mask) (k : Nat) (f : Nat → BitVec 16) :
    (t.writeK act k f).exited = t.exited := rfl
@[simp] theorem Team.writeK_stack (t : Team) (act : Mask) (k : Nat) (f : Nat → BitVec 16) :
    (t.writeK act k f).stack = t.stack := rfl
@[simp] theorem Team.writeK_x (t : Team) (act : Mask) (k : Nat) (f : Nat → BitVec 16) :
    (t.writeK act k f).x = t.x := rfl
@[simp] theorem Team.writeK_sregs (t : Team) (act : Mask) (k : Nat) (f : Nat → BitVec 16) :
    (t.writeK act k f).sregs = t.sregs := rfl
@[simp] theorem Team.writeK_preds (t : Team) (act : Mask) (k : Nat) (f : Nat → BitVec 16) :
    (t.writeK act k f).preds = t.preds := rfl
@[simp] theorem Team.writeK_kregs (t : Team) (act : Mask) (k : Nat) (f : Nat → BitVec 16) :
    (t.writeK act k f).kregs = (lanesOf act t.lanes).foldl (fun m l => FMap.putD m (k * 1024 + l) (f l) 0) t.kregs := rfl
@[simp] theorem Team.writeK_file (t : Team) (act : Mask) (k : Nat) (f : Nat → BitVec 16) :
    (t.writeK act k f).file = t.file := rfl
@[simp] theorem Team.writeK_acc (t : Team) (act : Mask) (k : Nat) (f : Nat → BitVec 16) :
    (t.writeK act k f).acc = t.acc := rfl
@[simp] theorem Team.writeK_pend (t : Team) (act : Mask) (k : Nat) (f : Nat → BitVec 16) :
    (t.writeK act k f).pend = t.pend := rfl
@[simp] theorem Team.writeK_sticky (t : Team) (act : Mask) (k : Nat) (f : Nat → BitVec 16) :
    (t.writeK act k f).sticky = t.sticky := rfl
@[simp] theorem Team.writeK_readers (t : Team) (act : Mask) (k : Nat) (f : Nat → BitVec 16) :
    (t.writeK act k f).readers = t.readers := rfl
@[simp] theorem Team.writeK_bars (t : Team) (act : Mask) (k : Nat) (f : Nat → BitVec 16) :
    (t.writeK act k f).bars = t.bars := rfl
@[simp] theorem Team.writeK_prick (t : Team) (act : Mask) (k : Nat) (f : Nat → BitVec 16) :
    (t.writeK act k f).prick = t.prick := rfl
@[simp] theorem Team.writeK_region (t : Team) (act : Mask) (k : Nat) (f : Nat → BitVec 16) :
    (t.writeK act k f).region = t.region := rfl
@[simp] theorem Team.writeK_store (t : Team) (act : Mask) (k : Nat) (f : Nat → BitVec 16) :
    (t.writeK act k f).store = t.store := rfl
@[simp] theorem Team.writeK_skidLeft (t : Team) (act : Mask) (k : Nat) (f : Nat → BitVec 16) :
    (t.writeK act k f).skidLeft = t.skidLeft := rfl
@[simp] theorem Team.writeK_skid (t : Team) (act : Mask) (k : Nat) (f : Nat → BitVec 16) :
    (t.writeK act k f).skid = t.skid := rfl
@[simp] theorem Team.writeK_err (t : Team) (act : Mask) (k : Nat) (f : Nat → BitVec 16) :
    (t.writeK act k f).err = t.err := rfl
@[simp] theorem Team.writeK_xrec (t : Team) (act : Mask) (k : Nat) (f : Nat → BitVec 16) :
    (t.writeK act k f).xrec = t.xrec := rfl
@[simp] theorem Team.writeK_boost (t : Team) (act : Mask) (k : Nat) (f : Nat → BitVec 16) :
    (t.writeK act k f).boost = t.boost := rfl
@[simp] theorem Team.writeK_passed (t : Team) (act : Mask) (k : Nat) (f : Nat → BitVec 16) :
    (t.writeK act k f).passed = t.passed := rfl
@[simp] theorem Team.writeK_lastIssue (t : Team) (act : Mask) (k : Nat) (f : Nat → BitVec 16) :
    (t.writeK act k f).lastIssue = t.lastIssue := rfl
@[simp] theorem Team.writeK_afresh (t : Team) (act : Mask) (k : Nat) (f : Nat → BitVec 16) :
    (t.writeK act k f).afresh = t.afresh := rfl
@[simp] theorem Team.writeK_freed (t : Team) (act : Mask) (k : Nat) (f : Nat → BitVec 16) :
    (t.writeK act k f).freed = t.freed := rfl

end Sys2Proof.Machine
end

