-- ==== Sys2Proof/Laws/Memory.lean ====
section
/-! SUPPORT. The finite maps and the memories: reading after writing, and the canonical form that every operation keeps. -/

namespace Sys2Proof

/-! ## Maps -/

@[simp] theorem FMap.look_nil {α : Type} (k : Nat) : FMap.look ([] : FMap α) k = none := rfl

theorem FMap.look_cons {α : Type} (j k : Nat) (v : α) (m : FMap α) :
    FMap.look ((j, v) :: m) k = if j = k then some v else FMap.look m k := rfl

@[simp] theorem FMap.look_put_same {α : Type} (m : FMap α) (k : Nat) (v : α) : FMap.look (FMap.put m k v) k = some v := by
  induction m with
  | nil => simp [FMap.put, FMap.look_cons]
  | cons x r ih =>
    obtain ⟨j, w⟩ := x
    simp only [FMap.put]
    split
    · simp [FMap.look_cons]
    · split
      · simp [FMap.look_cons]
      · simp [FMap.look_cons, *]

theorem FMap.look_put_ne {α : Type} (m : FMap α) {k j : Nat} (v : α) (h : j ≠ k) :
    FMap.look (FMap.put m k v) j = FMap.look m j := by
  induction m with
  | nil => simp [FMap.put, FMap.look_cons, h.symm]
  | cons x r ih =>
    obtain ⟨i, w⟩ := x
    simp only [FMap.put]
    split
    · simp [FMap.look_cons, h.symm]
    · split
      · subst_vars
        simp [FMap.look_cons, h.symm]
      · simp only [FMap.look_cons, ih]

@[simp] theorem FMap.look_del_same {α : Type} (m : FMap α) (k : Nat) : FMap.look (FMap.del m k) k = none := by
  induction m with
  | nil => rfl
  | cons x r ih =>
    obtain ⟨j, w⟩ := x
    by_cases hj : j = k
    · simpa [FMap.del, List.filter_cons, hj] using ih
    · have hb : (j != k) = true := by simpa using hj
      simp only [FMap.del, List.filter_cons, hb, if_true, FMap.look_cons, hj, if_false]
      exact ih

theorem FMap.look_del_ne {α : Type} (m : FMap α) {k j : Nat} (h : j ≠ k) :
    FMap.look (FMap.del m k) j = FMap.look m j := by
  induction m with
  | nil => rfl
  | cons x r ih =>
    obtain ⟨i, w⟩ := x
    by_cases hi : i = k
    · subst hi
      have : FMap.del ((i, w) :: r) i = FMap.del r i := by simp [FMap.del]
      rw [this, ih, FMap.look_cons, if_neg h.symm]
    · have hb : (i != k) = true := by simpa using hi
      simp only [FMap.del, List.filter_cons, hb, if_true, FMap.look_cons]
      split
      · rfl
      · exact ih

theorem FMap.look_modify_same {α : Type} (m : FMap α) (k : Nat) (f : α → α) :
    FMap.look (FMap.modify m k f) k = (FMap.look m k).map f := by
  unfold FMap.modify
  split <;> simp [*]

theorem FMap.look_modify_ne {α : Type} (m : FMap α) {k j : Nat} (f : α → α) (h : j ≠ k) :
    FMap.look (FMap.modify m k f) j = FMap.look m j := by
  unfold FMap.modify
  split
  · rfl
  · exact FMap.look_put_ne m _ h

@[simp] theorem FMap.lookD_put_same {α : Type} (m : FMap α) (k : Nat) (v d : α) : FMap.lookD (FMap.put m k v) k d = v := by
  simp [FMap.lookD]

theorem FMap.lookD_put_ne {α : Type} (m : FMap α) {k j : Nat} (v d : α) (h : j ≠ k) :
    FMap.lookD (FMap.put m k v) j d = FMap.lookD m j d := by
  simp [FMap.lookD, FMap.look_put_ne m v h]

@[simp] theorem FMap.lookD_putD_same {α : Type} [DecidableEq α] (m : FMap α) (k : Nat) (v d : α) :
    FMap.lookD (FMap.putD m k v d) k d = v := by
  unfold FMap.putD FMap.lookD
  split <;> simp [*]

theorem FMap.lookD_putD_ne {α : Type} [DecidableEq α] (m : FMap α) {k j : Nat} (v d e : α) (h : j ≠ k) :
    FMap.lookD (FMap.putD m k v d) j e = FMap.lookD m j e := by
  unfold FMap.putD FMap.lookD
  split
  · rw [FMap.look_del_ne m h]
  · rw [FMap.look_put_ne m v h]

/-! ## Rising keys -/

/-- A bound that lies below a key, as risingFrom asks it. -/
theorem FMap.bound_of_lt (lo : Option Nat) (k : Nat) (h : ∀ b, lo = some b → b < k) :
    lo.all (fun b => decide (b < k)) = true := by
  cases lo with
  | none => rfl
  | some b => simpa using h b rfl

theorem FMap.risingFrom_put {α : Type} (m : FMap α) (lo : Option Nat) (k : Nat) (v : α)
    (h : FMap.risingFrom lo m = true) (hk : ∀ b, lo = some b → b < k) :
    FMap.risingFrom lo (FMap.put m k v) = true := by
  induction m generalizing lo with
  | nil =>
    simp only [FMap.put, FMap.risingFrom, Bool.and_true]
    exact FMap.bound_of_lt lo k hk
  | cons x r ih =>
    obtain ⟨j, w⟩ := x
    have hlo := FMap.bound_of_lt lo k hk
    simp only [FMap.risingFrom, Bool.and_eq_true] at h
    simp only [FMap.put]
    split
    · simp only [FMap.risingFrom, Bool.and_eq_true]
      exact ⟨hlo, FMap.bound_of_lt (some k) j (by simpa using ‹k < j›), h.2⟩
    · split
      · subst_vars
        simp only [FMap.risingFrom, Bool.and_eq_true]
        exact ⟨hlo, h.2⟩
      · rename_i h1 h2
        have hjk : j < k := by omega
        simp only [FMap.risingFrom, Bool.and_eq_true]
        exact ⟨h.1, ih (some j) h.2 (by simpa using hjk)⟩

theorem FMap.rising_put {α : Type} (m : FMap α) (k : Nat) (v : α) (h : FMap.rising m = true) :
    FMap.rising (FMap.put m k v) = true :=
  FMap.risingFrom_put m none k v h (by simp)

theorem FMap.risingFrom_weaken {α : Type} (m : FMap α) {j : Nat} {lo : Option Nat} (h : FMap.risingFrom (some j) m = true)
    (hj : ∀ b, lo = some b → b < j) : FMap.risingFrom lo m = true := by
  cases m with
  | nil => rfl
  | cons x r =>
    obtain ⟨i, w⟩ := x
    simp only [FMap.risingFrom, Bool.and_eq_true] at h ⊢
    refine ⟨FMap.bound_of_lt lo i fun b hb => ?_, h.2⟩
    exact Nat.lt_trans (hj b hb) (by simpa using h.1)

theorem FMap.risingFrom_del {α : Type} (m : FMap α) (lo : Option Nat) (k : Nat) (h : FMap.risingFrom lo m = true) :
    FMap.risingFrom lo (FMap.del m k) = true := by
  induction m generalizing lo with
  | nil => rfl
  | cons x r ih =>
    obtain ⟨j, w⟩ := x
    simp only [FMap.risingFrom, Bool.and_eq_true] at h
    by_cases hj : j = k
    · have he : FMap.del ((j, w) :: r) k = FMap.del r k := by simp [FMap.del, hj]
      rw [he]
      refine FMap.risingFrom_weaken _ (ih (some j) h.2) fun b hb => ?_
      subst hb
      simpa using h.1
    · have he : FMap.del ((j, w) :: r) k = (j, w) :: FMap.del r k := by
        have hb : (j != k) = true := by simpa using hj
        simp [FMap.del, hb]
      rw [he]
      simp only [FMap.risingFrom, Bool.and_eq_true]
      exact ⟨h.1, ih (some j) h.2⟩

theorem FMap.rising_del {α : Type} (m : FMap α) (k : Nat) (h : FMap.rising m = true) : FMap.rising (FMap.del m k) = true :=
  FMap.risingFrom_del m none k h

theorem FMap.all_put {α : Type} (m : FMap α) (k : Nat) (v : α) (p : Nat × α → Bool) (h : m.all p = true)
    (hv : p (k, v) = true) : (FMap.put m k v).all p = true := by
  induction m with
  | nil => simpa [FMap.put] using hv
  | cons x r ih =>
    obtain ⟨j, w⟩ := x
    simp only [List.all_cons, Bool.and_eq_true] at h
    simp only [FMap.put]
    split
    · simp only [List.all_cons, Bool.and_eq_true]; exact ⟨hv, h.1, h.2⟩
    · split
      · simp only [List.all_cons, Bool.and_eq_true]; exact ⟨hv, h.2⟩
      · simp only [List.all_cons, Bool.and_eq_true]; exact ⟨h.1, ih h.2⟩

theorem FMap.all_del {α : Type} (m : FMap α) (k : Nat) (p : Nat × α → Bool) (h : m.all p = true) :
    (FMap.del m k).all p = true := by
  simp only [List.all_eq_true, FMap.del, List.mem_filter] at *
  exact fun x hx => h x hx.1

namespace Machine

/-! ## Memory -/

@[simp] theorem Memory.read_write_same (m : Memory) (a : Nat) (b : Byte) : Memory.read (Memory.write m a b) a = b := by
  simp [Memory.read, Memory.write]

theorem Memory.read_write_ne (m : Memory) {a c : Nat} (b : Byte) (h : c ≠ a) :
    Memory.read (Memory.write m a b) c = Memory.read m c :=
  FMap.lookD_putD_ne m b 0 0 h

/-- Every store keeps the canonical form. -/
theorem Memory.wf_write (m : Memory) (a : Nat) (b : Byte) (h : Memory.wf m = true) : Memory.wf (Memory.write m a b) = true := by
  simp only [Memory.wf, Bool.and_eq_true] at h ⊢
  unfold Memory.write FMap.putD
  split
  · exact ⟨FMap.rising_del m a h.1, FMap.all_del m a _ h.2⟩
  · exact ⟨FMap.rising_put m a b h.1, FMap.all_put m a b _ h.2 (by simpa using ‹¬b = 0›)⟩

theorem Memory.wf_writeN (bs : List Byte) (m : Memory) (a : Nat) (h : Memory.wf m = true) :
    Memory.wf (Memory.writeN m a bs) = true := by
  induction bs generalizing m a with
  | nil => exact h
  | cons b bs ih => exact ih _ _ (Memory.wf_write m a b h)

theorem Memory.read_writeN_below (bs : List Byte) (m : Memory) {a c : Nat} (h : c < a) :
    Memory.read (Memory.writeN m a bs) c = Memory.read m c := by
  induction bs generalizing m a with
  | nil => rfl
  | cons b bs ih => rw [Memory.writeN, ih _ (by omega), Memory.read_write_ne _ _ (by omega)]

/-- Reading a byte after a store of several: the byte stored there, or what was there. -/
theorem Memory.read_writeN (bs : List Byte) (m : Memory) (a c : Nat) :
    Memory.read (Memory.writeN m a bs) c = if a ≤ c ∧ c < a + bs.length then bs.getD (c - a) 0 else Memory.read m c := by
  induction bs generalizing m a with
  | nil => rw [if_neg (by simp only [List.length_nil]; omega)]; rfl
  | cons b bs ih =>
    rw [Memory.writeN, ih]
    by_cases h : c = a
    · subst h
      rw [if_neg (by omega), if_pos (by simp only [List.length_cons]; omega), Memory.read_write_same]
      simp
    · by_cases h2 : a + 1 ≤ c ∧ c < a + 1 + bs.length
      · have e : c - a = (c - (a + 1)) + 1 := by omega
        have h3 : a ≤ c ∧ c < a + (b :: bs).length := by simp only [List.length_cons]; omega
        rw [if_pos h2, if_pos h3, e, List.getD_cons_succ]
      · have h3 : ¬(a ≤ c ∧ c < a + (b :: bs).length) := by simp only [List.length_cons]; omega
        rw [if_neg h2, if_neg h3, Memory.read_write_ne _ _ h]

/-- Memory is in canonical form at reset. -/
theorem State.reset_memory_wf :
    Memory.wf State.reset.mem.dev = true ∧ Memory.wf State.reset.mem.host = true ∧ Memory.wf State.reset.mem.seg = true :=
  ⟨rfl, rfl, rfl⟩

/-- A store at a home slice keeps the canonical form. -/
theorem State.wf_withMem_dev (s : State) (a : Nat) (b : Byte) (h : Memory.wf s.mem.dev = true) :
    Memory.wf (s.withMem fun m => { m with dev := Memory.write m.dev a b }).mem.dev = true :=
  Memory.wf_write s.mem.dev a b h

/-- The store of one byte of scratchpad or cluster memory, with its valid bit, keeps the canonical form (R81). -/
theorem storeValid_wf (bytes : Memory) (valid o : Nat) (b : Byte) (h : Memory.wf bytes = true) :
    Memory.wf (storeValid bytes valid o b).1 = true := by
  have hz : ∀ (l : List Nat) (m : Memory), Memory.wf m = true →
      Memory.wf (l.foldl (fun m i => Memory.write m (o / 4 * 4 + i) 0) m) = true := by
    intro l
    induction l with
    | nil => exact fun m hm => hm
    | cons x l ih => exact fun m hm => ih _ (Memory.wf_write m _ 0 hm)
  simp only [storeValid]
  apply Memory.wf_write
  split
  · exact h
  · exact hz _ _ h

end Machine

end Sys2Proof
end

