-- ==== Sys2Proof/Laws/Ops.lean ====
section
/-! SUPPORT. What the shared operations can do, said once for each: issuing and retiring an instruction, changing a gang. -/

namespace Sys2Proof.Machine

/-! ## Frames compose -/

theorem Team.sameRegs_refl (t : Team) : t.sameRegs t := by simp [Team.sameRegs]

theorem Team.sameRegs_trans {t u v : Team} (h : t.sameRegs u) (k : u.sameRegs v) : t.sameRegs v := by
  simp only [Team.sameRegs] at *
  simp [k, h]

theorem State.onlyTeam_refl (s : State) (t : Team) : s.onlyTeam s t := by
  simp [State.onlyTeam, State.sameMemory, State.sameCores, State.sameRest]

theorem State.onlyTeam_trans {a b c : State} {t : Team} (h : a.onlyTeam b t) (k : b.onlyTeam c t) : a.onlyTeam c t := by
  obtain ⟨h1, h2, ⟨h3, h4, h5⟩, h6, h7⟩ := h
  obtain ⟨k1, k2, ⟨k3, k4, k5⟩, k6, k7⟩ := k
  refine ⟨fun x hx => (k1 x hx).trans (h1 x hx), fun x hx => (k2 x hx).trans (h2 x hx),
    ⟨k3.trans h3, fun x y => (k4 x y).trans (h4 x y), fun x => (k5 x).trans (h5 x)⟩, fun x => (k6 x).trans (h6 x), ?_⟩
  simp only [State.sameRest] at *
  simp [k7, h7]

/-- The frame speaks of a team's key and gang alone. -/
theorem State.onlyTeam_congr {a b : State} {t u : Team} (hi : u.id = t.id) (hg : u.gang = t.gang) (h : a.onlyTeam b u) :
    a.onlyTeam b t := by
  simpa [State.onlyTeam, hi, hg] using h

/-! ## Teams in a state -/

@[simp] theorem State.team_setTeam_same (s : State) (t : Team) : (s.setTeam t).team t.id = some t := by
  simp [State.team]

theorem State.team_setTeam_ne (s : State) (t : Team) {k : Nat} (h : k ≠ t.id) : (s.setTeam t).team k = s.team k :=
  FMap.look_put_ne s.teams t h

theorem State.team_modTeam_same (s : State) (k : Nat) (f : Team → Team) : (s.modTeam k f).team k = (s.team k).map f :=
  FMap.look_modify_same s.teams k f

theorem State.team_modTeam_ne (s : State) {k j : Nat} (f : Team → Team) (h : j ≠ k) : (s.modTeam k f).team j = s.team j :=
  FMap.look_modify_ne s.teams f h

@[simp] theorem State.team_modGang (s : State) (g : Nat) (f : Gang → Gang) (k : Nat) : (s.modGang g f).team k = s.team k := rfl
@[simp] theorem State.team_modCore (s : State) (c : Nat) (f : Core → Core) (k : Nat) : (s.modCore c f).team k = s.team k := rfl
@[simp] theorem State.gang_modCore (s : State) (c : Nat) (f : Core → Core) (k : Nat) : (s.modCore c f).gang k = s.gang k := rfl
@[simp] theorem State.gang_setTeam (s : State) (t : Team) (k : Nat) : (s.setTeam t).gang k = s.gang k := rfl
@[simp] theorem State.gang_modTeam (s : State) (t : Nat) (f : Team → Team) (k : Nat) : (s.modTeam t f).gang k = s.gang k := rfl
@[simp] theorem State.core_setTeam (s : State) (t : Team) (c : Nat) : (s.setTeam t).core c = s.core c := rfl
@[simp] theorem State.core_modTeam (s : State) (t : Nat) (f : Team → Team) (c : Nat) : (s.modTeam t f).core c = s.core c := rfl
@[simp] theorem State.core_modGang (s : State) (g : Nat) (f : Gang → Gang) (c : Nat) : (s.modGang g f).core c = s.core c := rfl

theorem State.gang_modGang_same (s : State) (g : Nat) (f : Gang → Gang) : (s.modGang g f).gang g = (s.gang g).map f :=
  FMap.look_modify_same s.gangs g f

theorem State.gang_modGang_ne (s : State) {g k : Nat} (f : Gang → Gang) (h : k ≠ g) : (s.modGang g f).gang k = s.gang k :=
  FMap.look_modify_ne s.gangs f h

theorem State.core_modCore_same (s : State) (c : Nat) (f : Core → Core) : (s.modCore c f).core c = f (s.core c) := by
  simp [State.core]

theorem State.core_modCore_ne (s : State) {c k : Nat} (f : Core → Core) (h : k ≠ c) : (s.modCore c f).core k = s.core k := by
  simp [State.core, FMap.lookD_put_ne s.cores _ _ h]

/-! ## One team changed -/

theorem State.homeByte_of_eq {s s' : State} (hm : s'.mem = s.mem) (hf : s'.fresh = s.fresh) (slot : Option Nat) (pa : Nat) :
    s'.homeByte slot pa = s.homeByte slot pa := by
  unfold State.homeByte State.slotOk State.lineSlot
  rw [hm, hf]

theorem State.locByte_of_eq {s s' : State} (hm : s'.mem = s.mem) (hf : s'.fresh = s.fresh) (hg : s'.gangs = s.gangs)
    (slot : Option Nat) (l : Loc) : s'.locByte slot l = s.locByte slot l := by
  cases l <;> simp [State.locByte, State.homeByte_of_eq hm hf, State.gang, hm, hg]

theorem State.locValid_of_eq {s s' : State} (hg : s'.gangs = s.gangs) (l : Loc) : s'.locValid l = s.locValid l := by
  cases l <;> simp [State.locValid, State.gang, hg]

/-- Setting the team's own record changes the team alone. -/
theorem State.onlyTeam_setTeam (s : State) (t u : Team) (hi : u.id = t.id) : s.onlyTeam (s.setTeam u) t := by
  refine ⟨fun k hk => State.team_setTeam_ne s u (by rw [hi]; exact hk), fun _ _ => rfl,
    ⟨rfl, fun _ _ => State.locByte_of_eq rfl rfl rfl _ _, fun _ => State.locValid_of_eq rfl _⟩, fun _ => rfl, ?_⟩
  simp [State.sameRest]

theorem State.onlyTeam_modTeam (s : State) (t : Team) (f : Team → Team) : s.onlyTeam (s.modTeam t.id f) t := by
  refine ⟨fun k hk => State.team_modTeam_ne s f hk, fun _ _ => rfl,
    ⟨rfl, fun _ _ => State.locByte_of_eq rfl rfl rfl _ _, fun _ => State.locValid_of_eq rfl _⟩, fun _ => rfl, ?_⟩
  simp [State.sameRest]

/-- Changing which clause a pipe issues changes no team. -/
theorem State.onlyTeam_running (s : State) (t : Team) (r : FMap (Nat × Nat)) : s.onlyTeam { s with running := r } t := by
  refine ⟨fun _ _ => rfl, fun _ _ => rfl,
    ⟨rfl, fun _ _ => State.locByte_of_eq rfl rfl rfl _ _, fun _ => State.locValid_of_eq rfl _⟩, fun _ => rfl, ?_⟩
  simp [State.sameRest]

/-- The bytes a group holds, with their valid bits. -/
def GroupSt.held (z : GroupSt) : Memory × Nat × Memory × Nat := (z.bytes, z.valid, z.share, z.svalid)

/-- A change of a gang's record that leaves its bytes and valid bits alone. -/
def Gang.sameBytes (x y : Gang) : Prop :=
  y.src.hdr = x.src.hdr ∧ ∀ i : Nat, (y.groups[i]?).map GroupSt.held = (x.groups[i]?).map GroupSt.held

theorem Gang.sameBytes_at {x y : Gang} (h : x.sameBytes y) {α : Type} (f : GroupSt → α) (g : Memory × Nat × Memory × Nat → α)
    (hf : ∀ z : GroupSt, f z = g z.held) (i : Nat) : (y.groups[i]?).map f = (x.groups[i]?).map f := by
  have e := congrArg (Option.map g) (h.2 i)
  simpa [Option.map_map, Function.comp_def, ← hf] using e

theorem State.onlyTeam_modGang (s : State) (t : Team) (f : Gang → Gang) (h : ∀ x : Gang, x.sameBytes (f x)) :
    s.onlyTeam (s.modGang t.gang f) t := by
  have key : ∀ g, ((s.modGang t.gang f).gang g) = s.gang g ∨ (∃ x, s.gang g = some x ∧ (s.modGang t.gang f).gang g = some (f x)) := by
    intro g
    by_cases hg : g = t.gang
    · subst hg
      rw [State.gang_modGang_same]
      cases hx : s.gang t.gang with
      | none => exact .inl (by simp)
      | some x => exact .inr ⟨x, rfl, rfl⟩
    · exact .inl (State.gang_modGang_ne s f hg)
  refine ⟨fun _ _ => rfl, fun g hg => State.gang_modGang_ne s f hg, ⟨rfl, ?_, ?_⟩, fun _ => rfl, by simp [State.sameRest]⟩
  · intro slot l
    cases l with
    | dev pa => exact State.homeByte_of_eq rfl rfl _ _
    | seg a => simp [State.locByte]
    | scratch g i o =>
      rcases key g with e | ⟨x, e1, e2⟩
      · simp [State.locByte, e]
      · simp only [State.locByte, e1, e2, Option.bind_some]
        exact congrArg (Option.getD · 0) (Gang.sameBytes_at (h x) _ (fun z => Memory.read z.1 o) (fun _ => rfl) i)
    | cluster g o =>
      rcases key g with e | ⟨x, e1, e2⟩
      · simp [State.locByte, e]
      · simp only [State.locByte, e1, e2, Option.bind_some, Gang.shareAt, Gang.share, (h x).1]
        exact congrArg (Option.getD · 0) (Gang.sameBytes_at (h x) _ (fun z => Memory.read z.2.2.1 _) (fun _ => rfl) _)
  · intro l
    cases l with
    | dev pa => rfl
    | seg a => rfl
    | scratch g i o =>
      rcases key g with e | ⟨x, e1, e2⟩
      · simp [State.locValid, e]
      · simp only [State.locValid, e1, e2, Option.bind_some]
        exact congrArg (Option.getD · false) (Gang.sameBytes_at (h x) _ (fun z => z.2.1.testBit (o / 4)) (fun _ => rfl) i)
    | cluster g o =>
      rcases key g with e | ⟨x, e1, e2⟩
      · simp [State.locValid, e]
      · simp only [State.locValid, e1, e2, Option.bind_some, Gang.shareAt, Gang.share, (h x).1]
        exact congrArg (Option.getD · false) (Gang.sameBytes_at (h x) _ (fun z => z.2.2.2.testBit _) (fun _ => rfl) _)

theorem State.onlyTeam_modCore (s : State) (t : Team) (c : Nat) (f : Core → Core)
    (h : ∀ x, { f x with hq := [] } = { x with hq := [] }) : s.onlyTeam (s.modCore c f) t := by
  refine ⟨fun _ _ => rfl, fun _ _ => rfl,
    ⟨rfl, fun _ _ => State.locByte_of_eq rfl rfl rfl _ _, fun _ => State.locValid_of_eq rfl _⟩, fun k => ?_,
    by simp [State.sameRest]⟩
  by_cases hk : k = c
  · subst hk
    rw [State.core_modCore_same]
    exact h _
  · rw [State.core_modCore_ne s f hk]

theorem Gang.modGroup_sameBytes (x : Gang) (i : Nat) (f : GroupSt → GroupSt) (h : ∀ z, (f z).held = z.held) :
    x.sameBytes (x.modGroup i f) := by
  refine ⟨rfl, fun j => ?_⟩
  simp only [Gang.modGroup, List.getElem?_map, List.getElem?_zipIdx, Option.map_map, Nat.zero_add]
  cases x.groups[j]? with
  | none => rfl
  | some z =>
    by_cases hj : j = i <;> simp [hj, h z]

/-- The gang's watchdog restarts; the team alone is concerned. -/
theorem State.onlyTeam_touch (s : State) (t : Team) : s.onlyTeam (s.touch t.gang) t :=
  State.onlyTeam_modGang s t _ fun _ => ⟨rfl, fun _ => rfl⟩

/-- The end of a halt delivers an event and changes no team (R356). -/
theorem State.onlyTeam_settleHalt (s : State) (t : Team) (i : Nat) : s.onlyTeam (s.settleHalt t.gang i) t := by
  unfold State.settleHalt
  split
  · exact State.onlyTeam_refl s t
  · split
    · exact State.onlyTeam_refl s t
    · split
      · exact State.onlyTeam_refl s t
      · dsimp only
        refine State.onlyTeam_trans (State.onlyTeam_modGang s t (fun y => y.modGroup i fun z => { z with halt := none })
          fun x => Gang.modGroup_sameBytes x i _ fun z => rfl) ?_
        unfold State.pushEvent
        exact State.onlyTeam_modCore _ t _ _ fun _ => rfl

theorem State.settleHalt_team (s : State) (g i k : Nat) : (s.settleHalt g i).team k = s.team k := by
  unfold State.settleHalt
  repeat' split
  all_goals rfl

/-- What a skid instruction's end can do: the team's state and its skid counts, and the end of the halt (R356). -/
theorem State.countSkid_spec (s : State) (t : Team) (u : Team) (h : s.team t.id = some u) (hg : u.gang = t.gang) :
    s.onlyTeam (s.countSkid t.id) t ∧
      ∃ v, (s.countSkid t.id).team t.id = some v ∧ u.sameRegs v ∧ v.pc = u.pc := by
  unfold State.countSkid
  simp only [h]
  split
  · exact ⟨State.onlyTeam_refl s t, u, h, Team.sameRegs_refl u, rfl⟩
  · refine ⟨State.onlyTeam_trans (State.onlyTeam_modTeam s t _) (hg ▸ State.onlyTeam_settleHalt _ t _), ?_⟩
    rw [State.settleHalt_team, State.team_modTeam_same, h]
    exact ⟨_, rfl, by simp [Team.sameRegs], rfl⟩

theorem State.leavePipe_onlyTeam (s : State) (k : Nat) (t : Team) : s.onlyTeam (s.leavePipe k) t := by
  unfold State.leavePipe
  split
  · exact State.onlyTeam_refl s t
  · split
    · exact State.onlyTeam_running s t _
    · exact State.onlyTeam_refl s t

theorem State.leavePipe_team (s : State) (j k : Nat) : (s.leavePipe j).team k = s.team k := by
  unfold State.leavePipe
  repeat' split
  all_goals rfl

theorem Team.advance_regs (t : Team) (now : Nat) : t.sameRegs (t.advance now) ∧ (t.advance now).pc = t.pc + 8 := by
  unfold Team.advance
  dsimp only
  split <;> simp [Team.sameRegs, Team.endClause]

theorem Team.goto_regs (t : Team) (pc now : Nat) : t.sameRegs (t.goto pc now) ∧ (t.goto pc now).pc = pc := by
  simp [Team.sameRegs, Team.goto, Team.endClause]

/-- What retirement does (R109, R112): the team keeps its registers, its program counter moves by one word, and nothing but
the team changes. -/
theorem State.retire_spec (s : State) (t : Team) (u : Team) (h : s.team t.id = some u) (hg : u.gang = t.gang) :
    (∃ v, (s.retire t).team t.id = some v ∧ u.sameRegs v ∧ v.pc = u.pc + 8) ∧ s.onlyTeam (s.retire t) t := by
  have h1 : ((s.modTeam t.id (Team.advance s.now)).touch t.gang).team t.id = some (u.advance s.now) := by
    show (s.modTeam t.id (Team.advance s.now)).team t.id = _
    rw [State.team_modTeam_same, h]; rfl
  have hg' : (u.advance s.now).gang = t.gang := by
    rw [← hg]; unfold Team.advance; dsimp only; split <;> rfl
  obtain ⟨f1, v, hv, hr, hp⟩ := State.countSkid_spec _ t _ h1 hg'
  have ha := Team.advance_regs u s.now
  refine ⟨⟨v, ?_, Team.sameRegs_trans ha.1 hr, hp.trans ha.2⟩, ?_⟩
  · show (State.leavePipe _ _).team t.id = _
    rw [State.leavePipe_team]; exact hv
  · exact State.onlyTeam_trans (State.onlyTeam_modTeam s t _) (State.onlyTeam_trans (State.onlyTeam_touch _ t)
      (State.onlyTeam_trans f1 (State.leavePipe_onlyTeam _ _ t)))

/-- What a branch's retirement does: as above, with the program counter at the target. -/
theorem State.retireTo_spec (s : State) (t : Team) (pc : Nat) (u : Team) (h : s.team t.id = some u) (hg : u.gang = t.gang) :
    (∃ v, (s.retireTo t pc).team t.id = some v ∧ u.sameRegs v ∧ v.pc = pc) ∧ s.onlyTeam (s.retireTo t pc) t := by
  have h1 : ((s.modTeam t.id (Team.goto pc s.now)).touch t.gang).team t.id = some (u.goto pc s.now) := by
    show (s.modTeam t.id (Team.goto pc s.now)).team t.id = _
    rw [State.team_modTeam_same, h]; rfl
  obtain ⟨f1, v, hv, hr, hp⟩ := State.countSkid_spec _ t _ h1 (hg : (u.goto pc s.now).gang = t.gang)
  have ha := Team.goto_regs u pc s.now
  refine ⟨⟨v, ?_, Team.sameRegs_trans ha.1 hr, hp.trans ha.2⟩, ?_⟩
  · show (State.leavePipe _ _).team t.id = _
    rw [State.leavePipe_team]; exact hv
  · exact State.onlyTeam_trans (State.onlyTeam_modTeam s t _) (State.onlyTeam_trans (State.onlyTeam_touch _ t)
      (State.onlyTeam_trans f1 (State.leavePipe_onlyTeam _ _ t)))

/-! ## Issue -/

/-- An instruction whose effect is a change of its own team completes. -/
theorem completes_of_issue {i : Instr} {s : State} {t t' : Team} {f : State → Team → Except Trap Done}
    (hs : s.issuing = some t) (he : exec i s = issue s f) (hf : f s t = .ok (.next (s.setTeam t')))
    (hi : t'.id = t.id) (hg : t'.gang = t.gang) (hp : t'.pc = t.pc) : Completes i s t t' := by
  have ht : (s.setTeam t').team t.id = some t' := by rw [← hi]; exact State.team_setTeam_same s t'
  obtain ⟨⟨v, hv, hr, hpc⟩, hf2⟩ := State.retire_spec (s.setTeam t') t t' ht hg
  refine ⟨(s.setTeam t').retire t, ?_, ⟨v, hv, hr, hpc.trans (by rw [hp])⟩,
    State.onlyTeam_trans (State.onlyTeam_setTeam s t t' hi) hf2⟩
  rw [he]
  simp [issue, hs, hf]

/-- The flag count of a long-latency instruction (R114): as completes_of_issue, with the count in the team's record. -/
theorem completes_of_issueLong {i : Instr} {s : State} {t t' : Team} {fb : Bool} {acts : Team → Bool}
    {f : State → Team → Except Trap Done} (hs : s.issuing = some t) (he : exec i s = issueLong s fb acts f)
    (hr : t.flagRoom fb = true) (hf : f s t = .ok (.next (s.setTeam t'))) (hi : t'.id = t.id) (hg : t'.gang = t.gang)
    (hp : t'.pc = t.pc) : Completes i s t (if acts t then t'.count fb none else t') := by
  have hc : ∀ u : Team, (u.count fb none).id = u.id ∧ (u.count fb none).gang = u.gang ∧ (u.count fb none).pc = u.pc := by
    intro u
    unfold Team.count Team.countFly
    repeat' split
    all_goals exact ⟨rfl, rfl, rfl⟩
  have e : (s.setTeam t').modTeam t.id (Team.count fb none) = s.setTeam (t'.count fb none) := by
    have : FMap.modify (FMap.put s.teams t'.id t') t'.id (Team.count fb none) = FMap.put s.teams t'.id (t'.count fb none) := by
      unfold FMap.modify
      simp only [FMap.look_put_same]
      induction s.teams with
      | nil => simp [FMap.put]
      | cons x r ih =>
        obtain ⟨j, w⟩ := x
        simp only [FMap.put]
        by_cases h1 : t'.id < j
        · simp [h1, FMap.put]
        · by_cases h2 : j = t'.id
          · simp [h2, FMap.put]
          · simp [h1, h2, FMap.put, ih]
    unfold State.modTeam State.setTeam
    rw [← hi, (hc t').1]
    simp only [this]
  cases ha : acts t with
  | false =>
    refine completes_of_issue hs (f := fun s t => if !t.flagRoom fb then .error .stall else
      match f s t with
      | .ok (.next s') => .ok (.next (if acts t then s'.modTeam t.id (Team.count fb none) else s'))
      | r => r) (he.trans rfl) ?_ ?_ ?_ ?_
    · simp [hr, hf, ha]
    · simpa using hi
    · simpa using hg
    · simpa using hp
  | true =>
    refine completes_of_issue hs (f := fun s t => if !t.flagRoom fb then .error .stall else
      match f s t with
      | .ok (.next s') => .ok (.next (if acts t then s'.modTeam t.id (Team.count fb none) else s'))
      | r => r) (he.trans rfl) ?_ ?_ ?_ ?_
    · simp [hr, hf, ha, e]
    · simpa using (hc t').1.trans hi
    · simpa using (hc t').2.1.trans hg
    · simpa using (hc t').2.2.trans hp

end Sys2Proof.Machine
end

