-- ==== Sys2Proof/Laws/Operands.lean ====
section
/-! SUPPORT. Operand forms: what the checks accept, and what a write of lane registers leaves (R46, R119 to R121, R137). -/

namespace Sys2Proof.Machine

/-! ## Checks -/

theorem Team.vreg_of_names {t : Team} {ix : Bool} {r : BitVec 8} {n v : Nat} {p : Bool} (h : t.names ix r n p v) :
    t.vreg ix r n p = .ok v := by
  obtain ⟨h1, h2, h3⟩ := h
  unfold Team.vreg Team.xval
  rw [← h1]
  have hp : ¬(p = true ∧ (v : Int) % 2 = 1) := by
    rintro ⟨hp, hv⟩
    have := h3 hp
    omega
  have : ¬((v : Int) < 0 ∨ (t.vregs : Int) < v + n ∨ (p = true ∧ (v : Int) % 2 = 1)) := by
    rintro (h | h | h)
    · omega
    · omega
    · exact hp h
  simp [or_assoc, this]

/-- The field of a register without index apply names that register. -/
theorem mem_wordsOf {t : Team} {act : Mask} {w : Nat} : w ∈ wordsOf act t.lanes ↔ t.wordLive act w := by
  simp [wordsOf, Team.wordLive]

theorem mem_lanesOf {t : Team} {act : Mask} {l : Nat} : l ∈ lanesOf act t.lanes ↔ t.live act l := by
  simp [lanesOf, Team.live]

theorem Team.checkTags_of_tagged {t : Team} {act : Mask} {v n : Nat} {set : List Tag} (h : t.tagged act v n set) :
    t.checkTags act v n set = .ok () := by
  unfold Team.checkTags require
  rw [if_pos]
  simp only [List.all_eq_true, List.mem_range, List.contains_iff_mem]
  exact fun k hk w hw => h k hk w (mem_wordsOf.mp hw)

theorem Team.checkTag_of_tagged {t : Team} {act : Mask} {v : Nat} {set : List Tag} (h : t.tagged act v 1 set) :
    t.checkTag act v set = .ok () := by
  unfold Team.checkTag require
  rw [if_pos]
  simp only [List.all_eq_true, List.contains_iff_mem]
  exact fun w hw => by simpa using h 0 (by omega) w (mem_wordsOf.mp hw)

/-! ## Folds of map writes -/

/-- Writing a map at the keys of a list: the value at a key of the list, the old value elsewhere. -/
theorem FMap.lookD_foldl_putD {α : Type} [DecidableEq α] (ls : List Nat) (key : Nat → Nat) (val : Nat → α) (d : α) (m : FMap α)
    (k : Nat) (hinj : ∀ a ∈ ls, ∀ b ∈ ls, key a = key b → a = b) :
    (∀ l ∈ ls, k = key l → FMap.lookD (ls.foldl (fun b l => FMap.putD b (key l) (val l) d) m) k d = val l) ∧
    ((∀ l ∈ ls, k ≠ key l) → FMap.lookD (ls.foldl (fun b l => FMap.putD b (key l) (val l) d) m) k d = FMap.lookD m k d) := by
  induction ls generalizing m with
  | nil => simp
  | cons a ls ih =>
    have hi : ∀ x ∈ ls, ∀ y ∈ ls, key x = key y → x = y := fun x hx y hy => hinj x (by simp [hx]) y (by simp [hy])
    obtain ⟨i1, i2⟩ := ih (FMap.putD m (key a) (val a) d) hi
    constructor
    · intro l hl hk
      simp only [List.foldl_cons]
      by_cases hin : ∃ b ∈ ls, k = key b
      · obtain ⟨b, hb, hkb⟩ := hin
        have : b = l := hinj b (by simp [hb]) l hl (hkb.symm.trans hk)
        subst this
        exact i1 b hb hk
      · have hn : ∀ b ∈ ls, k ≠ key b := fun b hb e => hin ⟨b, hb, e⟩
        rw [i2 hn]
        rcases List.mem_cons.mp hl with rfl | hl'
        · subst hk; exact FMap.lookD_putD_same m _ _ d
        · exact absurd hk (hn l hl')
    · intro hn
      simp only [List.foldl_cons]
      rw [i2 fun b hb => hn b (by simp [hb])]
      exact FMap.lookD_putD_ne m _ d d (hn a (by simp))

/-! ## One word retagged -/

/-- The step of LaneFile.retag at one word. -/
def LaneFile.retagWord (v : Nat) (tag : Tag) (f : LaneFile) (w : Nat) : LaneFile :=
  let old := FMap.lookD f.tags (v * 32 + w) 0
  let f := { f with tags := FMap.put f.tags (v * 32 + w) tag }
  if old == 0 then
    { f with
      bits := (List.range 32).foldl (fun b i => FMap.del b (v * 1024 + w * 32 + i)) f.bits
      taint := FMap.putD f.taint v
        (FMap.lookD f.taint v 0 &&& ~~~((BitVec.allOnes 32).setWidth 1024 <<< (32 * w))) 0 }
  else f

theorem LaneFile.retag_eq (f : LaneFile) (n : Nat) (act : Mask) (v : Nat) (tag : Tag) :
    f.retag n act v tag = (wordsOf act n).foldl (LaneFile.retagWord v tag) f := rfl

/-- Lane register v of lane l, its tag of word w and its taint, of a file alone. -/
def LaneFile.bit (f : LaneFile) (v l : Nat) : Lane32 := FMap.lookD f.bits (v * 1024 + l) 0
def LaneFile.tag (f : LaneFile) (v w : Nat) : Tag := FMap.lookD f.tags (v * 32 + w) 0
def LaneFile.stain (f : LaneFile) (v l : Nat) : Bool := (FMap.lookD f.taint v 0).getLsbD l

theorem FMap.lookD_foldl_del {α : Type} (ls : List Nat) (m : FMap α) (k : Nat) (d : α) :
    FMap.lookD (ls.foldl FMap.del m) k d = if k ∈ ls then d else FMap.lookD m k d := by
  induction ls generalizing m with
  | nil => simp
  | cons a ls ih =>
    rw [List.foldl_cons, ih]
    by_cases h : k = a
    · subst h
      simp [FMap.lookD]
    · simp [h, FMap.lookD, FMap.look_del_ne m h]

theorem LaneFile.retagWord_tag (v : Nat) (tag : Tag) (f : LaneFile) (w v' w' : Nat) (hw : w < 32) (hw' : w' < 32) :
    (f.retagWord v tag w).tag v' w' = if v' = v ∧ w' = w then tag else f.tag v' w' := by
  have hk : (v' * 32 + w' = v * 32 + w) ↔ (v' = v ∧ w' = w) := by omega
  have e : (f.retagWord v tag w).tags = FMap.put f.tags (v * 32 + w) tag := by
    unfold LaneFile.retagWord
    dsimp only
    split <;> rfl
  unfold LaneFile.tag
  rw [e]
  by_cases h : v' * 32 + w' = v * 32 + w
  · rw [h, FMap.lookD_put_same, if_pos (hk.mp h)]
  · rw [FMap.lookD_put_ne _ _ _ h, if_neg (fun x => h (hk.mpr x))]

theorem LaneFile.retagWord_bit (v : Nat) (tag : Tag) (f : LaneFile) (w v' l : Nat) (hw : w < 32) (hl : l < 1024) :
    (f.retagWord v tag w).bit v' l = if v' = v ∧ l / 32 = w ∧ f.tag v w = 0 then 0 else f.bit v' l := by
  unfold LaneFile.retagWord
  dsimp only
  by_cases h0 : FMap.lookD f.tags (v * 32 + w) 0 = 0
  · have h0' : f.tag v w = 0 := h0
    simp only [h0, beq_self_eq_true, if_true, h0', and_true]
    unfold LaneFile.bit
    have e : (List.range 32).foldl (fun b i => FMap.del b (v * 1024 + w * 32 + i)) f.bits =
        ((List.range 32).map fun i => v * 1024 + w * 32 + i).foldl FMap.del f.bits := by
      rw [List.foldl_map]
    simp only [e, FMap.lookD_foldl_del, List.mem_map, List.mem_range]
    have : (∃ a, a < 32 ∧ v * 1024 + w * 32 + a = v' * 1024 + l) ↔ (v' = v ∧ l / 32 = w) := by
      constructor
      · rintro ⟨a, ha, e⟩
        omega
      · rintro ⟨rfl, rfl⟩
        exact ⟨l % 32, by omega, by omega⟩
    simp only [this]
  · have h0' : ¬f.tag v w = 0 := h0
    simp only [beq_iff_eq, h0, if_false, h0', and_false]
    rfl

theorem wordClear_getLsbD (w l : Nat) (hl : l < 1024) (hw : w < 32) (m : Mask) :
    (m &&& ~~~((BitVec.allOnes 32).setWidth 1024 <<< (32 * w))).getLsbD l = (m.getLsbD l && !(l / 32 == w)) := by
  rw [BitVec.getLsbD_and, BitVec.getLsbD_not, BitVec.getLsbD_shiftLeft, BitVec.getLsbD_setWidth, BitVec.getLsbD_allOnes]
  congr 1
  simp only [hl, decide_true, Bool.true_and]
  congr 1
  by_cases h : l / 32 = w
  · subst h
    have h1 : ¬ l < 32 * (l / 32) := by omega
    have h2 : l - 32 * (l / 32) < 1024 := by omega
    have h3 : l - 32 * (l / 32) < 32 := by omega
    simp [h1, h2, h3]
  · have : (l / 32 == w) = false := by simpa using h
    rw [this]
    by_cases h1 : l < 32 * w
    · simp [h1]
    · have h3 : ¬ l - 32 * w < 32 := by omega
      simp [h1, h3]

theorem LaneFile.retagWord_stain (v : Nat) (tag : Tag) (f : LaneFile) (w v' l : Nat) (hw : w < 32) (hl : l < 1024) :
    (f.retagWord v tag w).stain v' l = if v' = v ∧ l / 32 = w ∧ f.tag v w = 0 then false else f.stain v' l := by
  unfold LaneFile.retagWord
  dsimp only
  by_cases h0 : FMap.lookD f.tags (v * 32 + w) 0 = 0
  · have h0' : f.tag v w = 0 := h0
    simp only [h0, beq_self_eq_true, if_true, h0', and_true]
    unfold LaneFile.stain
    by_cases hv : v' = v
    · subst hv
      simp only [FMap.lookD_putD_same, wordClear_getLsbD w l hl hw]
      by_cases h : l / 32 = w <;> simp [h]
    · simp [hv, FMap.lookD_putD_ne _ _ _ _ hv]
  · have h0' : ¬f.tag v w = 0 := h0
    simp only [beq_iff_eq, h0, if_false, h0', and_false]
    rfl

/-! ## All active words retagged -/

theorem LaneFile.retagWords_spec (v : Nat) (tag : Tag) (ws : List Nat) (f : LaneFile) (hn : ws.Nodup) (hw : ∀ w ∈ ws, w < 32) :
    (∀ v' w', w' < 32 → (ws.foldl (LaneFile.retagWord v tag) f).tag v' w' = if v' = v ∧ w' ∈ ws then tag else f.tag v' w') ∧
    (∀ v' l, l < 1024 → (ws.foldl (LaneFile.retagWord v tag) f).bit v' l =
      if v' = v ∧ l / 32 ∈ ws ∧ f.tag v (l / 32) = 0 then 0 else f.bit v' l) ∧
    ∀ v' l, l < 1024 → (ws.foldl (LaneFile.retagWord v tag) f).stain v' l =
      if v' = v ∧ l / 32 ∈ ws ∧ f.tag v (l / 32) = 0 then false else f.stain v' l := by
  induction ws generalizing f with
  | nil => simp
  | cons a ws ih =>
    obtain ⟨hna, hn'⟩ := List.nodup_cons.mp hn
    have ha : a < 32 := hw a (by simp)
    obtain ⟨i1, i2, i3⟩ := ih (f.retagWord v tag a) hn' fun w h => hw w (by simp [h])
    refine ⟨fun v' w' h' => ?_, fun v' l hl => ?_, fun v' l hl => ?_⟩
    · rw [List.foldl_cons, i1 v' w' h', LaneFile.retagWord_tag v tag f a v' w' ha h']
      by_cases h1 : v' = v <;> by_cases h2 : w' = a <;> by_cases h3 : w' ∈ ws <;> simp [h1, h2, h3]
    · have ht := LaneFile.retagWord_tag v tag f a v (l / 32) ha (by omega)
      rw [List.foldl_cons, i2 v' l hl, ht, LaneFile.retagWord_bit v tag f a v' l ha hl]
      by_cases h1 : v' = v <;> by_cases h2 : l / 32 = a <;> by_cases h3 : l / 32 ∈ ws <;> simp_all
    · have ht := LaneFile.retagWord_tag v tag f a v (l / 32) ha (by omega)
      rw [List.foldl_cons, i3 v' l hl, ht, LaneFile.retagWord_stain v tag f a v' l ha hl]
      by_cases h1 : v' = v <;> by_cases h2 : l / 32 = a <;> by_cases h3 : l / 32 ∈ ws <;> simp_all

theorem wordsOf_nodup (act : Mask) (n : Nat) : (wordsOf act n).Nodup :=
  List.Pairwise.filter _ List.nodup_range

theorem wordMask_high (m : Mask) (w : Nat) (h : 32 ≤ w) : wordMask m w = 0 := by
  unfold wordMask
  ext i hi
  rw [BitVec.getElem_extractLsb']
  simp only [BitVec.getLsbD_of_ge m (32 * w + i) (by omega)]
  simp

theorem wordsOf_lt (act : Mask) (n : Nat) : ∀ w ∈ wordsOf act n, w < 32 := by
  intro w hw
  simp only [wordsOf, List.mem_filter, List.mem_range, bne_iff_ne] at hw
  exact Nat.lt_of_not_le fun h => hw.2 (wordMask_high act w h)

theorem lanesOf_lt (m : Mask) (n : Nat) : ∀ l ∈ lanesOf m n, l < 1024 := by
  intro l hl
  simp only [lanesOf, List.mem_filter] at hl
  refine Nat.lt_of_not_le fun h => ?_
  rw [BitVec.getLsbD_of_ge m l h] at hl
  exact absurd hl.2 (by simp)

theorem LaneFile.retag_spec (f : LaneFile) (n : Nat) (act : Mask) (v : Nat) (tag : Tag) :
    (∀ v' w', w' < 32 → (f.retag n act v tag).tag v' w' = if v' = v ∧ w' ∈ wordsOf act n then tag else f.tag v' w') ∧
    (∀ v' l, l < 1024 → (f.retag n act v tag).bit v' l =
      if v' = v ∧ l / 32 ∈ wordsOf act n ∧ f.tag v (l / 32) = 0 then 0 else f.bit v' l) ∧
    ∀ v' l, l < 1024 → (f.retag n act v tag).stain v' l =
      if v' = v ∧ l / 32 ∈ wordsOf act n ∧ f.tag v (l / 32) = 0 then false else f.stain v' l :=
  LaneFile.retagWords_spec v tag (wordsOf act n) f (wordsOf_nodup act n) (wordsOf_lt act n)

/-! ## Bits and taint filled -/

theorem taintFold_getLsbD (ls : List Nat) (q : Nat → Bool) (m : Mask) (l : Nat) (hl : l < 1024) :
    (ls.foldl (fun m l => if q l then m ||| (1#1024 <<< l) else m &&& ~~~(1#1024 <<< l)) m).getLsbD l =
      if l ∈ ls then q l else m.getLsbD l := by
  have one : ∀ a, (1#1024 <<< a).getLsbD l = decide (l = a) := by
    intro a
    rw [BitVec.getLsbD_shiftLeft, BitVec.getLsbD_one]
    by_cases h : l = a
    · subst h
      simp [hl]
    · have : ¬(¬l < a ∧ l - a = 0) := by omega
      simp only [hl, decide_true, Bool.true_and, h, decide_false]
      by_cases h1 : l < a <;> simp [h1]
      omega
  induction ls generalizing m with
  | nil => simp
  | cons a ls ih =>
    rw [List.foldl_cons, ih]
    by_cases h : l ∈ ls
    · simp [h]
    · simp only [h, if_false, List.mem_cons, or_false]
      by_cases ha : l = a
      · subst ha
        cases hq : q l <;> simp [hl]
      · cases hq : q a
        · simp only [Bool.false_eq_true, if_false, BitVec.getLsbD_and, BitVec.getLsbD_not, one, ha, decide_false, hl,
            decide_true, Bool.not_false, Bool.and_true, if_false]
        · simp only [if_true, BitVec.getLsbD_or, one, ha, decide_false, Bool.or_false, if_false]

theorem LaneFile.fill_spec (f : LaneFile) (n : Nat) (act : Mask) (v : Nat) (val : Nat → Lane32) (q : Nat → Bool) :
    (∀ v' w', (f.fill n act v val q).tag v' w' = f.tag v' w') ∧
    (∀ v' l, l < 1024 → (f.fill n act v val q).bit v' l = if v' = v ∧ l ∈ lanesOf act n then val l else f.bit v' l) ∧
    ∀ v' l, l < 1024 → (f.fill n act v val q).stain v' l = if v' = v ∧ l ∈ lanesOf act n then q l else f.stain v' l := by
  refine ⟨fun _ _ => rfl, fun v' l hl => ?_, fun v' l hl => ?_⟩
  · obtain ⟨h1, h2⟩ := FMap.lookD_foldl_putD (lanesOf act n) (fun l => v * 1024 + l) val 0 f.bits (v' * 1024 + l)
      (fun a ha b hb e => by omega)
    unfold LaneFile.bit LaneFile.fill
    by_cases h : v' = v ∧ l ∈ lanesOf act n
    · rw [if_pos h]
      exact h1 l h.2 (by rw [h.1])
    · rw [if_neg h]
      refine h2 fun a ha e => h ?_
      have := lanesOf_lt act n a ha
      have hv : v' = v := by omega
      subst hv
      have : l = a := by omega
      exact ⟨rfl, this ▸ ha⟩
  · unfold LaneFile.stain LaneFile.fill
    by_cases hv : v' = v
    · subst hv
      simp only [FMap.lookD_putD_same, taintFold_getLsbD _ _ _ _ hl, true_and]
    · simp [hv, FMap.lookD_putD_ne _ _ _ _ hv]

/-! ## One register written -/

theorem Team.writeReg_frame (t : Team) (act : Mask) (v : Nat) (tag : Tag) (val : Nat → Lane32) (q : Nat → Bool) :
    t.laneFrame (t.writeReg act v tag val q) act [v] := by
  obtain ⟨r1, r2, r3⟩ := LaneFile.retag_spec t.file t.lanes act v tag
  obtain ⟨f1, f2, f3⟩ := LaneFile.fill_spec (t.file.retag t.lanes act v tag) t.lanes act v val q
  have e1 : ∀ v' l, (t.writeReg act v tag val q).lane v' l = ((t.file.retag t.lanes act v tag).fill t.lanes act v val q).bit v' l :=
    fun _ _ => rfl
  have e2 : ∀ v' l, (t.writeReg act v tag val q).vtaint v' l = ((t.file.retag t.lanes act v tag).fill t.lanes act v val q).stain v' l :=
    fun _ _ => rfl
  have e3 : ∀ v' w, (t.writeReg act v tag val q).vtag v' w = ((t.file.retag t.lanes act v tag).fill t.lanes act v val q).tag v' w :=
    fun _ _ => rfl
  refine ⟨rfl, fun v' l hv hl => ?_, fun v' w hw hv => ?_, fun v' l hv hl ha => ⟨fun h => ?_, fun h => ?_⟩⟩
  · have hv' : v' ≠ v := by simpa using hv
    rw [e1, e2, f2 v' l hl, f3 v' l hl, r2 v' l hl, r3 v' l hl]
    simp only [hv', false_and, if_false]
    exact ⟨rfl, rfl⟩
  · rw [e3, f1, r1 v' w hw]
    have : ¬(v' = v ∧ w ∈ wordsOf act t.lanes) := by
      rintro ⟨h1, h2⟩
      rcases hv with h | h
      · exact h (by simp [h1])
      · exact h (mem_wordsOf.mp h2)
    rw [if_neg this]
    rfl
  · have hv' : v' = v := by simpa using hv
    subst hv'
    have hl' : ¬(l ∈ lanesOf act t.lanes) := fun x => ha (mem_lanesOf.mp x)
    have hw : l / 32 ∈ wordsOf act t.lanes ∧ t.file.tag v' (l / 32) = 0 := ⟨mem_wordsOf.mpr h.1, h.2⟩
    rw [e1, e2, f2 v' l hl, f3 v' l hl, r2 v' l hl, r3 v' l hl]
    simp [hl', hw]
  · have hv' : v' = v := by simpa using hv
    subst hv'
    have hl' : ¬(l ∈ lanesOf act t.lanes) := fun x => ha (mem_lanesOf.mp x)
    have hw : ¬(l / 32 ∈ wordsOf act t.lanes ∧ t.file.tag v' (l / 32) = 0) := fun x => h ⟨mem_wordsOf.mp x.1, x.2⟩
    rw [e1, e2, f2 v' l hl, f3 v' l hl, r2 v' l hl, r3 v' l hl]
    simp only [hl', and_false, if_false, hw]
    exact ⟨rfl, rfl⟩

theorem Team.writeReg_holds (t : Team) (act : Mask) (v : Nat) (tag : Tag) (val : Nat → Lane32) (q : Nat → Bool) :
    (∀ l, t.live act l → (t.writeReg act v tag val q).lane v l = val l ∧ (t.writeReg act v tag val q).vtaint v l = q l) ∧
    ∀ w, t.wordLive act w → (t.writeReg act v tag val q).vtag v w = tag := by
  obtain ⟨r1, r2, r3⟩ := LaneFile.retag_spec t.file t.lanes act v tag
  obtain ⟨f1, f2, f3⟩ := LaneFile.fill_spec (t.file.retag t.lanes act v tag) t.lanes act v val q
  refine ⟨fun l h => ?_, fun w h => ?_⟩
  · have hl := mem_lanesOf.mpr h
    have hlt := lanesOf_lt act t.lanes l hl
    have e1 := f2 v l hlt
    have e2 := f3 v l hlt
    rw [if_pos ⟨rfl, hl⟩] at e1 e2
    exact ⟨e1, e2⟩
  · have hw := mem_wordsOf.mpr h
    have e := (f1 v w).trans (r1 v w (wordsOf_lt act t.lanes w hw))
    rw [if_pos ⟨rfl, hw⟩] at e
    exact e

/-! ## Several registers written -/

@[simp] theorem Team.writeReg_live (t : Team) (act a : Mask) (v : Nat) (tag : Tag) (val : Nat → Lane32) (q : Nat → Bool) (l : Nat) :
    (t.writeReg a v tag val q).live act l = t.live act l := rfl
@[simp] theorem Team.writeReg_wordLive (t : Team) (act a : Mask) (v : Nat) (tag : Tag) (val : Nat → Lane32) (q : Nat → Bool) (w : Nat) :
    (t.writeReg a v tag val q).wordLive act w = t.wordLive act w := rfl

/-- Lane writes compose: the frame of two of them over all their registers, when these are apart. -/
theorem Team.laneFrame_trans {a b c : Team} {act : Mask} {d e : List Nat} (h : a.laneFrame b act d) (k : b.laneFrame c act e)
    (hl : b.lanes = a.lanes) (hd : ∀ v ∈ d, v ∉ e) : a.laneFrame c act (d ++ e) := by
  obtain ⟨h1, h2, h3, h4⟩ := h
  obtain ⟨k1, k2, k3, k4⟩ := k
  have hlive : ∀ l, b.live act l ↔ a.live act l := fun l => by simp [Team.live, hl]
  have hw : ∀ w, b.wordLive act w ↔ a.wordLive act w := fun w => by simp [Team.wordLive, hl]
  refine ⟨?_, fun v l hv hlt => ?_, fun v w hlt hv => ?_, fun v l hv hlt hn => ?_⟩
  · rw [k1, h1]
  · have hv1 : v ∉ d := fun x => hv (by simp [x])
    have hv2 : v ∉ e := fun x => hv (by simp [x])
    exact ⟨(k2 v l hv2 hlt).1.trans (h2 v l hv1 hlt).1, (k2 v l hv2 hlt).2.trans (h2 v l hv1 hlt).2⟩
  · have hv1 : v ∉ d ∨ ¬a.wordLive act w := hv.imp (fun x y => x (by simp [y])) (fun x => x)
    have hv2 : v ∉ e ∨ ¬b.wordLive act w := hv.imp (fun x y => x (by simp [y])) (fun x y => x ((hw w).mp y))
    exact (k3 v w hlt hv2).trans (h3 v w hlt hv1)
  · rcases List.mem_append.mp hv with hv1 | hv2
    · have hv2 := hd v hv1
      obtain ⟨x1, x2⟩ := h4 v l hv1 hlt hn
      have y := k2 v l hv2 hlt
      exact ⟨fun z => ⟨y.1.trans (x1 z).1, y.2.trans (x1 z).2⟩, fun z => ⟨y.1.trans (x2 z).1, y.2.trans (x2 z).2⟩⟩
    · have hv1 : v ∉ d := fun x => hd v x hv2
      have x := h2 v l hv1 hlt
      have y := h3 v (l / 32) (by omega) (.inl hv1)
      obtain ⟨z1, z2⟩ := k4 v l hv2 hlt (fun u => hn ((hlive l).mp u))
      rw [hw, y] at z1 z2
      exact ⟨z1, fun u => ⟨(z2 u).1.trans x.1, (z2 u).2.trans x.2⟩⟩

/-- Registers from d written one after the other: the frame and the contents. -/
theorem Team.writeList_spec (act : Mask) (d : Nat) (w : Nat → Team → Team) (val : Nat → Nat → Lane32) (q : Nat → Nat → Bool)
    (tag : Nat → Nat → Tag) (t : Team)
    (hw : ∀ k u, u.lanes = t.lanes → u.laneFrame (w k u) act [d + k] ∧
      (∀ l, u.live act l → (w k u).lane (d + k) l = val k l ∧ (w k u).vtaint (d + k) l = q k l) ∧
      ∀ x, u.wordLive act x → (w k u).vtag (d + k) x = tag k x) (n : Nat) :
    t.laneFrame ((List.range n).foldl (fun u k => w k u) t) act ((List.range n).map (d + ·)) ∧
    ∀ k, k < n →
      (∀ l, t.live act l → ((List.range n).foldl (fun u k => w k u) t).lane (d + k) l = val k l ∧
        ((List.range n).foldl (fun u k => w k u) t).vtaint (d + k) l = q k l) ∧
      ∀ x, t.wordLive act x → ((List.range n).foldl (fun u k => w k u) t).vtag (d + k) x = tag k x := by
  induction n with
  | zero =>
    refine ⟨⟨rfl, fun _ _ _ _ => ⟨rfl, rfl⟩, fun _ _ _ _ => rfl, fun v l hv => by simp at hv⟩, fun k hk => by omega⟩
  | succ n ih =>
    obtain ⟨ih1, ih2⟩ := ih
    rw [List.range_succ, List.foldl_append]
    simp only [List.foldl_cons, List.foldl_nil]
    generalize hu : (List.range n).foldl (fun u k => w k u) t = u at ih1 ih2
    have hlen : u.lanes = t.lanes := by rw [ih1.1]
    obtain ⟨w1, w2, w3⟩ := hw n u hlen
    have hlive : ∀ l, u.live act l ↔ t.live act l := fun l => by simp [Team.live, hlen]
    have hwl : ∀ x, u.wordLive act x ↔ t.wordLive act x := fun x => by simp [Team.wordLive, hlen]
    constructor
    · rw [List.map_append]
      exact Team.laneFrame_trans ih1 w1 hlen fun v hv => by
        simp only [List.mem_map, List.mem_range] at hv
        obtain ⟨a, ha, rfl⟩ := hv
        simp
        omega
    · intro k hk
      by_cases e : k = n
      · subst e
        exact ⟨fun l h => w2 l ((hlive l).mpr h), fun x h => w3 x ((hwl x).mpr h)⟩
      · have hk' : k < n := by omega
        obtain ⟨a1, a2⟩ := ih2 k hk'
        have hne : d + k ∉ [d + n] := by simp only [List.mem_singleton]; omega
        refine ⟨fun l h => ?_, fun x h => ?_⟩
        · have hlt := lanesOf_lt act t.lanes l (mem_lanesOf.mpr h)
          obtain ⟨b1, b2⟩ := w1.2.1 (d + k) l hne hlt
          exact ⟨b1.trans (a1 l h).1, b2.trans (a1 l h).2⟩
        · have hx := wordsOf_lt act t.lanes x (mem_wordsOf.mpr h)
          exact (w1.2.2.1 (d + k) x hx (.inl hne)).trans (a2 x h)

theorem zipIdx_foldl_range {α β : Type} (l : List α) (f : β → α → Nat → β) (b : β) (d : α) (n : Nat) :
    (l.zipIdx n).foldl (fun u (x : α × Nat) => f u x.1 x.2) b =
      (List.range l.length).foldl (fun u k => f u (l.getD k d) (n + k)) b := by
  induction l generalizing b n with
  | nil => rfl
  | cons a l ih =>
    rw [List.zipIdx_cons, List.foldl_cons, ih, List.length_cons, List.range_succ_eq_map, List.foldl_cons, List.foldl_map]
    simp only [List.getD_cons_zero, List.getD_cons_succ, Nat.add_zero]
    congr 1
    funext u k
    rw [Nat.add_assoc, Nat.add_comm 1 k]

/-- Consecutive registers with a value each (R137 step 4). -/
theorem Team.writeRegs_spec (t : Team) (act : Mask) (d : Nat) (tags : List Tag) (val : Nat → List Lane32) (q : Nat → Bool) :
    t.laneFrame (t.writeRegs act d tags val q) act ((List.range tags.length).map (d + ·)) ∧
      t.laneHolds (t.writeRegs act d tags val q) act d tags val q := by
  have e : t.writeRegs act d tags val q = (List.range tags.length).foldl
      (fun u k => u.writeReg act (d + k) (tags.getD k 0) (fun l => (val l).getD k 0) q) t :=
    (zipIdx_foldl_range tags (fun (u : Team) tag i => u.writeReg act (d + i) tag (fun l => (val l).getD i 0) q) t 0 0).trans
      (by simp only [Nat.zero_add])
  have h := Team.writeList_spec act d (fun k u => u.writeReg act (d + k) (tags.getD k 0) (fun l => (val l).getD k 0) q)
    (fun k l => (val l).getD k 0) (fun _ => q) (fun k _ => tags.getD k 0) t
    (fun k u _ => ⟨Team.writeReg_frame u act _ _ _ _, Team.writeReg_holds u act _ _ _ _⟩) tags.length
  rw [e]
  exact ⟨h.1, h.2⟩

/-! ## One register written word by word (logic, shifts, moves: R50, R145, R148) -/

/-- The lanes of word w of a mask. -/
def inWord (act : Mask) (w : Nat) : Mask := act &&& ((BitVec.allOnes 32).setWidth 1024 <<< (32 * w))

theorem inWord_getLsbD (act : Mask) (w l : Nat) (hl : l < 1024) (hw : w < 32) :
    (inWord act w).getLsbD l = (act.getLsbD l && (l / 32 == w)) := by
  unfold inWord
  rw [BitVec.getLsbD_and, BitVec.getLsbD_shiftLeft, BitVec.getLsbD_setWidth, BitVec.getLsbD_allOnes]
  congr 1
  by_cases h : l / 32 = w
  · subst h
    have h1 : ¬ l < 32 * (l / 32) := by omega
    have h2 : l - 32 * (l / 32) < 1024 := by omega
    have h3 : l - 32 * (l / 32) < 32 := by omega
    simp [hl, h1, h2, h3]
  · have : (l / 32 == w) = false := by simpa using h
    rw [this]
    by_cases h1 : l < 32 * w
    · simp [h1]
    · have h3 : ¬ l - 32 * w < 32 := by omega
      simp [h3]

theorem live_inWord {t : Team} {act : Mask} {w l : Nat} (hw : w < 32) : t.live (inWord act w) l ↔ t.live act l ∧ l / 32 = w := by
  by_cases hl : l < 1024
  · simp [Team.live, inWord_getLsbD act w l hl hw, and_assoc]
  · simp [Team.live, BitVec.getLsbD_of_ge _ l (Nat.le_of_not_lt hl)]

theorem wordLive_iff {t : Team} {act : Mask} {w : Nat} :
    t.wordLive act w ↔ w < t.lanes / 32 ∧ ∃ i, i < 32 ∧ act.getLsbD (32 * w + i) = true := by
  unfold Team.wordLive wordMask
  refine and_congr Iff.rfl ⟨fun h => ?_, fun ⟨i, hi, h⟩ e => ?_⟩
  · refine Decidable.byContradiction fun hn => h ?_
    ext i hi
    rw [BitVec.getElem_extractLsb']
    cases hb : act.getLsbD (32 * w + i) with
    | false => simp
    | true => exact absurd ⟨i, hi, hb⟩ hn
  · have := congrArg (fun x => x.getLsbD i) e
    simp only [BitVec.getLsbD_extractLsb', hi, decide_true, Bool.true_and, h] at this
    simp at this

/-- The word of an active lane is active. -/
theorem Team.live.word {t : Team} {act : Mask} {l : Nat} (h : t.live act l) : t.wordLive act (l / 32) :=
  wordLive_iff.mpr ⟨by have := h.1; omega, l % 32, by omega, by rw [show 32 * (l / 32) + l % 32 = l by omega]; exact h.2⟩

theorem wordLive_inWord {t : Team} {act : Mask} {w x : Nat} (hw : t.wordLive act w) : t.wordLive (inWord act w) x ↔ x = w := by
  have hlt := wordsOf_lt act t.lanes w (mem_wordsOf.mpr hw)
  constructor
  · intro h
    obtain ⟨h1, i, hi, hb⟩ := wordLive_iff.mp h
    have hl : 32 * x + i < 1024 := Nat.lt_of_not_le fun hc => by
      rw [BitVec.getLsbD_of_ge _ _ hc] at hb
      exact absurd hb (by simp)
    rw [inWord_getLsbD _ _ _ hl hlt] at hb
    simp only [Bool.and_eq_true, beq_iff_eq] at hb
    omega
  · rintro rfl
    obtain ⟨h1, i, hi, hb⟩ := wordLive_iff.mp hw
    refine wordLive_iff.mpr ⟨h1, i, hi, ?_⟩
    rw [inWord_getLsbD _ _ _ (by omega) hlt, hb]
    simp
    omega

theorem Team.writeWords_spec (act : Mask) (v : Nat) (tag : Nat → Tag) (val : Nat → Lane32) (q : Nat → Bool)
    (ws : List Nat) (hn : ws.Nodup) (t : Team) (hs : ∀ w ∈ ws, t.wordLive act w) (u : Team)
    (hu : u = ws.foldl (fun u w => u.writeReg (inWord act w) v (tag w) val q) t) :
    u = { t with file := u.file } ∧
    (∀ v' x, x < 32 → u.vtag v' x = if v' = v ∧ x ∈ ws then tag x else t.vtag v' x) ∧
    ∀ v' l, l < 1024 →
      (¬(v' = v ∧ l / 32 ∈ ws) → u.lane v' l = t.lane v' l ∧ u.vtaint v' l = t.vtaint v' l) ∧
      (v' = v → l / 32 ∈ ws →
        (t.live act l → u.lane v l = val l ∧ u.vtaint v l = q l) ∧
        (¬t.live act l → t.vtag v (l / 32) = 0 → u.lane v l = 0 ∧ u.vtaint v l = false) ∧
        (¬t.live act l → t.vtag v (l / 32) ≠ 0 → u.lane v l = t.lane v l ∧ u.vtaint v l = t.vtaint v l)) := by
  induction ws generalizing t with
  | nil =>
    subst hu
    exact ⟨rfl, fun v' x _ => by simp, fun v' l _ => ⟨fun _ => ⟨rfl, rfl⟩, fun _ h => by simp at h⟩⟩
  | cons a ws ih =>
    obtain ⟨hna, hn'⟩ := List.nodup_cons.mp hn
    have hwa := hs a (by simp)
    have ha : a < 32 := wordsOf_lt act t.lanes a (mem_wordsOf.mpr hwa)
    rw [List.foldl_cons] at hu
    obtain ⟨i1, i2, i3⟩ := ih hn' (t.writeReg (inWord act a) v (tag a) val q) (fun w hw => hs w (by simp [hw])) hu
    obtain ⟨f1, f2, f3, f4⟩ := Team.writeReg_frame t (inWord act a) v (tag a) val q
    obtain ⟨g1, g2⟩ := Team.writeReg_holds t (inWord act a) v (tag a) val q
    generalize ht1 : t.writeReg (inWord act a) v (tag a) val q = t1 at i1 i2 i3 f1 f2 f3 f4 g1 g2
    have hlive : ∀ l, t1.live act l ↔ t.live act l := fun l => by rw [← ht1]; exact Iff.rfl
    have htag : ∀ v' x, x < 32 → t1.vtag v' x = if v' = v ∧ x = a then tag a else t.vtag v' x := by
      intro v' x hx
      by_cases h : v' = v ∧ x = a
      · rw [if_pos h, h.1, h.2]
        exact g2 a ((wordLive_inWord hwa).mpr rfl)
      · rw [if_neg h]
        refine f3 v' x hx ?_
        by_cases hv : v' = v
        · exact .inr fun hw => h ⟨hv, (wordLive_inWord hwa).mp hw⟩
        · exact .inl (by simpa using hv)
    refine ⟨i1.trans (by subst ht1; rfl), fun v' x hx => ?_, fun v' l hl => ⟨fun h => ?_, fun hv h => ⟨fun hl1 => ?_, fun hl1 h0 => ?_, fun hl1 h0 => ?_⟩⟩⟩
    · rw [i2 v' x hx, htag v' x hx]
      by_cases h1 : v' = v <;> by_cases h2 : x = a <;> by_cases h3 : x ∈ ws <;> simp [h1, h2, h3]
    · have h1 : ¬(v' = v ∧ l / 32 ∈ ws) := fun x => h ⟨x.1, by simp [x.2]⟩
      have h2 : ¬(v' = v ∧ l / 32 = a) := fun x => h ⟨x.1, by simp [x.2]⟩
      obtain ⟨x1, x2⟩ := (i3 v' l hl).1 h1
      have : t1.lane v' l = t.lane v' l ∧ t1.vtaint v' l = t.vtaint v' l := by
        by_cases hv : v' = v
        · subst hv
          have hnl : ¬t.live (inWord act a) l := fun x => h2 ⟨rfl, ((live_inWord ha).mp x).2⟩
          exact (f4 v' l (by simp) hl hnl).2 fun x => h2 ⟨rfl, (wordLive_inWord hwa).mp x.1⟩
        · exact f2 v' l (by simpa using hv) hl
      exact ⟨x1.trans this.1, x2.trans this.2⟩
    all_goals
      subst hv
      rcases List.mem_cons.mp h with h' | h'
      · have hni : ¬(v' = v' ∧ l / 32 ∈ ws) := fun x => hna (h' ▸ x.2)
        obtain ⟨x1, x2⟩ := (i3 v' l hl).1 hni
        rw [x1, x2]
        first
        | exact g1 l ((live_inWord ha).mpr ⟨hl1, h'⟩)
        | exact (f4 v' l (by simp) hl fun x => hl1 ((live_inWord ha).mp x).1).1 ⟨h' ▸ (wordLive_inWord hwa).mpr rfl, h0⟩
        | exact (f4 v' l (by simp) hl fun x => hl1 ((live_inWord ha).mp x).1).2 fun x => h0 x.2
      · have hne : l / 32 ≠ a := fun e => hna (e ▸ h')
        have ht' : t1.vtag v' (l / 32) = t.vtag v' (l / 32) := by
          rw [htag v' (l / 32) (by omega), if_neg (fun x => hne x.2)]
        have hnl : ¬t.live (inWord act a) l := fun x => hne ((live_inWord ha).mp x).2
        have hsame := (f4 v' l (by simp) hl hnl).2 fun x => hne ((wordLive_inWord hwa).mp x.1)
        obtain ⟨y1, y2, y3⟩ := (i3 v' l hl).2 rfl h'
        rw [hlive] at y1 y2 y3
        rw [ht'] at y2 y3
        first
        | exact y1 hl1
        | exact y2 hl1 h0
        | exact ⟨((y3 hl1 h0).1).trans hsame.1, ((y3 hl1 h0).2).trans hsame.2⟩

/-- A register written with a tag for each word: the frame and the contents. -/
theorem Team.writeRegTags_spec (t : Team) (act : Mask) (v : Nat) (tag : Nat → Tag) (val : Nat → Lane32) (q : Nat → Bool) :
    t.laneFrame (t.writeRegTags act v tag val q) act [v] ∧
      (∀ l, t.live act l → (t.writeRegTags act v tag val q).lane v l = val l ∧ (t.writeRegTags act v tag val q).vtaint v l = q l) ∧
      ∀ w, t.wordLive act w → (t.writeRegTags act v tag val q).vtag v w = tag w := by
  obtain ⟨h1, h2, h3⟩ := Team.writeWords_spec act v tag val q (wordsOf act t.lanes) (wordsOf_nodup act t.lanes) t
    (fun w hw => mem_wordsOf.mp hw) (t.writeRegTags act v tag val q) rfl
  generalize t.writeRegTags act v tag val q = u at h1 h2 h3
  refine ⟨⟨by rw [h1], fun v' l hv hl => ?_, fun v' w hw hv => ?_, fun v' l hv hl hn => ⟨fun h => ?_, fun h => ?_⟩⟩, fun l h => ?_, fun w h => ?_⟩
  · have hv' : v' ≠ v := by simpa using hv
    exact (h3 v' l hl).1 fun x => hv' x.1
  · rw [h2 v' w hw, if_neg]
    rintro ⟨e1, e2⟩
    rcases hv with h | h
    · exact h (by simp [e1])
    · exact h (mem_wordsOf.mp e2)
  · have hv' : v' = v := by simpa using hv
    subst hv'
    exact ((h3 v' l hl).2 rfl (mem_wordsOf.mpr h.1)).2.1 hn h.2
  · have hv' : v' = v := by simpa using hv
    subst hv'
    by_cases hw : l / 32 ∈ wordsOf act t.lanes
    · exact ((h3 v' l hl).2 rfl hw).2.2 hn fun x => h ⟨mem_wordsOf.mp hw, x⟩
    · exact (h3 v' l hl).1 fun x => hw x.2
  · have hl := lanesOf_lt act t.lanes l (mem_lanesOf.mpr h)
    exact ((h3 v l hl).2 rfl (mem_wordsOf.mpr h.word)).1 h
  · have hw := wordsOf_lt act t.lanes w (mem_wordsOf.mpr h)
    rw [h2 v w hw, if_pos ⟨rfl, mem_wordsOf.mpr h⟩]

theorem foldl_keeps {α β γ : Type} (g : β → γ) (f : β → α → β) (h : ∀ u x, g (f u x) = g u) (l : List α) (b : β) :
    g (l.foldl f b) = g b := by
  induction l generalizing b with
  | nil => rfl
  | cons a l ih => rw [List.foldl_cons, ih, h]

theorem Team.writeRegs_sticky (t : Team) (act : Mask) (d : Nat) (tags : List Tag) (val : Nat → List Lane32) (q : Nat → Bool) :
    (t.writeRegs act d tags val q).sticky = t.sticky :=
  foldl_keeps Team.sticky (fun u (x : Tag × Nat) => u.writeReg act (d + x.2) x.1 (fun l => (val l).getD x.2 0) q) (fun _ _ => rfl)
    tags.zipIdx t

/-- The common step of a lane result (R137, R139): frame, contents and flags. -/
theorem Team.laneResult_spec (t : Team) (act : Mask) (d : Nat) (tags : List Tag) (srcs : List Nat) (val : Nat → List Lane32 × Sticky) :
    t.laneFrame (t.laneResult act d tags srcs val) act ((List.range tags.length).map (d + ·)) ∧
      t.laneHolds (t.laneResult act d tags srcs val) act d tags (fun l => (val l).1) (fun l => srcs.any fun v => t.vtaint v l) ∧
      (t.laneResult act d tags srcs val).sticky = t.sticky ||| flagsOf act t.lanes fun l => (val l).2 := by
  obtain ⟨⟨h1, h2, h3, h4⟩, k⟩ := Team.writeRegs_spec t act d tags (fun l => (val l).1) fun l => srcs.any fun v => t.vtaint v l
  have hk := Team.writeRegs_sticky t act d tags (fun l => (val l).1) fun l => srcs.any fun v => t.vtaint v l
  unfold Team.laneResult
  generalize t.writeRegs act d tags (fun l => (val l).1) (fun l => srcs.any fun v => t.vtaint v l) = u at h1 h2 h3 h4 k hk
  exact ⟨⟨by rw [h1]; rfl, h2, h3, h4⟩, k, by rw [Team.raiseFlags_sticky, hk]⟩

end Sys2Proof.Machine
end

