-- ==== Sys2Proof/Laws/Issue.lean ====
section
/-! SUPPORT. What issuing an instruction answers, and what the checks of an access answer, said once for each. -/

namespace Sys2Proof.Machine

/-- The issuing team is the one its key names, and is Ready. -/
theorem State.team_of_issuing {s : State} {t : Team} (h : s.issuing = some t) : s.team t.id = some t ∧ t.st = .ready := by
  unfold State.issuing at h
  split at h
  · cases h
  · split at h
    · cases h
    · rename_i u hu
      split at h
      · rename_i hc
        simp only [Bool.and_eq_true, beq_iff_eq, Team.isReady] at hc
        cases h
        exact ⟨hc.2 ▸ hu, hc.1⟩
      · cases h

/-! ## Issue -/

theorem issue_next {s s' : State} {t : Team} {f : State → Team → Except Trap Done} (hs : s.issuing = some t)
    (hf : f s t = .ok (.next s')) : issue s f = .next (s'.retire t) := by simp [issue, hs, hf]

theorem issue_hold {s s' : State} {t : Team} {f : State → Team → Except Trap Done} (hs : s.issuing = some t)
    (hf : f s t = .ok (.hold s')) : issue s f = .next (s'.holdTeam t) := by simp [issue, hs, hf]

theorem issue_jump {s s' : State} {t : Team} {pc : Nat} {f : State → Team → Except Trap Done} (hs : s.issuing = some t)
    (hf : f s t = .ok (.jump s' pc)) : issue s f = .next (s'.retireTo t pc) := by simp [issue, hs, hf]

theorem issue_error {s : State} {t : Team} {tr : Trap} {f : State → Team → Except Trap Done} (hs : s.issuing = some t)
    (hf : f s t = .error tr) : issue s f = .next ((s.takeTrap t tr).leavePipe t.id) := by simp [issue, hs, hf]

theorem issueLong_next {s s' : State} {t : Team} {fb : Bool} {acts : Team → Bool} {f : State → Team → Except Trap Done}
    (hs : s.issuing = some t) (hr : t.flagRoom fb = true) (hf : f s t = .ok (.next s')) :
    issueLong s fb acts f = .next ((if acts t then s'.modTeam t.id (Team.count fb none) else s').retire t) := by
  unfold issueLong
  rw [issue_next hs]
  simp [hr, hf]

theorem issueLong_hold {s s' : State} {t : Team} {fb : Bool} {acts : Team → Bool} {f : State → Team → Except Trap Done}
    (hs : s.issuing = some t) (hr : t.flagRoom fb = true) (hf : f s t = .ok (.hold s')) :
    issueLong s fb acts f = .next (s'.holdTeam t) := by
  unfold issueLong
  rw [issue_hold hs]
  simp [hr, hf]

theorem issueLong_error {s : State} {t : Team} {fb : Bool} {acts : Team → Bool} {tr : Trap} {f : State → Team → Except Trap Done}
    (hs : s.issuing = some t) (hr : t.flagRoom fb = true) (hf : f s t = .error tr) :
    issueLong s fb acts f = .next ((s.takeTrap t tr).leavePipe t.id) := by
  unfold issueLong
  rw [issue_error hs]
  simp [hr, hf]

/-! ## Checks of an access (R203) -/

theorem settleLanes_ok {α : Type} (a : Access) (ls : List α) (va : α → Nat) (place : α → Place) :
    settleLanes a (ls.map fun l => (va l, .ok (place l))) = .ok (ls.map place) := by
  have h1 : (ls.map fun l => (va l, (Except.ok (place l) : Except LErr Place))).find? (fun r => isErr r.2) = none := by
    simp [isErr]
  have h2 : (ls.map fun l => (va l, (Except.ok (place l) : Except LErr Place))).find? (fun r => isFault r.2) = none := by
    simp [isFault]
  unfold settleLanes
  simp only [h1, h2]
  congr 1
  induction ls with
  | nil => rfl
  | cons x r ih => simp_all

/-- Where every lane's address lies at a place, the lanes have those places. -/
theorem State.resolveLanes_ok {s : State} {t : Team} {a : Access} {n al : Nat} {ls : List Nat} {va : Nat → Nat} {place : Nat → Place}
    (h : ∀ l ∈ ls, s.resolve (t.who (s.ctxOf t) (some l)) a n al (va l) = .ok (place l)) :
    s.resolveLanes t a n al (ls.map fun l => (some l, va l)) = .ok (ls.map place) := by
  unfold State.resolveLanes
  rw [List.map_map, ← settleLanes_ok a ls va place]
  congr 1
  apply List.map_congr_left
  intro l hl
  simp [h l hl]

/-- The same for an access of the team itself. -/
theorem State.resolveLanes_one {s : State} {t : Team} {a : Access} {n al va : Nat} {p : Place}
    (h : s.resolve (t.who (s.ctxOf t) none) a n al va = .ok p) : s.resolveLanes t a n al [(none, va)] = .ok [p] := by
  unfold State.resolveLanes
  simp only [List.map_cons, List.map_nil, h]
  rfl

/-- Where no invalid word is read, nothing is raised and no item is written (R82). -/
theorem State.unwritten_nil (s : State) (t : Team) : s.unwritten t [] = .ok s := rfl

theorem State.invalidOf_nil {s : State} {n : Nat} {ls : List Nat} {va : Nat → Nat} {place : Nat → Place}
    (h : ∀ l ∈ ls, s.invalidWords (va l) n (place l) = []) :
    s.invalidOf n (ls.map fun l => (some l, va l)) (ls.map place) = [] := by
  unfold State.invalidOf
  rw [List.zip_map', List.flatMap_map]
  simp only [List.flatMap_eq_nil_iff]
  exact h

end Sys2Proof.Machine
end

