-- ==== Sys2Proof/Tests/Demo.lean ====
section
/-! SUPPORT. The small states the tests and witnesses are about: a gang of one team of 32 lanes of which lanes 0 and 1 are in the
execution mask, issuing on pipe 0. -/

namespace Sys2Proof.Demo

open Sys2Proof.Machine

/-- Guard p15 without negation, no index apply, flag A. -/
def hd : Hd := { guard := 15, neg := false, ixA := false, ixD := false, fb := false }

/-! ## Field records -/

def rrr (d a b c ty rm : Nat) (sat : Bool) (e : Nat) : Rrr :=
  ⟨.ofNat 8 d, .ofNat 8 a, .ofNat 8 b, .ofNat 8 c, .ofNat 4 ty, .ofNat 3 rm, sat, .ofNat 6 e⟩
def ri (d a imm e : Nat) : Ri := ⟨.ofNat 8 d, .ofNat 8 a, .ofNat 22 imm, .ofNat 8 e⟩
def li (d imm e : Nat) : Li := ⟨.ofNat 8 d, .ofNat 32 imm, .ofNat 6 e⟩
def mem (d a b imm : Nat) (prom noOff : Bool) (ty ord scope ret : Nat) (nol1 : Bool) : Mem :=
  ⟨.ofNat 8 d, .ofNat 8 a, .ofNat 8 b, .ofNat 6 imm, prom, noOff, .ofNat 4 ty, .ofNat 3 ord, .ofNat 3 scope, .ofNat 3 ret, nol1⟩
def atm (d a b c ty ord scope op : Nat) (prom noOff : Bool) : Atm :=
  ⟨.ofNat 8 d, .ofNat 8 a, .ofNat 8 b, .ofNat 8 c, .ofNat 2 ty, .ofNat 3 ord, .ofNat 3 scope, .ofNat 4 op, prom, noOff⟩
def mx (d a b c m : Nat) : Mx := ⟨.ofNat 8 d, .ofNat 8 a, .ofNat 8 b, .ofNat 8 c, .ofNat 14 m⟩
def ec (d a b c : Nat) (acq rel : Bool) (scope e : Nat) : Ec :=
  ⟨.ofNat 8 d, .ofNat 8 a, .ofNat 8 b, .ofNat 8 c, acq, rel, .ofNat 3 scope, .ofNat 9 e⟩
def sys (d a imm e : Nat) : Sys := ⟨.ofNat 8 d, .ofNat 8 a, .ofNat 16 imm, .ofNat 14 e⟩

/-! ## States -/

/-- The state in which pipe 0 issues the one team of gang 1. -/
def base : State := State.reset.placeWord 0

/-- The team of `base` with lanes 0 and 1 in the execution mask. -/
def team : Team :=
  { Team.launch probeCand 1 0 0 0 0 0 0 with clause := some (oneWord 0), pc := 8, cur := 3 }

/-- The state in which pipe 0 issues a team. -/
def on (t : Team) : State := base.setTeam t

/-- A team with lanes 0 and 1 of register v written under a tag. -/
def put (t : Team) (v : Nat) (tag : Tag) (x y : Lane32) : Team :=
  t.writeReg 3 v tag (fun l => if l == 0 then x else y) (fun _ => false)

/-- The team after an instruction that completes. -/
def after (i : Instr) (s : State) : Option Team :=
  match exec i s with
  | .next s' => s'.team 256
  | _ => none

/-- Lanes 0 and 1 of register v after an instruction. -/
def lanes (i : Instr) (t : Team) (v : Nat) : Option (Lane32 × Lane32 × Tag) :=
  (after i (on t)).map fun u => (u.lane v 0, u.lane v 1, u.vtag v 0)

/-! ## A context with a page: virtual addresses below 1 GiB are the same physical ones, readable, writable and executable -/

/-- The two entries of its table: a pointer at 0x100000 and a leaf of 1 GiB at 0x200000. -/
def pages : Memory := [(0x100000, 1), (0x100002, 0x20), (0x200000, 0xF7), (0x200001, 4)]

/-- Context 0 of function 0 with key slot 0: it runs. -/
def ctx0 : Ctx := { Ctx.free with st := .running, root := 0x100000, errec := 0x300000 }

/-- A memory with bytes from an address in place of what was there. -/
def load (m : Memory) (a : Nat) (bs : List Byte) : Memory :=
  m.filter (·.1 < a) ++ (bs.zipIdx a).filterMap (fun x => if x.1 == 0 then none else some (x.2, x.1)) ++ m.filter (a + bs.length ≤ ·.1)

/-- A state whose group has bytes in its scratchpad from an address, in valid words. -/
def scratched (s : State) (a : Nat) (bs : List Byte) : State :=
  let fill (x : GroupSt) : GroupSt := { x with bytes := load [] a bs, valid := 2 ^ ((a + bs.length) / 4) - 2 ^ (a / 4) }
  s.modGang 1 fun g => { g with groups := g.groups.map fill }

/-- The demo state with that context and bytes written from an address. -/
def world (t : Team) (a : Nat) (bs : List Byte) : State :=
  { on t with
    mem := { (on t).mem with dev := load pages a bs }
    sched := { (on t).sched with ctxs := [(0, ctx0)] } }

/-- The demo state with the gang's image at 0x400000: eight words of code, each a header of a clause of one control instruction. -/
def coded (t : Team) : State :=
  (world t 0x400040 ((List.range 8).flatMap fun _ => leBytes 8 0xC80001FE00000000)).modGang 1 fun g =>
    { g with src := { g.src with image := 0x400000 } }

/-- The place of code offset 32 of that image. -/
def codePlace : Place :=
  .dev { leaf := { base := 0, size := 5, rd := true, wr := true, ex := true, pin := false, dirty := true, key := 0, grain := 0, ret := 0,
                   place := false, hdie := 0 }, entry := 0x200000, vbase := 0, cached := false, path := [(3, 0x200000)] } 0x400060

/-! ## Hypotheses by evaluation -/

theorem names_of {t : Team} {ix : Bool} {r : BitVec 8} {n : Nat} {pair : Bool} {v : Nat}
    (h : decide ((v : Int) = (if ix then t.x.toInt + r.toInt else (r.toNat : Int)) ∧ v + n ≤ t.vregs ∧ (pair = true → v % 2 = 0)) = true) :
    t.names ix r n pair v := by unfold Team.names; exact of_decide_eq_true h

theorem tagged_of {t : Team} {act : Mask} {v n : Nat} {set : List Tag}
    (h : ((List.range n).all fun k => (wordsOf act t.lanes).all fun w => set.contains (t.vtag (v + k) w)) = true) :
    t.tagged act v n set := by
  intro k hk w hw
  simp only [List.all_eq_true, List.mem_range, List.contains_iff_mem] at h
  exact h k hk w (mem_wordsOf.2 hw)

theorem live_all {t : Team} {act : Mask} {p : Nat → Prop} (h : ∀ l ∈ lanesOf act t.lanes, p l) : ∀ l, t.live act l → p l :=
  fun l hl => h l (mem_lanesOf.2 hl)

/-- The demo team with four registers of zeros of every tag: registers 4 * tag + 16 to 4 * tag + 19; v8 to v15 have none. -/
def rich : Team :=
  { team with file := { bits := [], taint := [], tags := (List.range 48).map fun k => ((20 + k) * 32, k / 4 + 1) } }

end Sys2Proof.Demo
end

