-- ==== Sys2Proof/Tests/Slice0.lean ====
section
/-! SUPPORT. The model's own tests: terms the well-formedness checks refuse, words written out from the spec's encodings, and single
steps whose results come from the spec's tables and text. -/

namespace Sys2Proof.Slice0

set_option Elab.async false

open Sys2Proof.Machine Sys2Proof.Demo

/-! ## Words (R118 to R130) -/

/-- A list of words, each with the instruction it stands for. -/
def decodes (l : List (Word × Instr)) : Bool := l.all fun x => decodeTableWord 64 x.1.toNat == some x.2

theorem test_decode_integer : decodes [
    (0x0000_C040_8004_003A, .iadd ⟨3, true, true, false, false⟩ (rrr 3 1 2 0 1 0 false 0)),
    (0x0041_8081_0028_40F0, .isub hd (rrr 6 2 4 0 10 0 true 0)),
    (0x0081_C040_C008_00F0, .imul hd (rrr 7 1 3 0 2 0 false 0)),
    (0x00C1_C040_C004_00F0, .imulh hd (rrr 7 1 3 0 1 0 false 0)),
    (0x0101_C040_C248_40F0, .imad hd (rrr 7 1 3 9 2 0 true 0)),
    (0x0141_8040_C204_40F0, .imadw hd (rrr 6 1 3 8 1 0 true 0)),
    (0x0181_C040_C004_40F1, .idiv ⟨15, false, false, false, true⟩ (rrr 7 1 3 0 1 0 true 0)),
    (0x01C1_C040_C008_00F1, .irem ⟨15, false, false, false, true⟩ (rrr 7 1 3 0 2 0 false 0)),
    (0x0201_C040_C024_00F0, .imin hd (rrr 7 1 3 0 9 0 false 0)),
    (0x0241_8081_0028_00F0, .imax hd (rrr 6 2 4 0 10 0 false 0)),
    (0x0281_C040_0004_40F0, .iabs hd (rrr 7 1 0 0 1 0 true 0)),
    (0x02C1_C040_C248_00F0, .isat hd (rrr 7 1 3 9 2 0 false 0))] = true := by decide +kernel

theorem test_decode_logic : decodes [
    (0x0301_C040_C000_00F0, .andl hd (rrr 7 1 3 0 0 0 false 0)),
    (0x0341_8081_0000_01F0, .orl hd (rrr 6 2 4 0 0 0 false 1)),
    (0x0381_C040_C000_00F4, .xorl ⟨15, false, false, true, false⟩ (rrr 7 1 3 0 0 0 false 0)),
    (0x03C1_C040_C000_0000, .andn ⟨0, false, false, false, false⟩ (rrr 7 1 3 0 0 0 false 0)),
    (0x0401_C040_C000_00F0, .shl hd (rrr 7 1 3 0 0 0 false 0)),
    (0x0441_8081_4000_01F0, .shr hd (rrr 6 2 5 0 0 0 false 1)),
    (0x0481_C040_C000_00F0, .sar hd (rrr 7 1 3 0 0 0 false 0)),
    (0x04C1_C040_C000_00F0, .rot hd (rrr 7 1 3 0 0 0 false 0)),
    (0x0501_C040_C004_00F0, .bfx hd (rrr 7 1 3 0 1 0 false 0)),
    (0x0541_C040_C240_00F0, .bfi hd (rrr 7 1 3 9 0 0 false 0)),
    (0x0581_C040_0000_00F0, .popc hd (rrr 7 1 0 0 0 0 false 0)),
    (0x05C1_C040_0000_00F0, .clz hd (rrr 7 1 0 0 0 0 false 0)),
    (0x0601_C040_0000_00F0, .brev hd (rrr 7 1 0 0 0 0 false 0))] = true := by decide +kernel

theorem test_decode_moves : decodes [
    (0x0641_817F_FFFD_09F2, .lea ⟨15, false, true, false, false⟩ (ri 6 5 4194301 9)),
    (0x0681_C040_0000_02F0, .mov hd (rrr 7 1 0 0 0 0 false 2)),
    (0x06C1_F7AB_6FBB_E4F0, .movi hd (li 7 0xDEADBEEF 36)),
    (0x0701_8FC0_0000_01F0, .movs hd (rrr 6 63 0 0 0 0 false 1)),
    (0x0741_C040_C380_00F0, .sel hd (rrr 7 1 3 14 0 0 false 0)),
    (0x0783_8040_C024_14F0, .icmp hd (rrr 14 1 3 0 9 0 false 20)),
    (0x07C0_C081_002C_1CF4, .fcmp ⟨15, false, false, true, false⟩ (rrr 3 2 4 0 11 0 false 28)),
    (0x0800_43C0_C000_00F0, .pand hd (rrr 1 15 3 0 0 0 false 0)),
    (0x0840_4080_C000_00F0, .por hd (rrr 1 2 3 0 0 0 false 0)),
    (0x0880_4080_C000_00F0, .pxor hd (rrr 1 2 3 0 0 0 false 0)),
    (0x08C0_4080_0000_00F0, .pnot hd (rrr 1 2 0 0 0 0 false 0)),
    (0x0901_F200_0000_01F4, .kmov ⟨15, false, false, true, false⟩ (rrr 7 200 0 0 0 0 false 1)),
    (0x0941_C040_C000_00F0, .kand hd (rrr 7 1 3 0 0 0 false 0)),
    (0x0981_C040_C000_00F0, .kor hd (rrr 7 1 3 0 0 0 false 0)),
    (0x09C2_41F2_0000_00F0, .kbit hd (rrr 9 7 200 0 0 0 false 0)),
    (0x0A01_C072_0000_01F0, .kset hd (rrr 7 1 200 0 0 0 false 1))] = true := by decide +kernel

theorem test_decode_float : decodes [
    (0x0A41_C040_C00D_80F0, .fadd hd (rrr 7 1 3 0 3 3 false 0)),
    (0x0A81_8081_002C_80F0, .fsub hd (rrr 6 2 4 0 11 1 false 0)),
    (0x0AC1_C040_C00D_00F0, .fmul hd (rrr 7 1 3 0 3 2 false 0)),
    (0x0B01_C040_C24C_00F0, .ffma hd (rrr 7 1 3 9 3 0 false 0)),
    (0x0B41_C040_C00C_00F0, .fmin hd (rrr 7 1 3 0 3 0 false 0)),
    (0x0B81_8081_002C_00F0, .fmax hd (rrr 6 2 4 0 11 0 false 0)),
    (0x0BC1_C040_000C_A0F1, .fsfu ⟨15, false, false, false, true⟩ (rrr 7 1 0 0 3 1 false 32)),
    (0x0C01_C040_C000_80F0, .hadd2 hd (rrr 7 1 3 0 0 1 false 0)),
    (0x0C41_C040_C000_00F0, .hmul2 hd (rrr 7 1 3 0 0 0 false 0)),
    (0x0C81_C040_C240_00F0, .hfma2 hd (rrr 7 1 3 9 0 0 false 0)),
    (0x0CC1_C040_C000_00F0, .badd2 hd (rrr 7 1 3 0 0 0 false 0)),
    (0x0D01_C040_C001_80F0, .bmul2 hd (rrr 7 1 3 0 0 3 false 0)),
    (0x0D41_C040_C240_00F0, .bfma2 hd (rrr 7 1 3 9 0 0 false 0)),
    (0x0D81_8080_C240_00F0, .frot hd (rrr 6 2 3 9 0 0 false 0))] = true := by decide +kernel

theorem test_decode_conversions : decodes [
    (0x0DC2_8080_C256_0CF0, .cvt hd (rrr 10 2 3 9 5 4 false 12)),
    (0x0E01_8080_0028_00F0, .reint hd (rrr 6 2 0 0 10 0 false 0)),
    (0x0E41_FF00_025E_0CF0, .pack4 hd (rrr 7 252 0 9 7 4 false 12)),
    (0x0EBF_0040_000C_18F0, .unpk4 hd (rrr 252 1 0 0 3 0 false 24)),
    (0x0EC1_FE00_0020_04F0, .pack8 hd (rrr 7 248 0 0 8 0 false 4)),
    (0x0F02_0040_0004_20F0, .unpk8 hd (rrr 8 1 0 0 1 0 false 32)),
    (0x0F41_C040_C240_40F0, .idp4 hd (rrr 7 1 3 9 0 0 true 0)),
    (0x0F81_C040_C241_00F0, .edp4 hd (rrr 7 1 3 9 0 2 false 0)),
    (0x0FFF_0FC2_0000_00F1, .rng ⟨15, false, false, false, true⟩ (rrr 252 63 8 0 0 0 false 0))] = true := by decide +kernel

theorem test_decode_scalar_and_team_values : decodes [
    (0x1001_C040_C028_00F0, .sadd hd (rrr 7 1 3 0 10 0 false 0)),
    (0x1041_C040_C004_00F0, .smul hd (rrr 7 1 3 0 1 0 false 0)),
    (0x1081_C040_C000_00F0, .sand hd (rrr 7 1 3 0 0 0 false 0)),
    (0x10C1_C04F_C000_00F0, .sor hd (rrr 7 1 63 0 0 0 false 0)),
    (0x1101_C040_C000_00F0, .sshl hd (rrr 7 1 3 0 0 0 false 0)),
    (0x1143_C040_C008_0CF0, .scmp hd (rrr 15 1 3 0 2 0 false 12)),
    (0x118F_C040_0000_00F0, .smov hd (rrr 63 1 0 0 0 0 false 0)),
    (0x11C1_0000_0000_42F0, .smovi hd (li 4 0x1 2)),
    (0x1202_4080_0028_40F0, .red hd (rrr 9 2 0 0 10 0 true 0)),
    (0x1241_C040_000C_06F0, .scan hd (rrr 7 1 0 0 3 0 false 6)),
    (0x1281_C3C0_0000_03F0, .vcnt hd (rrr 7 15 0 0 0 0 false 3)),
    (0x12C1_C040_0000_01F0, .fkey hd (rrr 7 1 0 0 0 0 false 1)),
    (0x1301_8081_4000_0FF0, .shfl hd (rrr 6 2 5 0 0 0 false 15))] = true := by decide +kernel

theorem test_decode_memory : decodes [
    (0x2001_0101_C40C_00F0, .ld hd (mem 4 4 7 4 false false 3 0 0 0 false)),
    (0x2040_8080_0045_40F0, .st hd (mem 2 2 0 0 false true 1 2 4 0 false)),
    (0x208F_C040_2068_09F0, .lds hd (mem 63 1 0 32 false true 10 0 0 4 true)),
    (0x20CF_C040_1F74_02F0, .sts hd (mem 63 1 0 31 false true 13 0 0 1 false)),
    (0x2101_0100_0054_00F0, .ldc hd (mem 4 4 0 0 false true 5 0 0 0 false)),
    (0x2140_0000_0040_C0F0, .fence hd (mem 0 0 0 0 false true 0 1 4 0 false)),
    (0x2180_00F2_0530_07F0, .pref hd (mem 0 3 200 5 false false 12 0 0 3 true)),
    (0x21C0_00F2_0530_60F0, .cflush hd (mem 0 3 200 5 false false 12 0 6 0 false)),
    (0x2202_40C0_0568_00F0, .probe hd (mem 9 3 0 5 false true 10 0 0 0 false)),
    (0x2272_3C0F_8FC0_0FF1, .xcl ⟨15, false, false, false, true⟩ (rrr 200 240 62 63 0 0 false 15))] = true := by decide +kernel

theorem test_decode_matrix : decodes [
    (0x4000_8203_0404_40F0, .mma hd (mx 2 8 12 16 0x440)),
    (0x4043_C000_0000_00F0, .czero hd (mx 15 0 0 0 0x0)),
    (0x4081_CFC0_003F_C0F0, .crd hd (mx 7 63 0 0 0x3FC0)),
    (0x40C1_CFC0_003F_C0F0, .cwr hd (mx 7 63 0 0 0x3FC0)),
    (0x4101_C000_0003_C0F0, .cmov hd (mx 7 0 0 0 0x3C0)),
    (0x4140_0202_4001_C0F0, .mmask hd (mx 0 8 9 0 0x1C0)),
    (0x4180_0200_0000_00F1, .mbud ⟨15, false, false, false, true⟩ (mx 0 8 0 0 0x0)),
    (0x41C1_C000_0007_C0F0, .crank hd (mx 7 0 0 0 0x7C0)),
    (0x4201_C000_003F_80F0, .rkins hd (mx 7 0 0 0 0x3F80)),
    (0x4241_C600_0000_C0F0, .rkfold hd (mx 7 24 0 0 0xC0)),
    (0x4281_CF80_0000_00F0, .rkmerge hd (mx 7 62 0 0 0x0)),
    (0x42C1_CF80_0000_00F0, .rkout hd (mx 7 62 0 0 0x0)),
    (0x4301_C000_003F_C0F0, .rkfloor hd (mx 7 0 0 0 0x3FC0))] = true := by decide +kernel

theorem test_decode_engine : decodes [
    (0x6000_4080_C13A_00F0, .qapp hd (ec 1 2 3 4 true true 5 0)),
    (0x604F_8080_C02C_00F0, .qclaim hd (ec 62 2 3 0 true false 6 0)),
    (0x6080_4080_C11A_00F0, .qdone hd (ec 1 2 3 4 false true 5 0)),
    (0x60C0_4080_0000_00F0, .qflush hd (ec 1 2 0 0 false false 0 0)),
    (0x6100_4080_0000_00F0, .qstat hd (ec 1 2 0 0 false false 0 0)),
    (0x6142_4101_433A_00F0, .xcopy hd (ec 9 4 5 12 true true 5 0)),
    (0x6182_4101_4ED8_00F0, .xgather hd (ec 9 4 5 59 false true 4 0)),
    (0x61C2_4101_432E_00F0, .xmcast hd (ec 9 4 5 12 true false 7 0)),
    (0x6200_4080_C100_00F0, .xchain hd (ec 1 2 3 4 false false 0 0)),
    (0x6242_4101_419A_00F0, .launch hd (ec 9 4 5 6 false true 5 0)),
    (0x6282_4101_4200_02F0, .tickarm hd (ec 9 4 5 8 false false 0 2)),
    (0x62C2_4100_0000_00F0, .tickdis hd (ec 9 4 0 0 false false 0 0)),
    (0x6302_4101_402A_00F0, .wclaim hd (ec 9 4 5 0 true false 5 0)),
    (0x6302_4100_002A_01F0, .wclaimTick hd (ec 9 4 0 0 true false 5 1)),
    (0x6302_4100_0000_02F0, .wclaimOpen hd (ec 9 4 0 0 false false 0 2)),
    (0x6342_4101_401A_00F0, .wrel hd (ec 9 4 5 0 false true 5 0)),
    (0x6342_4100_001A_01F0, .wrelClose hd (ec 9 4 0 0 false true 5 1)),
    (0x6382_4101_431C_18F0, .xcoll hd (ec 9 4 5 12 false true 6 24))] = true := by decide +kernel

theorem test_decode_control : decodes [
    (0x8000_0000_0030_00F0, .bra hd (li 0 0xC0 0)),
    (0x8043_BFFF_FFFE_03F0, .brau hd (li 14 0xFFFFFFF8 3)),
    (0x8080_1FFF_FFFE_00F0, .call hd (li 0 0x7FFFFFF8 0)),
    (0x80C0_0000_0000_00F0, .ret hd (rrr 0 0 0 0 0 0 false 0)),
    (0x8100_0000_0010_0038, .ifc ⟨3, true, false, false, false⟩ (li 0 0x40 0)),
    (0x8140_0000_0010_00F0, .elsec hd (li 0 0x40 0)),
    (0x8180_0000_0000_00F0, .endif hd (sys 0 0 0 0)),
    (0x81C0_0000_0000_00F0, .loop hd (li 0 0x0 0)),
    (0x8200_0000_0008_0020, .brk ⟨2, false, false, false, false⟩ (li 0 0x20 0)),
    (0x8240_0000_0008_0020, .cont ⟨2, false, false, false, false⟩ (li 0 0x20 0)),
    (0x8280_3FFF_FFF4_00F0, .endl hd (li 0 0xFFFFFFD0 0)),
    (0x82C0_0000_0000_0020, .exit ⟨2, false, false, false, false⟩ (sys 0 0 0 0)),
    (0x8300_0000_0000_00F0, .nop hd (sys 0 0 0 0)),
    (0x8340_0000_0000_00F0, .yield hd (sys 0 0 0 0)),
    (0x8380_0240_0000_01F0, .sleep hd (ri 0 9 0 1)),
    (0x83C0_0408_0020_7AF0, .region hd (rrr 0 16 32 0 8 0 true 58)),
    (0x8400_003F_FFFB_00F0, .setx hd (ri 0 0 4194299 0)),
    (0x8440_0000_0020_00F0, .rgrow hd (ri 0 0 32 0)),
    (0x8480_0000_0001_00F0, .rshrink hd (ri 0 0 1 0)),
    (0x84C2_4000_0280_01F0, .sread hd (sys 9 0 10 1)),
    (0x8502_4500_0C40_02F0, .trap hd (sys 9 20 49 2)),
    (0x8542_4F80_0100_00F0, .ctxq hd (sys 9 62 4 0)),
    (0x8582_4000_0000_01F0, .tnow hd (sys 9 0 0 1))] = true := by decide +kernel

theorem test_decode_sync : decodes [
    (0xA001_8100_8217_60F0, .atom hd (atm 6 4 2 8 1 3 5 8 false false)),
    (0xA040_0132_0235_04F0, .redM hd (atm 0 4 200 8 3 2 4 1 false false)),
    (0xA082_4100_0223_45F0, .waita hd (atm 9 4 0 8 2 1 5 1 false true)),
    (0xA0C2_4100_0205_01F0, .wake hd (atm 9 4 0 8 0 2 4 0 false true)),
    (0xA100_0202_4000_00F0, .binit hd (rrr 0 8 9 0 0 0 false 0)),
    (0xA140_0200_0000_07F0, .breg hd (rrr 0 8 0 0 0 0 false 7)),
    (0xA181_4200_0000_00F0, .barr hd (rrr 5 8 0 0 0 0 false 0)),
    (0xA1C1_4200_0000_00F0, .barrd hd (rrr 5 8 0 0 0 0 false 0)),
    (0xA200_0202_4000_00F0, .bexp hd (rrr 0 8 9 0 0 0 false 0)),
    (0xA241_4202_4000_00F0, .bwait hd (rrr 5 8 9 0 0 0 false 0)),
    (0xA281_4202_4000_00F0, .btest hd (rrr 5 8 9 0 0 0 false 0)),
    (0xA2C0_0000_0080_00F0, .rsecEnter hd (sys 0 0 2 0)),
    (0xA300_0000_00C0_00F1, .rsecLeave ⟨15, false, false, false, true⟩ (sys 0 0 3 0)),
    (0xA342_4100_0069_40F0, .publ hd (mem 9 4 0 0 false true 10 2 4 0 false)),
    (0xA382_4101_81DA_01F0, .retire hd (ec 9 4 6 7 false true 5 1)),
    (0xA3C2_4000_00C0_00F0, .gpseq hd (sys 9 0 3 0)),
    (0xA402_4F80_00C0_01F0, .gpwait hd (sys 9 62 3 1))] = true := by decide +kernel
/-! ## What is not well-formed -/

/-- A list of terms, each refused for the reason given. -/
def refused (l : List (Instr × Reject)) : Bool := l.all fun x => x.1.reject == some x.2 && !x.1.wf

/-- Reserved bits and unused fields (R122), and the flag select of an instruction that is not long-latency (R114). -/
theorem test_refuses_reserved_bits : refused [
    (.iadd hd (rrr 3 1 2 5 1 0 false 0), .reserved), (.fadd hd (rrr 3 1 2 0 3 0 true 0), .reserved),
    (.mmask hd (mx 0 8 9 0 1), .reserved), (.nop hd (sys 0 0 1 0), .reserved), (.ld hd (mem 4 4 7 4 false true 3 0 0 0 false), .reserved),
    (.iadd { hd with fb := true } (rrr 3 1 2 0 1 0 false 0), .flagSelect)] = true := by decide +kernel

/-- Register numbers, pairs and runs (R47, R119, R131). -/
theorem test_refuses_registers : refused [
    (.smov hd (rrr 64 1 0 0 0 0 false 0), .register), (.pnot hd (rrr 16 1 0 0 0 0 false 0), .register),
    (.kand hd (rrr 8 1 1 0 0 0 false 0), .register), (.czero hd (mx 16 0 0 0 0), .register),
    (.isub hd (rrr 5 2 4 0 10 0 false 0), .oddPair), (.andl hd (rrr 6 3 4 0 0 0 false 1), .oddPair), (.lea hd (ri 7 1 0 0), .oddPair),
    (.rng hd (rrr 253 1 4 0 0 0 false 0), .runPast), (.rkout hd (mx 3 63 0 0 0), .runPast),
    (.xcoll hd (ec 9 4 5 60 false true 6 24), .runPast)] = true := by decide +kernel

/-- Index apply on a field that is no lane register (R121), and a guard on an instruction that acts on its team. -/
theorem test_refuses_index_and_guard : refused [
    (.smov { hd with ixD := true } (rrr 9 1 0 0 0 0 false 0), .indexApply), (.icmp { hd with ixD := true } (rrr 3 1 2 0 1 0 false 0), .indexApply),
    (.lea { hd with ixA := true } (ri 6 5 0 0), .indexApply), (.yield { hd with guard := 3 } (sys 0 0 0 0), .guard)] = true := by
  decide +kernel

/-- Modifier values that the tables mark ILLEGAL. -/
theorem test_refuses_modifiers : refused [
    (.iadd hd (rrr 3 1 2 0 3 0 false 0), .modifier), (.imulh hd (rrr 3 1 2 0 1 0 true 0), .modifier), (.fadd hd (rrr 3 1 2 0 3 4 false 0), .modifier),
    (.cvt hd (rrr 3 1 0 0 1 0 false 4), .modifier), (.pack4 hd (rrr 3 4 0 0 8 0 false 12), .modifier),
    (.ld hd (mem 4 4 0 0 false true 15 0 0 0 false), .modifier), (.ld hd (mem 4 4 0 0 false true 1 0 0 5 false), .modifier),
    (.mma hd (mx 2 8 12 16 0x2C00), .modifier), (.qclaim hd (ec 1 2 3 0 false true 5 0), .modifier), (.qflush hd (ec 1 2 0 0 false false 1 0), .modifier),
    (.atom hd (atm 6 4 2 8 3 0 0 3 false false), .modifier), (.region hd (rrr 1 1 0 0 4 0 false 0), .modifier),
    (.sread hd (sys 9 0 17 0), .modifier), (.rgrow hd (ri 0 0 33 0), .modifier)] = true := by decide +kernel

/-- A branch offset off the grid (R127), and an event, which has no word. -/
theorem test_refuses_branches_and_events :
    refused [(.bra hd (li 0 4 0), .branch), (.loop hd (li 0 8 0), .reserved), (.lockLoss, .event), (.reset, .event)] = true := by decide +kernel

/-- Words that no row of R130 assigns. -/
theorem test_refuses_opcodes : [(0x4D, 0), (0x0A, 1), (0x0D, 2), (0x0F, 3), (0x17, 4), (0x11, 5), (0, 6), (0, 7)].all
    (fun (x : Nat × Nat) => (decodeTableWord 64 ((x.2 * 128 + x.1) * 2 ^ 54 + 0xF0)).isNone) = true := by decide +kernel

/-- The reason a header is refused for. -/
def headerRefused (w : Word) (r : Reject) : Bool :=
  match decodeHeader w with
  | .ok _ => false
  | .error x => x == r

/-- Headers (R109, R110, R131). -/
theorem test_refuses_headers : [(0x0000_0000_0000_0000, Reject.marker), (0xCC00_01FE_0000_0000, .headerClass), (0xC000_019E_0000_0000, .headerFlag),
    (0xC000_01FE_0000_0001, .headerReserved)].all (fun x => headerRefused x.1 x.2) = true := by decide +kernel

/-- Words of a clause: another class than its header's, a terminator before the end, a branch out of the code (R112, R127). -/
theorem test_refuses_words_of_clauses : wordFault 0 0 256 true 0x8300_0000_0000_00F0 = some .classDiffers ∧
    wordFault 4 0 256 false 0x82C0_0000_0000_00F0 = some .terminator ∧ wordFault 4 64 256 true 0x8000_0000_0030_00F0 = some .branch ∧
    wordFault 4 64 256 true 0x8000_0000_002E_00F0 = none := by decide +kernel

/-! ## Single steps: the lane class (spec/07_lane_ops.md)

Each result is worked out from the table of the rule named. -/

/-- A team with two lanes of v1 and v2 under one tag. -/
def two (ty : Tag) (a0 a1 b0 b1 : Lane32) : Team := put (put team 1 ty a0 a1) 2 ty b0 b1

/-- Two lanes of v3 after an instruction, with the tag and the sticky flags. -/
def v3 (i : Instr) (t : Team) : Option (Lane32 × Lane32 × Tag × Sticky) :=
  (after i (on t)).map fun u => (u.lane 3 0, u.lane 3 1, u.vtag 3 0, u.sticky)

-- R143, R144; sticky bit 5 is SAT, bit 3 DZ (R44)
theorem test_iadd_wraps : v3 (.iadd hd (rrr 3 1 2 0 1 0 false 0)) (two 1 0x7FFFFFFF 5 1 0xFFFFFFFF) = some (0x80000000, 4, 1, 0) := by
  decide +kernel
theorem test_isub_saturates : v3 (.isub hd (rrr 3 1 2 0 2 0 true 0)) (two 2 3 7 5 2) = some (0, 5, 2, 0x20) := by decide +kernel
theorem test_imul : v3 (.imul hd (rrr 3 1 2 0 1 0 false 0)) (two 1 0x10000 3 0x10000 0xFFFFFFFE) = some (0, 0xFFFFFFFA, 1, 0) := by
  decide +kernel
theorem test_imulh : v3 (.imulh hd (rrr 3 1 2 0 1 0 false 0)) (two 1 0xFFFFFFFF 0x40000000 5 8) = some (0xFFFFFFFF, 2, 1, 0) ∧
    v3 (.imulh hd (rrr 3 1 2 0 2 0 false 0)) (two 2 0xFFFFFFFF 1 0xFFFFFFFF 1) = some (0xFFFFFFFE, 0, 2, 0) := by decide +kernel
theorem test_imad_saturates : v3 (.imad hd (rrr 3 1 2 1 1 0 true 0)) (two 1 0x40000000 3 4 5) = some (0x7FFFFFFF, 18, 1, 0x20) := by
  decide +kernel
theorem test_imadw : (after (.imadw hd (rrr 4 1 2 6 1 0 false 0)) (on (put (put (two 1 0xFFFFFFFF 2 1 3) 6 10 0 1) 7 10 0 0))).map
    (fun u => (u.lane64 4 0, u.lane64 4 1, u.vtag 5 0)) = some (0xFFFFFFFFFFFFFFFF, 7, 10) := by decide +kernel
theorem test_idiv : v3 (.idiv hd (rrr 3 1 2 0 1 0 false 0)) (two 1 0xFFFFFFF9 5 2 0) = some (0xFFFFFFFD, 0x7FFFFFFF, 1, 8) := by
  decide +kernel
theorem test_irem : v3 (.irem hd (rrr 3 1 2 0 1 0 false 0)) (two 1 0xFFFFFFF9 5 2 0) = some (0xFFFFFFFF, 5, 1, 8) := by decide +kernel
theorem test_imin_of_keys : v3 (.imin hd (rrr 3 1 2 0 9 0 false 0)) (two 9 0xFFFFFFFF 4 1 9) = some (1, 4, 9, 0) := by decide +kernel
theorem test_imax_is_signed : v3 (.imax hd (rrr 3 1 2 0 1 0 false 0)) (two 1 0xFFFFFFFF 4 1 9) = some (1, 9, 1, 0) := by decide +kernel
theorem test_iabs : v3 (.iabs hd (rrr 3 1 0 0 1 0 true 0)) (two 1 0x80000000 0xFFFFFFFB 0 0) = some (0x7FFFFFFF, 5, 1, 0x20) := by
  decide +kernel
theorem test_isat : v3 (.isat hd (rrr 3 1 2 4 1 0 false 0)) (put (two 1 10 0xFFFFFFF0 0 0xFFFFFFFE) 4 1 5 5) = some (5, 0xFFFFFFFE, 1, 0x20) := by
  decide +kernel

-- R145: the common tag, else RAW
theorem test_and_keeps_tag : v3 (.andl hd (rrr 3 1 2 0 0 0 false 0)) (two 1 0xF0 3 0x3C 6) = some (0x30, 2, 1, 0) := by decide +kernel
theorem test_or_of_two_tags : v3 (.orl hd (rrr 3 1 2 0 0 0 false 0)) (put (put team 1 1 1 2) 2 9 4 4) = some (5, 6, 12, 0) := by decide +kernel
theorem test_xor : v3 (.xorl hd (rrr 3 1 2 0 0 0 false 0)) (two 2 0xFF 1 0x0F 1) = some (0xF0, 0, 2, 0) := by decide +kernel
theorem test_andn : v3 (.andn hd (rrr 3 1 2 0 0 0 false 0)) (two 2 0xFF 1 0x0F 1) = some (0xF0, 0, 2, 0) := by decide +kernel

-- R146
theorem test_shl_by_width : v3 (.shl hd (rrr 3 1 2 0 0 0 false 0)) (put (put team 1 3 1 1) 2 2 32 31) = some (0, 0x80000000, 3, 0) := by
  decide +kernel
theorem test_shr : v3 (.shr hd (rrr 3 1 2 0 0 0 false 0)) (two 1 0x80000000 0xFF 31 0xFFFFFFFF) = some (1, 0, 1, 0) := by decide +kernel
theorem test_sar_past_width : v3 (.sar hd (rrr 3 1 2 0 0 0 false 0)) (two 1 0x80000000 0x7FFFFFFF 40 40) = some (0xFFFFFFFF, 0, 1, 0) := by
  decide +kernel
theorem test_rot_is_modulo : v3 (.rot hd (rrr 3 1 2 0 0 0 false 0)) (two 1 0x80000001 1 36 33) = some (0x18, 2, 1, 0) := by decide +kernel
theorem test_bfx_signed : v3 (.bfx hd (rrr 3 1 2 0 1 0 false 0)) (two 1 0xF0 0xF0 0x404 0x400) = some (0xFFFFFFFF, 0, 1, 0) := by
  decide +kernel
theorem test_bfx_of_no_field : v3 (.bfx hd (rrr 3 1 2 0 2 0 false 0)) (two 1 0xFFFFFFFF 0xFFFFFFFF 0x2100 0x201E) = some (0, 3, 2, 0) := by
  decide +kernel
theorem test_bfi : v3 (.bfi hd (rrr 3 1 2 4 0 0 false 0)) (put (two 1 0 0xFFFFFFFF 0x808 0x404) 4 1 0xAB 0) = some (0xAB00, 0xFFFFFF0F, 1, 0) := by
  decide +kernel
theorem test_popc : v3 (.popc hd (rrr 3 1 0 0 0 0 false 0)) (two 3 0xFF00FF01 0 0 0) = some (17, 0, 2, 0) := by decide +kernel
theorem test_clz : v3 (.clz hd (rrr 3 1 0 0 0 0 false 0)) (two 3 0x00010000 0 0 0) = some (15, 32, 2, 0) := by decide +kernel
theorem test_brev : v3 (.brev hd (rrr 3 1 0 0 0 0 false 0)) (two 9 1 0xC0000000 0 0) = some (0x80000000, 3, 9, 0) := by decide +kernel

-- R147, R148, R158
theorem test_lea : (after (.lea hd (ri 4 5 0x3FFFFD 1)) (on ((put team 1 1 0xFFFFFFFF 4).setS 5 0xFFFFFFFF00000010 2))).map
    (fun u => (u.lane64 4 0, u.lane64 4 1, u.vtag 4 0, u.vtag 5 0)) = some (0xC, 0x11, 10, 10) := by decide +kernel
theorem test_mov : v3 (.mov hd (rrr 3 1 0 0 0 0 false 0)) (two 6 1 2 0 0) = some (1, 2, 6, 0) := by decide +kernel
theorem test_movi : v3 (.movi hd (li 3 0xDEADBEEF 36)) team = some (0xDEADBEEF, 0xDEADBEEF, 9, 0) := by decide +kernel
theorem test_movs_wide : (after (.movs hd (rrr 4 5 0 0 0 0 false 1)) (on (team.setS 5 0x100000002 11))).map
    (fun u => (u.lane 4 0, u.lane 5 0, u.vtag 4 0, u.vtag 5 0)) = some (2, 1, 11, 11) := by decide +kernel
theorem test_sel : v3 (.sel hd (rrr 3 1 2 4 0 0 false 0)) { two 1 5 5 9 9 with preds := [(4, 2)] } = some (9, 5, 1, 0) := by decide +kernel
theorem test_reint : v3 (.reint hd (rrr 3 1 0 0 9 0 false 0)) (two 1 5 6 0 0) = some (5, 6, 9, 0) := by decide +kernel

/-- A predicate register after an instruction. -/
def predAfter (i : Instr) (t : Team) (p : Nat) : Option Mask := (after i (on t)).map (·.pred p)

-- R149 to R151
theorem test_icmp_of_keys : predAfter (.icmp hd (rrr 2 1 2 0 9 0 false 8)) (two 9 0xFFFFFFFF 1 1 2) 2 = some 2 := by decide +kernel
theorem test_fcmp_of_zeros : predAfter (.fcmp hd (rrr 2 1 2 0 3 0 false 0)) (two 3 0x80000000 0x7FC00000 0 0x7FC00000) 2 = some 1 := by
  decide +kernel
theorem test_pand_of_p15 : predAfter (.pand hd (rrr 1 15 3 0 0 0 false 0)) { team with preds := [(1, 0x10), (3, 6)] } 1 = some 0x12 := by
  decide +kernel
theorem test_por : predAfter (.por hd (rrr 1 2 3 0 0 0 false 0)) { team with preds := [(2, 1), (3, 6)] } 1 = some 3 := by decide +kernel
theorem test_pxor : predAfter (.pxor hd (rrr 1 2 3 0 0 0 false 0)) { team with preds := [(2, 3), (3, 2)] } 1 = some 1 := by decide +kernel
theorem test_pnot : predAfter (.pnot hd (rrr 1 2 0 0 0 0 false 0)) { team with preds := [(2, 1)] } 1 = some 2 := by decide +kernel
theorem test_kmov_to_lanes : v3 (.kmov hd (rrr 3 1 0 0 0 0 false 2)) { team with kregs := [(1024, 0x8001), (1025, 7)] } =
    some (0x8001, 7, 2, 0) := by decide +kernel

/-- Lanes 0 and 1 of mask register k3 after an instruction on k1 and k2. -/
def k3 (i : Instr) (t : Team) (a b : BitVec 16) : Option (BitVec 16 × BitVec 16) :=
  (after i (on { t with kregs := [(1024, a), (2048, b)] })).map fun u => (u.kreg 3 0, u.kreg 3 1)

theorem test_kand : k3 (.kand hd (rrr 3 1 2 0 0 0 false 0)) team 0xFF0 0x3C = some (0x30, 0) := by decide +kernel
theorem test_kor : k3 (.kor hd (rrr 3 1 2 0 0 0 false 0)) team 0xFF0 0x3C = some (0xFFC, 0) := by decide +kernel
theorem test_kset : k3 (.kset hd (rrr 3 1 2 0 0 0 false 0)) (two 1 0 0 15 16) 1 0 = some (0x8001, 0) := by decide +kernel
theorem test_kbit : predAfter (.kbit hd (rrr 3 1 2 0 0 0 false 0)) { two 1 0 0 15 0xFFFFFFFF with kregs := [(1024, 0x8000), (1025, 0xFFFF)] } 3 =
    some 1 := by decide +kernel

-- R152, R153, R155: FP32 1.0 is 3F800000; sticky bit 0 is INX, bit 4 INV
theorem test_fadd_rounds_to_even : v3 (.fadd hd (rrr 3 1 2 0 3 0 false 0)) (two 3 0x3F800000 0x7F800000 0x33800000 0xFF800000) =
    some (0x3F800000, 0x7FC00000, 3, 0x11) := by decide +kernel
theorem test_fsub_to_minus_zero : v3 (.fsub hd (rrr 3 1 2 0 3 3 false 0)) (two 3 0x3F800000 0x40400000 0x3F800000 0x3F800000) =
    some (0x80000000, 0x40000000, 3, 0) := by decide +kernel
theorem test_fmul : v3 (.fmul hd (rrr 3 1 2 0 3 0 false 0)) (two 3 0x40400000 0xC0000000 0x40000000 0x3F000000) =
    some (0x40C00000, 0xBF800000, 3, 0) := by decide +kernel
theorem test_ffma : v3 (.ffma hd (rrr 3 1 2 4 3 0 false 0)) (put (two 3 0x40000000 0x3F800001 0x40400000 0x3F800001) 4 3 0x3F800000 0xBF800000) =
    some (0x40E00000, 0x34800000, 3, 1) := by decide +kernel
theorem test_fmin_of_zeros : v3 (.fmin hd (rrr 3 1 2 0 3 0 false 0)) (two 3 0 0x7FC00000 0x80000000 5) = some (0x80000000, 5, 3, 0) := by
  decide +kernel
theorem test_fmax : v3 (.fmax hd (rrr 3 1 2 0 3 0 false 0)) (two 3 0 0xC0000000 0x80000000 0xBF800000) = some (0, 0xBF800000, 3, 0) := by
  decide +kernel
theorem test_hadd2 : v3 (.hadd2 hd (rrr 3 1 2 0 0 0 false 0)) (two 4 0x3C003C00 0 0x40003C00 0) = some (0x42004000, 0, 4, 0) := by
  decide +kernel
theorem test_hmul2 : v3 (.hmul2 hd (rrr 3 1 2 0 0 0 false 0)) (two 4 0x40003C00 0 0x40004000 0) = some (0x44004000, 0, 4, 0) := by
  decide +kernel
theorem test_hfma2 : v3 (.hfma2 hd (rrr 3 1 2 1 0 0 false 0)) (two 4 0x40003C00 0 0x40004000 0) = some (0x46004200, 0, 4, 0) := by
  decide +kernel
theorem test_badd2 : v3 (.badd2 hd (rrr 3 1 2 0 0 0 false 0)) (two 5 0x3F803F80 0 0x3F804000 0) = some (0x40004040, 0, 5, 0) := by
  decide +kernel
theorem test_bmul2 : v3 (.bmul2 hd (rrr 3 1 2 0 0 0 false 0)) (two 5 0x40003F80 0 0x40004000 0) = some (0x40804000, 0, 5, 0) := by
  decide +kernel
theorem test_bfma2 : v3 (.bfma2 hd (rrr 3 1 2 1 0 0 false 0)) (two 5 0x40003F80 0 0x40004000 0) = some (0x40C04040, 0, 5, 0) := by
  decide +kernel

-- R154: EXP2 of 3.0 is 8.0 and SQRT of 2.25 is 1.5, both exactly; RCP of -0 is -infinity with DZ
theorem test_fsfu_exp2 : v3 (.fsfu hd (rrr 3 1 0 0 3 0 false 12)) (two 3 0x40400000 0xFF800000 0 0) = some (0x41000000, 0, 3, 0) := by
  decide +kernel
theorem test_fsfu_sqrt : v3 (.fsfu hd (rrr 3 1 0 0 3 0 false 8)) (two 3 0x40100000 0x80000000 0 0) = some (0x3FC00000, 0x80000000, 3, 0) := by
  decide +kernel
-- R156: the angle 0 turns nothing
theorem test_frot_of_no_angle : (after (.frot hd (rrr 6 8 2 3 0 0 false 0))
    (on (put (put (put (put team 8 3 0x3F800000 0x40000000) 9 3 0x40400000 0) 2 3 0x40490FDB 0) 3 2 0 7))).map
    (fun u => (u.lane 6 0, u.lane 7 0, u.lane 6 1, u.lane 7 1)) = some (0x3F800000, 0x40400000, 0x40000000, 0) := by decide +kernel
-- R157 to R162
theorem test_cvt_to_integer : v3 (.cvt hd (rrr 3 1 0 0 1 1 false 12)) (two 3 0xC0200000 0x4F800000 0 0) = some (0xFFFFFFFE, 0x7FFFFFFF, 1, 0x21) := by
  decide +kernel
theorem test_cvt_joins : v3 (.cvt hd (rrr 3 1 2 0 4 0 false 12)) (two 3 0x3F800000 0 0x40000000 0) = some (0x40003C00, 0, 4, 0) := by
  decide +kernel
theorem test_pack4 : v3 (.pack4 hd (rrr 3 8 0 0 7 0 false 4))
    (put (put (put (put team 8 1 1 0xFFFFFFFF) 9 1 2 2) 10 1 3 3) 11 1 300 4) = some (0x7F030201, 0x040302FF, 7, 0x21) := by decide +kernel
theorem test_unpk4 : (after (.unpk4 hd (rrr 8 1 0 0 1 0 false 28)) (on (two 7 0x7F0302FF 0 0 0))).map
    (fun u => (u.lane 8 0, u.lane 9 0, u.lane 10 0, u.lane 11 0, u.vtag 11 0)) = some (0xFFFFFFFF, 2, 3, 0x7F, 1) := by decide +kernel
theorem test_unpk8_of_the_reserved_code : (after (.unpk8 hd (rrr 8 1 0 0 1 0 false 32)) (on (two 8 0x7000000F 0x80000000 0 0))).map
    (fun u => (u.lane 8 0, u.lane 15 0, u.sticky)) = some (0xFFFFFFFF, 7, 0x40) := by decide +kernel
theorem test_idp4 : v3 (.idp4 hd (rrr 3 1 2 4 0 0 false 0)) (put (two 7 0x01020304 0xFF000000 0x01010101 0x02000000) 4 1 10 1) =
    some (20, 0xFFFFFFFF, 1, 0) := by decide +kernel
theorem test_edp4 : v3 (.edp4 hd (rrr 3 1 2 4 0 0 false 0)) (put (two 6 0x38383838 0x7F000000 0x38404040 0x38000000) 4 3 0x3F800000 0) =
    some (0x41000000, 0x7FC00000, 3, 0) := by decide +kernel
-- the known answer of Philox-4x32-10 for counter 0 and key 0
theorem test_rng : (after (.rng hd (rrr 8 5 1 0 0 0 false 0))
    (on ((put (put (put (put team 1 2 0 0) 2 2 0 0) 3 2 0 0) 4 2 0 0).setS 5 0 10))).map
    (fun u => (u.lane 8 0, u.lane 9 0, u.lane 10 0, u.lane 11 0)) = some (0x6627E8D5, 0xE169C58D, 0xBC57AC4C, 0x9B00DBD8) := by decide +kernel

/-- A scalar register after an instruction. -/
def s9 (i : Instr) (t : Team) : Option (Word × Tag) := (after i (on t)).map fun u => ((u.sreg 9).bits, (u.sreg 9).tag)

-- R163 to R165
theorem test_sadd_of_n32 : s9 (.sadd hd (rrr 9 1 2 0 2 0 false 0)) ((team.setS 1 0xFFFFFFFF 2).setS 2 2 2) = some (1, 2) := by decide +kernel
theorem test_smul : s9 (.smul hd (rrr 9 1 2 0 10 0 false 0)) ((team.setS 1 0xFFFFFFFFFFFFFFFF 10).setS 2 5 10) = some (0xFFFFFFFFFFFFFFFB, 10) := by
  decide +kernel
theorem test_sand : s9 (.sand hd (rrr 9 1 2 0 0 0 false 0)) ((team.setS 1 0xF0 10).setS 2 0x3C 12) = some (0x30, 12) := by decide +kernel
theorem test_sor : s9 (.sor hd (rrr 9 1 2 0 0 0 false 0)) ((team.setS 1 0xF0 10).setS 2 0x3C 10) = some (0xFC, 10) := by decide +kernel
theorem test_sshl_right : s9 (.sshl hd (rrr 9 1 2 0 0 0 false 0)) ((team.setS 1 0x80000000 1).setS 2 0xFFFFFFFFFFFFFFC0 10) = some (0xFFFFFFFF, 1) := by
  decide +kernel
theorem test_scmp : predAfter (.scmp hd (rrr 2 1 2 0 10 0 false 8)) ((team.setS 1 0xFFFFFFFFFFFFFFFF 10).setS 2 0 10) 2 = some 3 := by decide +kernel
theorem test_smov : s9 (.smov hd (rrr 9 1 0 0 0 0 false 0)) (team.setS 1 77 11) = some (77, 11) := by decide +kernel
theorem test_smovi : s9 (.smovi hd (li 9 0x80000000 40)) team = some (0xFFFFFFFF80000000, 10) := by decide +kernel
theorem test_smovi_high : s9 (.smovi hd (li 9 1 2)) (team.setS 9 0x4000 10) = some (0x100004000, 10) := by decide +kernel

-- R178 to R183
theorem test_red : s9 (.red hd (rrr 9 1 0 0 1 0 false 0)) (two 1 5 0xFFFFFFFE 0 0) = some (3, 1) := by decide +kernel
theorem test_scan_exclusive : v3 (.scan hd (rrr 3 1 0 0 1 0 false 4)) (two 1 5 7 0 0) = some (0, 5, 1, 0) := by decide +kernel
theorem test_vcnt_below : v3 (.vcnt hd (rrr 3 15 0 0 0 0 false 2)) team = some (0, 1, 2, 0) := by decide +kernel
theorem test_fkey : v3 (.fkey hd (rrr 3 1 0 0 0 0 false 0)) (two 3 0x3F800000 0xBF800000 0 0) = some (0xBF800000, 0x407FFFFF, 9, 0) := by
  decide +kernel
theorem test_shfl_exchanges : v3 (.shfl hd (rrr 3 1 2 0 0 0 false 6)) (two 1 5 7 1 1) = some (7, 5, 1, 0) := by decide +kernel

/-! ## Single steps: control and the team (spec/08_team.md) -/

/-- The team of the demo state in the clause of code offset 0 whose program counter is p; all its code is headers. -/
def ctl (cur : Mask) (stack : List MaskEntry) : Team :=
  { team with clause := some (oneWord 0), pc := 8, cur := cur, stack := stack, preds := [(1, 1)] }

/-- The state that issues a team whose code, eight words at address 64 of host memory space, holds clause headers. -/
def codeState (t : Team) : State := on t

/-- What a control instruction leaves: program counter, execution mask, depth of the stack and error code. -/
def goes (i : Instr) (t : Team) : Option (Nat × Mask × Nat × Nat) :=
  (after i (codeState t)).map fun u => (u.pc, u.cur, u.stack.length, u.err)

/-- Guard p1 and its complement. -/
def p1 : Hd := { hd with guard := 1 }

-- R170, R173, R174: guard p1 passes lane 0
theorem test_brau_not_taken : goes (.brau hd (li 1 32 0)) (ctl 3 []) = some (16, 3, 0, 0) := by decide +kernel
theorem test_if_with_lanes_left : goes (.ifc p1 (li 0 32 0)) (ctl 3 []) = some (16, 1, 1, 0) := by decide +kernel
theorem test_else_exchanges : goes (.elsec hd (li 0 32 0)) (ctl 1 [⟨.ifc, 2, 0⟩]) = some (16, 2, 1, 0) := by decide +kernel
theorem test_else_on_an_empty_stack : goes (.elsec hd (li 0 32 0)) (ctl 1 []) = some (8, 1, 0, 1) := by decide +kernel
theorem test_endif_joins : goes (.endif hd (sys 0 0 0 0)) (ctl 1 [⟨.elsec, 2, 0⟩]) = some (16, 3, 0, 0) := by decide +kernel
theorem test_loop_pushes_two : goes (.loop hd (li 0 0 0)) (ctl 3 []) = some (16, 3, 2, 0) := by decide +kernel
theorem test_brk_moves_lanes : (after (.brk p1 (li 0 32 0)) (on (ctl 3 [⟨.cont, 0, 0⟩, ⟨.brk, 4, 0⟩]))).map (fun u => (u.cur, u.stack)) =
    some (2, [⟨.cont, 0, 0⟩, ⟨.brk, 5, 0⟩]) := by decide +kernel
theorem test_cont_without_loop : goes (.cont p1 (li 0 32 0)) (ctl 3 [⟨.ifc, 0, 0⟩]) = some (8, 3, 1, 1) := by decide +kernel
theorem test_endl_revives_broken_lanes : goes (.endl hd (li 0 0 0)) (ctl 0 [⟨.cont, 0, 0⟩, ⟨.brk, 5, 0⟩]) = some (16, 5, 0, 0) := by decide +kernel
theorem test_ret_without_call : goes (.ret hd (rrr 0 0 0 0 0 0 false 0)) (ctl 3 [⟨.ifc, 0, 0⟩]) = some (8, 3, 1, 1) := by decide +kernel
-- R176, R177
theorem test_exit_of_a_lane : (after (.exit p1 (sys 0 0 0 0)) (on (ctl 3 []))).map (fun u => (u.cur, u.exited, u.st)) = some (2, 1, .ready) := by
  decide +kernel
theorem test_nop : goes (.nop hd (sys 0 0 0 0)) (ctl 3 []) = some (16, 3, 0, 0) := by decide +kernel
theorem test_yield_ends_the_clause : (after (.yield hd (sys 0 0 0 0)) (on team)).map (·.clause) = some none := by decide +kernel
theorem test_sleep : (after (.sleep hd (ri 0 0 100 0)) (on team)).map (fun u => (u.st, u.pc)) = some (.sleeping 100, 8) := by decide +kernel
-- R186 to R190; code 3 is REGBOUND (R355)
theorem test_setx_clips : (after (.setx hd (ri 0 9 0 1)) (on (team.setS 9 0x9000 1))).map (fun u => (u.x, u.sticky)) = some (0x7FFF, 0x20) := by
  decide +kernel
theorem test_region : (after (.region hd (rrr 4 16 0 0 4 0 false 1)) (on team)).map (·.region) = some [4, 5, 16] := by decide +kernel
theorem test_rgrow_past_256 : (after (.rgrow hd (ri 0 0 1 0)) (on team)).map (·.err) = some 3 := by decide +kernel
theorem test_rshrink : (after (.rshrink hd (ri 0 0 1 0)) (on team)).map (·.vregs) = some 248 := by decide +kernel
theorem test_sread_clears : (after (.sread hd (sys 9 0 10 1)) (on { team with sticky := 0x21 })).map (fun u => (u.sreg 9, u.sticky)) =
    some (⟨0x21, 2, false⟩, 0) := by decide +kernel
theorem test_tnow_before_the_lock : (after (.tnow hd (sys 9 0 0 0)) (on team)).map (fun u => (u.sreg 9).tag) = some 10 := by decide +kernel

/-! ## Single steps: memory (spec/09_page.md, spec/10_sync_word.md, spec/11_barrier.md)

A scratchpad word at offset 64 of the group scratchpad window (R69). -/

/-- The group scratchpad window. -/
def win : Word := 0x01FFFFFF01000000

/-- The demo state with 64 bytes of scratchpad written at offset 64. -/
def scratchState (t : Team) (bs : List Byte) : State :=
  (on t).locWrite none (.scratch 1 0 64) (padTo 64 bs)

/-- Bytes of the scratchpad after an instruction. -/
def bytesAfter (i : Instr) (s : State) (off n : Nat) : Option (List Byte) :=
  match exec i s with
  | .next s' => some (s'.locRead none (.scratch 1 0 off) n)
  | _ => none

/-- The demo team with s4 at the scratchpad word. -/
def memTeam (t : Team) : Team := t.setS 4 (win + 64) 10

-- R207 to R209; code 4 is UNWRITTEN, 5 ALIGN (R355)
theorem test_ld_scales_the_offset : (after (.ld hd (mem 3 4 1 0 false false 1 0 0 0 false))
    (scratchState (memTeam (put team 1 1 0 1)) [1, 2, 3, 4, 5, 6, 7, 8])).map (fun u => (u.lane 3 0, u.lane 3 1, u.vtag 3 0)) =
    some (0x04030201, 0x08070605, 1) := by decide +kernel
theorem test_ld_of_a_byte : (after (.ld hd (mem 3 4 0 3 false true 13 0 0 0 false)) (scratchState (memTeam team) [1, 2, 3, 0x84])).map
    (fun u => (u.lane 3 0, u.vtag 3 0)) = some (0x84, 2) := by decide +kernel
theorem test_st_highest_lane_last : bytesAfter (.st hd (mem 3 4 0 0 false true 1 0 0 0 false))
    (scratchState (memTeam (put team 3 1 0x11111111 0x22222222)) []) 64 5 = some [0x22, 0x22, 0x22, 0x22, 0] := by decide +kernel
theorem test_ld_misaligned : (after (.ld hd (mem 3 5 0 0 false true 1 0 0 0 false)) (scratchState (team.setS 5 (win + 66) 10) [])).map (·.err) =
    some 5 := by decide +kernel
theorem test_lds : (after (.lds hd (mem 9 4 0 0 false true 10 0 0 0 false)) (scratchState (memTeam team) [1, 2, 3, 4, 5, 6, 7, 8])).map (fun u => u.sreg 9) =
    some ⟨0x0807060504030201, 10, false⟩ := by decide +kernel
theorem test_sts : bytesAfter (.sts hd (mem 9 4 0 1 false true 14 0 0 0 false)) (scratchState ((memTeam team).setS 9 0xABCD 2) []) 64 4 =
    some [0, 0, 0xCD, 0xAB] := by decide +kernel
theorem test_ldc_taints : (after (.ldc hd (mem 3 4 0 0 false true 1 0 0 0 false)) (scratchState (memTeam team) [1])).map
    (fun u => (u.lane 3 0, u.vtaint 3 0, u.vtaint 3 2)) = some (1, true, false) := by decide +kernel
theorem test_fence_of_a_group : (after (.fence hd (mem 0 0 0 0 false true 0 4 1 0 false)) (on team)).map (·.pc) = some 16 := by decide +kernel
theorem test_pref_of_a_window : (after (.pref hd (mem 0 4 0 0 false true 1 0 0 0 false)) (on (memTeam team))).map (·.err) = some 0 := by decide +kernel
theorem test_cflush_of_a_window : (after (.cflush hd (mem 0 4 0 0 false true 1 0 0 0 false)) (on (memTeam team))).map (·.pc) = some 16 := by decide +kernel

-- R222 to R230
theorem test_atom_add_by_lanes : (after (.atom hd (atm 3 4 0 1 1 0 0 0 false true)) (scratchState (memTeam (put team 1 2 5 7)) [10])).map
    (fun u => (u.lane 3 0, u.lane 3 1)) = some (10, 15) := by decide +kernel
theorem test_red_max : bytesAfter (.redM hd (atm 0 4 0 1 0 0 0 2 false true)) (scratchState (memTeam (put team 1 1 0xFFFFFFFF 7)) [3]) 64 4 =
    some [7, 0, 0, 0] := by decide +kernel
end Sys2Proof.Slice0
end

