-- ==== Sys2Proof/Tests/WitnessLanes.lean ====
section
/-! SUPPORT. Witnesses: for each statement a concrete state and operands that meet its hypotheses, clause by clause where its clauses
differ: lane operations and control. -/

namespace Sys2Proof.Tests

open Sys2Proof.Machine Sys2Proof.Demo Sys2Proof.Claim

set_option Elab.async false

/-- A team with x at 10 and an N32 scalar. -/
def ladr : Team := { rich.setS 5 16 2 with x := 10 }

/-- A team with two I64 scalars and two I32 ones. -/
def scal : Team := (((rich.setS 1 5 10).setS 2 7 10).setS 3 0x80000000 1).setS 4 3 1

/-- A team of 64 lanes whose v8 has two tags. -/
def split : Team := { rich with lanes := 64, cur := BitVec.allOnes 1024, file := { rich.file with tags := [(256, 1), (257, 2)] } }

/-- I32 and, at the other end of the widths, I64. -/
theorem witness_IntegerArithmetic :
    (on rich).issuing = some rich ∧
    rich.names false 8 1 false 8 ∧
    rich.names false 20 1 false 20 ∧
    rich.names false 22 1 false 22 ∧
    rich.tagged (rich.active hd) 20 1 [1] ∧
    rich.tagged (rich.active hd) 22 1 [1] ∧
    rich.names false 8 2 true 8 ∧
    rich.names false 56 2 true 56 ∧
    rich.names false 58 2 false 58 ∧
    rich.tagged (rich.active hd) 56 2 [10] ∧
    rich.tagged (rich.active hd) 58 2 [10] ∧
    width 9 = 1 ∧ width 10 = 2 := by
  (repeat' with_reducible apply And.intro) <;>
  first | decide +kernel | exact names_of (by decide +kernel) | exact tagged_of (by decide +kernel)

theorem witness_IntegerMultiplyAddAndClip :
    (on rich).issuing = some rich ∧
    rich.names false 8 1 false 8 ∧
    rich.names false 20 1 false 20 ∧
    rich.names false 22 1 false 22 ∧
    rich.tagged (rich.active hd) 20 1 [1] ∧
    rich.tagged (rich.active hd) 22 1 [1] ∧
    rich.names false 23 1 false 23 ∧
    rich.tagged (rich.active hd) 23 1 [1] ∧
    rich.names false 8 2 true 8 ∧
    rich.names false 56 2 false 56 ∧
    rich.tagged (rich.active hd) 56 2 [10] ∧
    rich.names false 56 2 true 56 ∧
    rich.tagged (rich.active hd) 56 2 [10] := by
  (repeat' with_reducible apply And.intro) <;>
  first | decide +kernel | exact names_of (by decide +kernel) | exact tagged_of (by decide +kernel)

theorem witness_IntegerDivision :
    (on rich).issuing = some rich ∧
    rich.flagRoom hd.fb = true ∧
    rich.names false 8 1 false 8 ∧
    rich.names false 20 1 false 20 ∧
    rich.names false 22 1 false 22 ∧
    rich.tagged (rich.active hd) 20 1 [1] ∧
    rich.tagged (rich.active hd) 22 1 [1] ∧
    rich.names false 8 1 false 8 ∧
    rich.names false 24 1 false 24 ∧
    rich.names false 26 1 false 26 ∧
    rich.tagged (rich.active hd) 24 1 [2] ∧
    rich.tagged (rich.active hd) 26 1 [2] := by
  (repeat' with_reducible apply And.intro) <;>
  first | decide +kernel | exact names_of (by decide +kernel) | exact tagged_of (by decide +kernel)

/-- One register, and a pair under .w64. -/
theorem witness_LaneLogic :
    (on rich).issuing = some rich ∧
    rich.names false 8 1 false 8 ∧
    rich.names false 20 1 false 20 ∧
    rich.names false 24 1 false 24 ∧
    rich.tagged (rich.active hd) 20 1 Tag.any ∧
    rich.tagged (rich.active hd) 24 1 Tag.any ∧
    rich.names false 8 2 true 8 ∧
    rich.names false 56 2 true 56 ∧
    rich.names false 64 2 false 64 ∧
    rich.tagged (rich.active hd) 56 2 Tag.any ∧
    rich.tagged (rich.active hd) 64 2 Tag.any := by
  (repeat' with_reducible apply And.intro) <;>
  first | decide +kernel | exact names_of (by decide +kernel) | exact tagged_of (by decide +kernel)

theorem witness_LaneShifts :
    (on rich).issuing = some rich ∧
    rich.names false 8 1 false 8 ∧
    rich.names false 20 1 false 20 ∧
    rich.names false 24 1 false 24 ∧
    rich.tagged (rich.active hd) 20 1 Tag.any ∧
    rich.tagged (rich.active hd) 24 1 [1, 2] ∧
    rich.names false 8 2 true 8 ∧
    rich.names false 56 2 true 56 ∧
    rich.tagged (rich.active hd) 56 2 Tag.any := by
  (repeat' with_reducible apply And.intro) <;>
  first | decide +kernel | exact names_of (by decide +kernel) | exact tagged_of (by decide +kernel)

theorem witness_BitFieldsAndCounts :
    (on rich).issuing = some rich ∧
    rich.names false 8 1 false 8 ∧
    rich.names false 20 1 false 20 ∧
    rich.tagged (rich.active hd) 20 1 Tag.any ∧
    rich.names false 24 1 false 24 ∧
    rich.tagged (rich.active hd) 24 1 [1, 2] ∧
    rich.names false 28 1 false 28 ∧
    rich.tagged (rich.active hd) 28 1 Tag.any := by
  (repeat' with_reducible apply And.intro) <;>
  first | decide +kernel | exact names_of (by decide +kernel) | exact tagged_of (by decide +kernel)

/-- D under index apply: x is 10 and the field -2. -/
theorem witness_LaneAddresses :
    (on ladr).issuing = some ladr ∧
    ladr.names true 0xFE 2 true 8 ∧
    ladr.names false 20 1 false 20 ∧
    (ladr.sreg 5).tag ∈ [10, 2, 12] ∧
    ladr.tagged (ladr.active hd) 20 1 [1, 2] := by
  (repeat' with_reducible apply And.intro) <;>
  first | decide +kernel | exact names_of (by decide +kernel) | exact tagged_of (by decide +kernel)

/-- Sources of one tag and of two, one register and a pair. -/
theorem witness_LaneMoves :
    (on rich).issuing = some rich ∧
    rich.names false 8 1 false 8 ∧
    rich.names false 20 1 false 20 ∧
    rich.tagged (rich.active hd) 20 1 Tag.any ∧
    rich.names false 21 1 false 21 ∧
    rich.tagged (rich.active hd) 21 1 Tag.any ∧
    (∀ w ∈ wordsOf (rich.active hd) rich.lanes, rich.vtag 20 w = rich.vtag 21 w) ∧
    rich.names false 24 1 false 24 ∧
    rich.tagged (rich.active hd) 24 1 Tag.any ∧
    (¬∀ w ∈ wordsOf (rich.active hd) rich.lanes, rich.vtag 20 w = rich.vtag 24 w) ∧
    (ladr.sreg 5).tag ∈ [1, 2, 3, 4, 5, 6, 7, 8, 9, 12] ∧
    rich.names false 8 2 true 8 ∧
    rich.names false 56 2 true 56 ∧
    rich.tagged (rich.active hd) 56 2 Tag.any := by
  (repeat' with_reducible apply And.intro) <;>
  first | decide +kernel | exact names_of (by decide +kernel) | exact tagged_of (by decide +kernel)

theorem witness_LaneCompares :
    (on rich).issuing = some rich ∧
    rich.names false 52 1 false 52 ∧
    rich.names false 54 1 false 54 ∧
    rich.tagged (rich.active hd) 52 1 [9] ∧
    rich.tagged (rich.active hd) 54 1 [9] ∧
    rich.names false 60 2 true 60 ∧
    rich.names false 62 2 false 62 ∧
    rich.tagged (rich.active hd) 60 2 [11] ∧
    rich.tagged (rich.active hd) 62 2 [11] := by
  (repeat' with_reducible apply And.intro) <;>
  first | decide +kernel | exact names_of (by decide +kernel) | exact tagged_of (by decide +kernel)

theorem witness_PredicateOperations :
    (on rich).issuing = some rich ∧
    rich.names false 20 1 false 20 ∧
    rich.tagged (rich.active hd) 20 1 [1, 2] := by
  refine ⟨?_, ?_, ?_⟩ <;>
  first | decide +kernel | exact names_of (by decide +kernel) | exact tagged_of (by decide +kernel)

theorem witness_MaskRegisters :
    (on rich).issuing = some rich ∧
    rich.names false 8 1 false 8 ∧
    rich.names false 32 1 false 32 ∧
    rich.tagged (rich.active hd) 32 1 Tag.any ∧
    rich.names false 24 1 false 24 ∧
    rich.tagged (rich.active hd) 24 1 [1, 2] := by
  (repeat' with_reducible apply And.intro) <;>
  first | decide +kernel | exact names_of (by decide +kernel) | exact tagged_of (by decide +kernel)

theorem witness_FloatArithmetic :
    (on rich).issuing = some rich ∧
    rich.names false 8 1 false 8 ∧
    rich.names false 28 1 false 28 ∧
    rich.names false 30 1 false 30 ∧
    rich.tagged (rich.active hd) 28 1 [3] ∧
    rich.tagged (rich.active hd) 30 1 [3] ∧
    rich.names false 31 1 false 31 ∧
    rich.tagged (rich.active hd) 31 1 [3] ∧
    rich.names false 8 2 true 8 ∧
    rich.names false 60 2 true 60 ∧
    rich.names false 62 2 false 62 ∧
    rich.tagged (rich.active hd) 60 2 [11] ∧
    rich.tagged (rich.active hd) 62 2 [11] ∧
    rich.names false 62 2 false 62 ∧
    rich.tagged (rich.active hd) 62 2 [11] := by
  (repeat' with_reducible apply And.intro) <;>
  first | decide +kernel | exact names_of (by decide +kernel) | exact tagged_of (by decide +kernel)

theorem witness_FloatMinMax :
    (on rich).issuing = some rich ∧
    rich.names false 8 1 false 8 ∧
    rich.names false 28 1 false 28 ∧
    rich.names false 30 1 false 30 ∧
    rich.tagged (rich.active hd) 28 1 [3] ∧
    rich.tagged (rich.active hd) 30 1 [3] ∧
    rich.names false 8 2 true 8 ∧
    rich.names false 60 2 true 60 ∧
    rich.names false 62 2 false 62 ∧
    rich.tagged (rich.active hd) 60 2 [11] ∧
    rich.tagged (rich.active hd) 62 2 [11] := by
  (repeat' with_reducible apply And.intro) <;>
  first | decide +kernel | exact names_of (by decide +kernel) | exact tagged_of (by decide +kernel)

theorem witness_PackedArithmetic :
    (on rich).issuing = some rich ∧
    rich.names false 8 1 false 8 ∧
    rich.names false 32 1 false 32 ∧
    rich.names false 34 1 false 34 ∧
    rich.tagged (rich.active hd) 32 1 [4] ∧
    rich.tagged (rich.active hd) 34 1 [4] ∧
    rich.names false 35 1 false 35 ∧
    rich.tagged (rich.active hd) 35 1 [Tag.h16x2] ∧
    rich.names false 8 1 false 8 ∧
    rich.names false 36 1 false 36 ∧
    rich.names false 38 1 false 38 ∧
    rich.tagged (rich.active hd) 36 1 [5] ∧
    rich.tagged (rich.active hd) 38 1 [5] ∧
    rich.names false 39 1 false 39 ∧
    rich.tagged (rich.active hd) 39 1 [Tag.b16x2] := by
  (repeat' with_reducible apply And.intro) <;>
  first | decide +kernel | exact names_of (by decide +kernel) | exact tagged_of (by decide +kernel)

theorem witness_SpecialFunctions :
    (on rich).issuing = some rich ∧
    rich.flagRoom hd.fb = true ∧
    rich.names false 8 1 false 8 ∧
    rich.names false 28 1 false 28 ∧
    rich.tagged (rich.active hd) 28 1 [3] ∧
    rich.names false 8 2 true 8 ∧
    rich.names false 28 2 true 28 ∧
    rich.names false 30 1 false 30 ∧
    rich.tagged (rich.active hd) 28 2 [3] ∧
    rich.tagged (rich.active hd) 30 1 [3] ∧
    rich.names false 24 1 false 24 ∧
    rich.tagged (rich.active hd) 24 1 [2] ∧
    rich.names false 8 4 false 8 ∧
    rich.names false 24 4 false 24 ∧
    rich.tagged (rich.active hd) 24 4 [2, 1, 12] ∧
    (ladr.sreg 5).tag ∈ [10, 2, 12] := by
  (repeat' with_reducible apply And.intro) <;>
  first | decide +kernel | exact names_of (by decide +kernel) | exact tagged_of (by decide +kernel)

/-- The four cases, the random operand in v64, and a pair. -/
theorem witness_Conversions :
    (on rich).issuing = some rich ∧
    Wf.cvtCase 1 3 = some .single ∧
    Wf.cvtCase 4 3 = some .join ∧
    Wf.cvtCase 3 5 = some .split ∧
    Wf.cvtCase 7 6 = some .elementwise ∧
    rich.names false 8 1 false 8 ∧
    rich.names false 28 1 false 28 ∧
    rich.names false 29 1 false 29 ∧
    rich.tagged (rich.active hd) 28 1 [3] ∧
    rich.tagged (rich.active hd) 29 1 [3] ∧
    rich.names false 64 1 false 64 ∧
    rich.tagged (rich.active hd) 64 1 [2, 1, 12] ∧
    rich.names false 36 1 false 36 ∧
    rich.tagged (rich.active hd) 36 1 [5] ∧
    rich.names false 40 1 false 40 ∧
    rich.tagged (rich.active hd) 40 1 [6] ∧
    rich.names false 8 2 true 8 ∧
    rich.tagged (rich.active hd) 60 2 [11] ∧
    rich.names false 60 2 true 60 := by
  (repeat' with_reducible apply And.intro) <;>
  first | decide +kernel | exact names_of (by decide +kernel) | exact tagged_of (by decide +kernel)

theorem witness_PackingAndUnpacking :
    (on rich).issuing = some rich ∧
    rich.names false 8 1 false 8 ∧
    rich.names false 28 4 false 28 ∧
    rich.tagged (rich.active hd) 28 4 [3] ∧
    rich.names false 64 1 false 64 ∧
    rich.tagged (rich.active hd) 64 1 [2, 1, 12] ∧
    rich.names false 8 8 false 8 ∧
    rich.names false 48 1 false 48 ∧
    rich.tagged (rich.active hd) 48 1 [8] ∧
    rich.i4trap = false ∧
    (∃ l ∈ lanesOf (rich.active hd) rich.lanes, ((put rich 48 8 0x80000000 0).lane 48 l).toNat / 16 ^ 7 % 16 = 8) := by
  (repeat' with_reducible apply And.intro) <;>
  first | decide +kernel | exact names_of (by decide +kernel) | exact tagged_of (by decide +kernel)

theorem witness_DotProducts :
    (on rich).issuing = some rich ∧
    rich.names false 8 1 false 8 ∧
    rich.names false 44 1 false 44 ∧
    rich.names false 45 1 false 45 ∧
    rich.names false 20 1 false 20 ∧
    rich.tagged (rich.active hd) 44 1 [7] ∧
    rich.tagged (rich.active hd) 45 1 [7] ∧
    rich.tagged (rich.active hd) 20 1 [1] ∧
    rich.names false 40 1 false 40 ∧
    rich.names false 41 1 false 41 ∧
    rich.names false 28 1 false 28 ∧
    rich.tagged (rich.active hd) 40 1 [6] ∧
    rich.tagged (rich.active hd) 41 1 [6] ∧
    rich.tagged (rich.active hd) 28 1 [3] := by
  (repeat' with_reducible apply And.intro) <;>
  first | decide +kernel | exact names_of (by decide +kernel) | exact tagged_of (by decide +kernel)

theorem witness_ScalarArithmetic :
    (on scal).issuing = some scal ∧
    (scal.sreg 1).tag = 10 ∧ (scal.sreg 2).tag = 10 ∧
    (scal.sreg 3).tag = 1 ∧ (scal.sreg 4).tag = 1 ∧
    (scal.sreg 1).tag ∈ Tag.any ∧ (scal.sreg 3).tag ∈ Tag.any := by
  refine ⟨?_, ?_, ?_, ?_⟩ <;>
  first | decide +kernel | exact names_of (by decide +kernel) | exact tagged_of (by decide +kernel)

theorem witness_ScalarShiftsAndConstants :
    (on scal).issuing = some scal ∧
    (scal.sreg 1).tag ∈ [10, 12, 1, 2] ∧ (scal.sreg 3).tag ∈ [10, 1] ∧
    (li 9 5 40).e.getLsbD 1 = false ∧
    (li 1 5 2).e.getLsbD 1 = true ∧ (scal.sreg 1).tag ∈ [10, 12] ∧
    (scal.sreg 3).tag ∉ [10, 12] := by
  (repeat' with_reducible apply And.intro) <;>
  first | decide +kernel | exact names_of (by decide +kernel) | exact tagged_of (by decide +kernel)

theorem witness_IntegerReductions :
    (on rich).issuing = some rich ∧
    rich.flagRoom hd.fb = true ∧
    rich.names false 20 1 false 20 ∧
    rich.tagged (rich.active hd) 20 1 [1] ∧
    rich.names false 56 2 true 56 ∧
    rich.tagged (rich.active hd) 56 2 [10] := by
  (repeat' with_reducible apply And.intro) <;>
  first | decide +kernel | exact names_of (by decide +kernel) | exact tagged_of (by decide +kernel)

theorem witness_FloatReductionsAndScans :
    (on rich).issuing = some rich ∧
    rich.flagRoom hd.fb = true ∧
    rich.names false 28 1 false 28 ∧
    rich.tagged (rich.active hd) 28 1 [3] ∧
    rich.names false 8 1 false 8 ∧
    rich.names false 60 2 true 60 ∧
    rich.tagged (rich.active hd) 60 2 [11] ∧
    rich.names false 8 2 true 8 := by
  (repeat' with_reducible apply And.intro) <;>
  first | decide +kernel | exact names_of (by decide +kernel) | exact tagged_of (by decide +kernel)

/-- For SHFL: one tag, and two words of two tags. -/
theorem witness_CountsKeysAndShuffles :
    (on rich).issuing = some rich ∧
    rich.names false 8 1 false 8 ∧
    rich.names false 28 1 false 28 ∧
    rich.tagged (rich.active hd) 28 1 [3] ∧
    rich.names false 52 1 false 52 ∧
    rich.tagged (rich.active hd) 52 1 [9] ∧
    rich.names false 20 1 false 20 ∧
    rich.tagged (rich.active hd) 20 1 [1, 2] ∧
    rich.vtag 21 0 = 1 ∧ rich.vtag 21 0 ≠ 0 ∧
    (∀ w, w < 2 → (split.vtag 8 w = 1 ∨ split.vtag 8 w = 2)) ∧ split.vtag 8 0 ≠ split.vtag 8 1 := by
  (repeat' with_reducible apply And.intro) <;>
  first | decide +kernel | exact names_of (by decide +kernel) | exact tagged_of (by decide +kernel)

/-! ## Control (spec/08_team.md) -/

/-- A team in the clause at code offset 0, with a full stack of IF entries where asked. -/
def ctl (stack : List MaskEntry) : Team := { team with stack := stack, preds := [(1, 1)] }

/-- Guard p1, which passes lane 0. -/
def p1 : Hd := { hd with guard := 1 }

/-- A result of the fetch check is a place. -/
def isPlace (r : Except LErr Place) (p : Place) : Bool :=
  match r with
  | .ok q => q == p
  | .error _ => false

theorem isPlace_eq {r : Except LErr Place} {p q : Place} (h : isPlace r p = true) (hq : r = .ok q) : q = p := by
  subst hq; simpa [isPlace] using h

/-- Offset 32 holds a clause header; offset 64 lies past the code. -/
theorem witness_branch_targets : offsetOf (ctl []) (li 1 32 0) 32 ∧ goodTarget (coded (ctl [])) (ctl []) 32 ∧
    badTarget (coded (ctl [])) (ctl []) 64 := by
  refine ⟨⟨oneWord 0, by decide +kernel, by decide +kernel⟩, ⟨((coded (ctl [])).gangOf (ctl [])).get (by decide +kernel), by simp, by decide +kernel, ?_⟩,
    ⟨((coded (ctl [])).gangOf (ctl [])).get (by decide +kernel), by simp, .inl (by decide +kernel)⟩⟩
  intro p hp
  have : p = codePlace := isPlace_eq (p := codePlace) (by decide +kernel) hp
  subst this
  decide +kernel

/-- BRAU taken and not; CALL and RET where they may and may not. -/
theorem witness_BranchesAndCalls : (coded (ctl [])).issuing = some (ctl []) ∧ offsetOf (ctl []) (li 1 32 0) 32 ∧
    (∃ l, (ctl []).cur.getLsbD l = true ∧ ((ctl []).pred 1).getLsbD l = true) ∧
    (∃ l, (ctl []).cur.getLsbD l = true ∧ ¬((ctl []).pred 1).getLsbD l = true) ∧
    (ctl []).stack.length < 48 ∧ 48 ≤ (ctl (List.replicate 48 ⟨.ifc, 0, 0⟩)).stack.length ∧
    (coded (ctl [⟨.call, 0, 32⟩])).issuing = some (ctl [⟨.call, 0, 32⟩]) ∧ (ctl [⟨.call, 0, 32⟩]).stack = ⟨.call, 0, 32⟩ :: [] ∧
    ∀ e, (ctl [⟨.ifc, 0, 0⟩]).stack.head? = some e → e.kind ≠ .call := by
  refine ⟨by decide +kernel, ⟨oneWord 0, by decide +kernel, by decide +kernel⟩, ⟨0, by decide +kernel⟩, ⟨1, by decide +kernel⟩,
    by decide +kernel, by decide +kernel, by decide +kernel, rfl, ?_⟩
  intro e he
  cases he
  decide

theorem witness_Conditionals : (coded (ctl [])).issuing = some (ctl []) ∧ offsetOf (ctl []) (li 0 32 0) 32 ∧
    (ctl [⟨.ifc, 2, 0⟩]).stack = ⟨.ifc, 2, 0⟩ :: [] ∧ (coded (ctl [⟨.ifc, 2, 0⟩])).issuing = some (ctl [⟨.ifc, 2, 0⟩]) ∧
    (coded (ctl [⟨.brk, 2, 0⟩])).issuing = some (ctl [⟨.brk, 2, 0⟩]) ∧
    ∀ e, (ctl [⟨.brk, 2, 0⟩]).stack.head? = some e → e.kind ≠ .ifc ∧ e.kind ≠ .elsec := by
  refine ⟨by decide +kernel, ⟨oneWord 0, by decide +kernel, by decide +kernel⟩, rfl, by decide +kernel, by decide +kernel, ?_⟩
  intro e he
  cases he
  decide

/-- A BREAK entry below a CONT entry and an IF entry; and no entry of the kind. -/
theorem witness_Loops : (coded (ctl [⟨.ifc, 0, 0⟩, ⟨.cont, 0, 0⟩, ⟨.brk, 4, 0⟩])).issuing = some (ctl [⟨.ifc, 0, 0⟩, ⟨.cont, 0, 0⟩, ⟨.brk, 4, 0⟩]) ∧
    offsetOf (ctl [⟨.ifc, 0, 0⟩, ⟨.cont, 0, 0⟩, ⟨.brk, 4, 0⟩]) (li 0 32 0) 32 ∧
    (ctl [⟨.ifc, 0, 0⟩, ⟨.cont, 0, 0⟩, ⟨.brk, 4, 0⟩]).stack = [⟨.ifc, 0, 0⟩, ⟨.cont, 0, 0⟩] ++ ⟨.brk, 4, 0⟩ :: [] ∧
    (∀ x ∈ [MaskEntry.mk .ifc 0 0, ⟨.cont, 0, 0⟩], x.kind ≠ .brk) ∧ (ctl []).cur &&& (ctl []).pass p1 ≠ 0 ∧
    (ctl []).cur &&& (ctl []).pass { p1 with guard := 2 } = 0 ∧ (∀ x ∈ (ctl []).stack, x.kind ≠ .cont) ∧
    (ctl [⟨.cont, 0, 0⟩, ⟨.brk, 5, 0⟩]).stack = ⟨.cont, 0, 0⟩ :: ⟨.brk, 5, 0⟩ :: [] ∧
    47 ≤ (ctl (List.replicate 47 ⟨.ifc, 0, 0⟩)).stack.length ∧
    ¬∃ c b rest, (ctl []).stack = c :: b :: rest ∧ c.kind = .cont ∧ b.kind = .brk := by
  refine ⟨by decide +kernel, ⟨oneWord 0, by decide +kernel, by decide +kernel⟩, rfl, by decide, by decide +kernel, by decide +kernel,
    by simp [ctl, team, Team.launch], rfl, by decide +kernel, ?_⟩
  rintro ⟨c, b, rest, h, -⟩
  cases h

/-- Lanes left; the last ones, outside and inside a reader section; SLEEP with and without an addend, at 0 and above. -/
theorem witness_TeamLife : (on (ctl [])).issuing = some (ctl []) ∧
    ¬(∀ l, l < 32 → l < 1024 → ((ctl []).exited ||| ((ctl []).cur &&& (ctl []).pass p1)).getLsbD l = true) ∧
    (∀ l, l < 32 → ({ team with exited := lanesBelow 32 &&& ~~~3 }.exited ||| (team.cur &&& team.pass hd)).getLsbD l = true) ∧
    (∃ k r, (k, r) ∈ { team with readers := [(1, ⟨1, 0⟩)] }.readers ∧ r.depth ≠ 0) ∧ ¬(∃ k r, (k, r) ∈ team.readers ∧ r.depth ≠ 0) ∧
    (ri 0 0 5 0).e.getLsbD 0 = false ∧ ((ri 0 5 5 1).e.getLsbD 0 = true ∧ ((ctl []).sreg 5).tag ∉ [10, 1, 2]) ∧ team.skidLeft = 0 ∧
    (max 0 (min ((ri 0 0 0 0).imm.toInt + addend team false 0) (2 ^ 32 - 1))).toNat = 0 ∧
    (max 0 (min ((ri 0 0 5 0).imm.toInt + addend team false 0) (2 ^ 32 - 1))).toNat ≠ 0 := by
  refine ⟨by decide +kernel, fun h => absurd (h 1 (by decide) (by decide)) (by decide +kernel), by decide +kernel, ⟨1, ⟨1, 0⟩, by simp, by decide⟩, ?_,
    by decide, by decide +kernel, by decide +kernel, by decide +kernel, by decide +kernel⟩
  rintro ⟨k, r, h, -⟩
  cases h

/-- A team of eight registers, which may grow by two eights; with all the space above it in use; with the space just above it
free; and with an older team of its core that grows. -/
def slim : Team := { team with vregs := 8 }
def walled : State := (on slim).modGang 1 fun g => { g with groups := g.groups.map fun x => { x with base := 1024, size := 890000 } }
def roomy : State := (on slim).modGang 1 fun g => { g with groups := g.groups.map fun x => { x with base := 500000, size := 4096 } }
def queuedGrowth : State := (on slim).setTeam { slim with index := 1, slot := 1, st := .growing 1 0 }

theorem witness_RegisterPlacement : (on slim).issuing = some slim ∧ (ri 0 0 1 0).e.getLsbD 0 = false ∧
    8 * (ri 0 0 1 0).imm.toNat ≤ (slim.vregs + 7) / 8 * 8 ∧ (slim.vregs + 7) / 8 * 8 < 8 * (ri 0 0 2 0).imm.toNat ∧
    256 < (team.vregs + 7) / 8 * 8 + 8 * (ri 0 0 1 0).imm.toNat ∧ ((on slim).gangOf slim).isSome = true ∧
    (((on slim).gangOf slim).map fun g => decide ((on slim).grownFootprint slim g.src.hdr 24 ≤
      (if g.isHandler then 32768 else allocSpace ((on slim).waysOf slim.cluster)))) = some true ∧
    ((on slim).growBase slim 2 = some 143360 ∧ slim.base = 0 ∧ (on slim).growingBefore slim (on slim).now = false) ∧
    (roomy.issuing = some slim ∧ roomy.growBase slim 2 = some slim.base ∧ roomy.growingBefore slim roomy.now = false) ∧
    (walled.issuing = some slim ∧ walled.growBase slim 2 = none ∧ (walled.gangOf slim).isSome = true) ∧
    queuedGrowth.issuing = some slim ∧ (queuedGrowth.growBase slim 2).isSome = true ∧ queuedGrowth.growingBefore slim 5 = true := by
  (repeat' with_reducible apply And.intro) <;> decide +kernel

theorem witness_SystemValues : (on team).issuing = some team ∧ ((on team).gangOf team).isSome = true ∧
    ((sys 9 0 0 0).imm.toNat = 0 ∧ (sys 9 0 10 1).imm.toNat = 10 ∧ (sys 9 0 10 1).e.getLsbD 0 = true ∧ (sys 9 0 16 0).imm.toNat = 16) := by
  refine ⟨?_, ?_, ?_⟩ <;> decide +kernel

end Sys2Proof.Tests
end

