-- ==== Sys2Proof/Tests/WitnessMemory.lean ====
section
/-! SUPPORT. Witnesses: for each statement a concrete state and operands that meet its hypotheses, clause by clause where its clauses
differ: memory. -/

namespace Sys2Proof.Tests

open Sys2Proof.Machine Sys2Proof.Demo Sys2Proof.Claim

set_option Elab.async false

/-! ## Memory (spec/09_page.md, spec/04_memory_spaces.md) -/

theorem place_of {r : Except LErr Place} {p : Place} (h : isPlace r p = true) : r = .ok p := by
  cases r with
  | ok q => simp only [isPlace, beq_iff_eq] at h; rw [h]
  | error e => cases h

/-- The group scratchpad window (R69). -/
def win : Word := 0x01FFFFFF01000000

/-- A team with s4 at offset 64 of its scratchpad and word offsets 0 and 1 in v20. -/
def loader : Team := (put rich 20 1 0 1).setS 4 (win + 64) 10

/-- The demo state with 64 valid bytes there. -/
def scratch (t : Team) : State := scratched (on t) 64 (padTo 64 [1, 2, 3])

/-- The places of lanes 0 and 1. -/
def wordPlace (l : Nat) : Place := .win (.scratch 1 0 (64 + 4 * l))

/-- LD of a word: v8 from s4 + v20 words. -/
def ldWord : Mem := mem 8 4 20 0 false false 1 0 0 0 false

/-- The same team with s4 at 0x500040 of the world's page, and the place of an address there. -/
def devLoader : Team := loader.setS 4 0x500040 10
def devPlace (pa : Nat) : Place :=
  .dev { leaf := { base := 0, size := 5, rd := true, wr := true, ex := true, pin := false, dirty := true, key := 0, grain := 0, ret := 0,
                   place := false, hdie := 0 }, entry := 0x200000, vbase := 0, cached := false, path := [(3, 0x200000)] } pa

/-- The same team under Trap mode, in a scratchpad nothing has written. -/
def trapper : Team := { loader with unwtrap := true }

theorem addressed_loader (act : Mask) (h : act = loader.active hd) : addressed loader act ldWord 20 := by
  subst h
  exact ⟨by decide +kernel, fun _ => ⟨names_of (by decide +kernel), tagged_of (by decide +kernel)⟩⟩

theorem loader_places (s : State) (h : s = scratch loader) (a : Access) (ha : a = .rd ∨ a = .wr) :
    ∀ l, loader.live (loader.active hd) l → placed s loader a 4 (some l) (laneVa loader ldWord 20 l) (wordPlace l) := by
  subst h
  have e : ∀ l ∈ lanesOf (loader.active hd) loader.lanes,
      isPlace ((scratch loader).resolve (loader.who ((scratch loader).ctxOf loader) (some l)) .rd 4 4 (laneVa loader ldWord 20 l)) (wordPlace l) = true ∧
      isPlace ((scratch loader).resolve (loader.who ((scratch loader).ctxOf loader) (some l)) .wr 4 4 (laneVa loader ldWord 20 l)) (wordPlace l) = true := by
    decide +kernel
  intro l hl
  have := e l (mem_lanesOf.2 hl)
  rcases ha with rfl | rfl
  · exact place_of this.1
  · exact place_of this.2

/-- Two lanes load two words of the scratchpad; LDS loads one. -/
theorem witness_WindowLoads : (scratch loader).issuing = some loader ∧ loader.flagRoom hd.fb = true ∧ loader.names false 8 1 false 8 ∧
    addressed loader (loader.active hd) ldWord 20 ∧ ldWord.prom = false ∧ ldWord.ord ≠ 1 ∧
    (∀ l, loader.live (loader.active hd) l → placed (scratch loader) loader .rd 4 (some l) (laneVa loader ldWord 20 l) (wordPlace l)) ∧
    (∀ l ∈ lanesOf (loader.active hd) loader.lanes, isWindow (wordPlace l) = true ∧
      (scratch loader).invalidWords (laneVa loader ldWord 20 l) 4 (wordPlace l) = []) ∧
    (loader.sreg 4).tag ∈ [10, 2, 12] ∧ placed (scratch loader) loader .rd 4 none (scalarVa loader ldWord) (wordPlace 0) ∧
    (scratch loader).invalidWords (scalarVa loader ldWord) 4 (wordPlace 0) = [] := by
  refine ⟨by decide +kernel, by decide +kernel, names_of (by decide +kernel), addressed_loader _ rfl, rfl, by decide +kernel,
    loader_places _ rfl .rd (.inl rfl), by decide +kernel, by decide +kernel, place_of (by decide +kernel), by decide +kernel⟩

/-- A promoted acquire may not name a window (first clause of the hypotheses); the places above meet the others. -/
theorem witness_LoadsOfAnyMemory : (world devLoader 0x500040 [1, 2, 3, 4]).issuing = some devLoader ∧ devLoader.flagRoom hd.fb = true ∧
    (∀ l ∈ lanesOf (devLoader.active hd) devLoader.lanes, inWindow (laneVa devLoader ldWord 20 l) = false ∧
      isPlace ((world devLoader 0x500040 [1, 2, 3, 4]).resolve (devLoader.who 0 (some l)) .rd 4 4 (laneVa devLoader ldWord 20 l))
        (devPlace (0x500040 + 4 * l)) = true ∧
      (world devLoader 0x500040 [1, 2, 3, 4]).invalidWords (laneVa devLoader ldWord 20 l) 4 (devPlace (0x500040 + 4 * l)) = []) ∧
    isPlace ((world devLoader 0x500040 [1, 2, 3, 4]).resolve (devLoader.who 0 none) .rd 4 4 (scalarVa devLoader ldWord)) (devPlace 0x500040) = true ∧
    (world devLoader 0x500040 [1, 2, 3, 4]).ctxOf devLoader = 0 := by
  (repeat' with_reducible apply And.intro) <;> decide +kernel

/-- Two lanes store to two words of the scratchpad, which stand; STS stores a scalar. -/
theorem witness_WindowStores : (scratch loader).issuing = some loader ∧ loader.flagRoom hd.fb = true ∧ loader.names false 20 1 false 20 ∧
    loader.tagged (loader.active hd) 20 1 [1, 12] ∧ addressed loader (loader.active hd) ldWord 20 ∧
    (∀ l, loader.live (loader.active hd) l → placed (scratch loader) loader .wr 4 (some l) (laneVa loader ldWord 20 l) (wordPlace l)) ∧
    (∀ l i, standing (scratch loader) ((Loc.scratch 1 0 (64 + 4 * l)).add i)) ∧ (loader.setS 5 1 1 |>.sreg 5).tag ∈ [1, 12] ∧
    placed (scratch loader) loader .wr 4 none (scalarVa loader ldWord) (wordPlace 0) := by
  refine ⟨by decide +kernel, by decide +kernel, names_of (by decide +kernel), tagged_of (by decide +kernel), addressed_loader _ rfl,
    loader_places _ rfl .wr (.inr rfl), ?_, by decide +kernel, place_of (by decide +kernel)⟩
  intro l i
  exact ⟨((scratch loader).gang 1).get (by decide +kernel), by simp, by decide +kernel⟩

theorem witness_StoresToAnyMemory : (world devLoader 0x500040 [1, 2, 3, 4]).issuing = some devLoader ∧ devLoader.flagRoom hd.fb = true ∧
    (∀ l ∈ lanesOf (devLoader.active hd) devLoader.lanes,
      isPlace ((world devLoader 0x500040 [1, 2, 3, 4]).resolve (devLoader.who 0 (some l)) .wr 4 4 (laneVa devLoader ldWord 20 l))
        (devPlace (0x500040 + 4 * l)) = true) ∧
    isPlace ((world devLoader 0x500040 [1, 2, 3, 4]).resolve (devLoader.who 0 none) .wr 4 4 (scalarVa devLoader ldWord)) (devPlace 0x500040) = true ∧
    (devLoader.setS 5 1 1 |>.sreg 5).tag ∈ [1, 12] := by
  (repeat' with_reducible apply And.intro) <;> decide +kernel

/-- A byte at its home and another in the L1. -/
def stored1 : State :=
  ((on team).homeWrite (some 0) 0x500040 [7]).l1Store 0 { slot := 0, grain := 32, home := 0x500040 / 512 % 288, hint := 1 } 0x500041 [9]

/-- A cluster of four ways whose L1 is empty, and one that holds the line of a home under the same slot. -/
theorem witness_CachesKeepBytes : keyed (on team) 0 ∧ (on team).waysOf 0 ≠ 0 ∧ regionOf 0x500040 = .local ∧ 0x500040 % 512 + [1#8, 2#8].length ≤ 512 ∧
    (on team).lineSlot 0x500040 = none ∧ (∀ l ∈ (on team).l1Lines 0, l.line = 0x500040 / 512 → l.slot = 0) ∧
    stored1.lineSlot 0x500040 = some 0 ∧ keyed stored1 0 ∧ stored1.l1Lines 0 ≠ [] ∧
    (∀ l ∈ stored1.l1Lines 0, l.line = 0x500040 / 512 → l.slot = 0) := by
  refine ⟨⟨by decide +kernel, by decide +kernel⟩, by decide +kernel, by decide +kernel, by decide +kernel, by decide +kernel, by decide +kernel,
    by decide +kernel, ⟨by decide +kernel, by decide +kernel⟩, by decide +kernel, by decide +kernel⟩

/-- A dirty line, its flush at system scope and a bypass prefetch; FENCE wide and narrow; PREF, CFLUSH and PROBE of a page; an
address with no leaf, one in the window region and one past the address space. -/
theorem witness_FencesPrefetchesFlushesProbes : (∃ l ∈ stored1.l1Lines 0, ∃ i < 512, l.dirty.getLsbD i = true) ∧ keyed stored1 0 ∧
    (world devLoader 0x500040 []).issuing = some devLoader ∧ devLoader.flagRoom hd.fb = true ∧
    (mem 0 0 0 0 false true 0 4 4 0 false).ord.toNat ∈ [1, 2, 3, 4] ∧ ¬4 ≤ (mem 0 0 0 0 false true 0 1 3 0 false).scope.toNat ∧
    addressed loader (loader.active hd) ldWord 20 ∧
    (∀ l ∈ lanesOf (devLoader.active hd) devLoader.lanes,
      isPlace ((world devLoader 0x500040 []).resolve (devLoader.who 0 (some l)) .rd 1 1 (laneVa devLoader ldWord 20 l)) (devPlace (0x500040 + 4 * l)) = true) ∧
    ((devLoader.sreg 4).tag ∈ [10, 2, 12] ∧ (world devLoader 0x500040 []).freeWays 0 ≠ 0) ∧
    ((world devLoader 0 []).findXlat 0 0 0x8000000000 false).toOption = none ∧
    ((world devLoader 0 []).findXlat 0 0 0x500040 false).toOption.isSome = true ∧
    (2 ^ 57 ≤ 2 ^ 57 + 8 ∧ (win.toNat < 2 ^ 57 ∧ 0x01FFFFFE00000000 ≤ win.toNat)) := by
  refine ⟨⟨(stored1.l1Lines 0).head (by decide +kernel), by decide +kernel, 65, by decide, by decide +kernel⟩, ⟨by decide +kernel, by decide +kernel⟩,
    by decide +kernel, by decide +kernel, by decide +kernel, by decide +kernel, addressed_loader _ rfl, by decide +kernel,
    by decide +kernel, by decide +kernel, by decide +kernel, by decide +kernel⟩

/-- The check of an address ends in an error, in a park. -/
def ends (r : Except LErr Place) (e : LErr) : Bool :=
  match r with
  | .ok _ => false
  | .error x => x == e

theorem ends_eq {r : Except LErr Place} {e : LErr} (h : ends r e = true) : r = .error e := by
  cases r with
  | ok q => cases h
  | error x => simp only [ends, beq_iff_eq] at h; rw [h]

/-- A page that lies in package 1, which no link reaches. -/
def podPages (t : Team) : State :=
  { world t 0 [] with mem := { (world t 0 []).mem with dev := [(0x100000, 1), (0x100002, 0x20), (0x200000, 0xF7), (0x200001, 4), (0x200005, 0x40), (0x200006, 0x40)] } }

/-- The machine as package 0 with link 0 up: the routes of reset reach every package over it. -/
def linked (s : State) : State := s.withLink fun y => { y with podid := 256, links := [(0, { st := .up, replay := 0, since := 0 })] }

/-- The place of an address of `podPages`. -/
def podPlace (va : Nat) : Place :=
  .dev { leaf := { base := 2 ^ 54 + 2 ^ 46, size := 5, rd := true, wr := true, ex := true, pin := false, dirty := true, key := 0, grain := 0, ret := 0,
                   place := false, hdie := 0 }, entry := 0x200000, vbase := 0, cached := false, path := [(3, 0x200000)] } (2 ^ 54 + 2 ^ 46 + va)

/-- A word atomic of the scratchpad's word, and one that promotes its acquire. -/
def wordAdd (prom : Bool) : Atm := atm 8 4 20 20 0 0 4 0 prom false

/-- A misaligned address (ALIGN), one whose page is not present (a park), one in a package no link reaches; an invalid word under
Trap mode, for a load and an atomic; a promoted one in the window region. -/
theorem witness_MemoryErrorsAndParks : (world devLoader 0x500040 []).issuing = some devLoader ∧ devLoader.flagRoom hd.fb = true ∧
    devLoader.names false 8 1 false 8 ∧ devLoader.live (devLoader.active hd) 0 ∧
    (world devLoader 0x500040 []).resolve (devLoader.who 0 (some 0)) .rd 4 4 0x500042 = .error (.err Code.align none) ∧
    (world devLoader 0x500040 []).resolve (devLoader.who 0 (some 0)) .rd 4 4 0x8000000000 = .error (.park 1 3) ∧
    (on trapper).issuing = some trapper ∧ trapper.unwtrap = true ∧
    (∀ l, trapper.live (trapper.active hd) l → placed (on trapper) trapper .rd 4 (some l) (laneVa trapper ldWord 20 l) (wordPlace l)) ∧
    (on trapper).invalidWords (laneVa trapper ldWord 20 0) 4 (wordPlace 0) ≠ [] ∧
    ((podPages devLoader).resolve (devLoader.who 0 (some 0)) .rd 4 4 0x500040 = .error .unreachable ∧
      (podPages devLoader).issuing = some devLoader) ∧
    (trapper.names false 20 1 false 20 ∧ trapper.tagged (trapper.active hd) 20 1 [1]) ∧
    (∀ l ∈ lanesOf (trapper.active hd) trapper.lanes,
      isPlace ((on trapper).atomPlace (trapper.who ((on trapper).ctxOf trapper) (some l)) 4 (laneVa trapper ldWord 20 l)) (wordPlace l) = true) ∧
    (wordAdd true).prom = true ∧ inWindow (laneVa loader ldWord 20 0) = true := by
  refine ⟨by decide +kernel, by decide +kernel, names_of (by decide +kernel), ⟨by decide +kernel, by decide +kernel⟩, ends_eq (by decide +kernel),
    ends_eq (by decide +kernel), by decide +kernel, by decide +kernel, ?_, by decide +kernel, ⟨ends_eq (by decide +kernel), by decide +kernel⟩,
    ⟨names_of (by decide +kernel), tagged_of (by decide +kernel)⟩, by decide +kernel, by decide +kernel, by decide +kernel⟩
  intro l hl
  have e : ∀ l ∈ lanesOf (trapper.active hd) trapper.lanes,
      isPlace ((on trapper).resolve (trapper.who ((on trapper).ctxOf trapper) (some l)) .rd 4 4 (laneVa trapper ldWord 20 l)) (wordPlace l) = true := by
    decide +kernel
  exact place_of (e l (mem_lanesOf.2 hl))

end Sys2Proof.Tests
end

