-- ==== Sys2Proof/Tests/WitnessSync.lean ====
section
/-! SUPPORT. Witnesses: for each statement a concrete state and operands that meet its hypotheses, clause by clause where its clauses
differ: synchronisation, barriers, accumulators and ranked lists. -/

namespace Sys2Proof.Tests

open Sys2Proof.Machine Sys2Proof.Demo Sys2Proof.Claim

set_option Elab.async false

/-! ## Synchronisation (spec/10_sync_word.md, spec/08_team.md, spec/11_barrier.md) -/

/-- A result is a value. -/
def isOk {ε α : Type} [BEq α] (r : Except ε α) (v : α) : Bool :=
  match r with
  | .ok x => x == v
  | .error _ => false

theorem ok_of {ε α : Type} [BEq α] [LawfulBEq α] {r : Except ε α} {v : α} (h : isOk r v = true) : r = .ok v := by
  cases r with
  | ok x => simp only [isOk, beq_iff_eq] at h; rw [h]
  | error e => cases h

/-- A result is a pair of this first part. -/
def isOkFst {ε α β : Type} [BEq α] (r : Except ε (α × β)) (v : α) : Bool :=
  match r with
  | .ok x => x.1 == v
  | .error _ => false

theorem ok_fst {ε α β : Type} [BEq α] [LawfulBEq α] {r : Except ε (α × β)} {v : α} (h : isOkFst r v = true) : ∃ x, r = .ok (v, x) := by
  cases r with
  | ok x => simp only [isOkFst, beq_iff_eq] at h; exact ⟨x.2, by rw [← h]⟩
  | error e => cases h

/-- The operation ADDT crossing its threshold, on the word 0x30201 of the scratchpad and under FP32. -/
theorem witness_AtomicNewValues : (8 ≤ 8 ∧ 1 ≤ 3 ∧ 5 < 2 ^ wordBits 1 ∧ 0x30203 < 2 ^ wordBits 1) ∧ (wordPlace 0).loc = some (.scratch 1 0 64) ∧
    inPod (wordPlace 0) = false ∧ wordVal 1 ((scratch loader).locNat none (.scratch 1 0 64) 4) < wordVal 1 0x30203 ∧
    wordVal 1 0x30203 ≤ wordVal 1 (atomicResult false 8 1 ((scratch loader).locNat none (.scratch 1 0 64) 4) 5 0x30203).1 := by
  (repeat' with_reducible apply And.intro) <;> decide +kernel

/-- An ATOM add of v20 to the words 0 and 1 of the scratchpad: release and acquire, and relaxed with no offset. -/
def adds : Atm := atm 8 4 20 20 0 3 1 0 false false

theorem witness_AtomicsOfTeams : (scratch loader).issuing = some loader ∧ loader.flagRoom hd.fb = true ∧ loader.names false 20 1 false 20 ∧
    loader.tagged (loader.active hd) 20 1 [1] ∧ (loader.sreg 4).tag ∈ [10, 2, 12] ∧ loader.tagged (loader.active hd) 20 1 [1, 2] ∧
    adds.prom = false ∧ loader.names false 8 1 false 8 ∧
    ∀ l, loader.live (loader.active hd) l →
      (scratch loader).atomPlace (loader.who ((scratch loader).ctxOf loader) (some l)) 4 (atomicVa loader adds 20 l) = .ok (wordPlace l) ∧
      (scratch loader).invalidWords (atomicVa loader adds 20 l) 4 (wordPlace l) = [] := by
  refine ⟨by decide +kernel, by decide +kernel, names_of (by decide +kernel), tagged_of (by decide +kernel), by decide +kernel,
    tagged_of (by decide +kernel), rfl, names_of (by decide +kernel), ?_⟩
  have e : ∀ l ∈ lanesOf (loader.active hd) loader.lanes,
      isOk ((scratch loader).atomPlace (loader.who ((scratch loader).ctxOf loader) (some l)) 4 (atomicVa loader adds 20 l)) (wordPlace l) = true ∧
      (scratch loader).invalidWords (atomicVa loader adds 20 l) 4 (wordPlace l) = [] := by decide +kernel
  exact live_all fun l hl => ⟨ok_of (e l hl).1, (e l hl).2⟩

/-- A team with a comparand in s8 and a time in s9, and the word 0x30201 at 0x500040 of its page. -/
def waiter (cmp time : Nat) : Team := (devLoader.setS 8 cmp 2).setS 9 time 2
def wordIn (t : Team) : State := world t 0x500040 [1, 2, 3, 0]

/-- WAITA while the word equals s8, acquiring; WAKE. -/
def wait : Atm := atm 6 4 0 8 1 1 1 0 false false

/-- Met, timed out at once, and waiting; a table of waiters that is full; WAKE of a count and of a negative one. -/
theorem witness_WaitsOnWords : (∀ x ∈ [waiter 5 0, waiter 0x30201 0, waiter 0x30201 7], (wordIn x).issuing = some x ∧ x.flagRoom hd.fb = true ∧
      (x.sreg 4).tag ∈ [10, 2, 12] ∧ (x.sreg 8).tag ∈ Tag.any ∧ (x.sreg 9).tag ∈ [10, 1, 2] ∧
      isOk ((wordIn x).syncPlace x .rd 4 0x500040) (devPlace 0x500040) = true ∧ isOk ((wordIn x).syncPlace x .wr 4 0x500040) (devPlace 0x500040) = true) ∧
    (baseOf (devLoader.sreg 4)).toNat = 0x500040 ∧ (devPlace 0x500040).loc = some (.dev 0x500040) ∧
    conditionMet 0 1 ((wordIn (waiter 5 0)).locNat (some 0) (.dev 0x500040) 4) 5 ∧
    ¬conditionMet 0 1 ((wordIn (waiter 5 0)).locNat (some 0) (.dev 0x500040) 4) 0x30201 ∧
    clipped ((waiter 5 0).sreg 9) = 0 ∧ clipped ((waiter 5 7).sreg 9) ≠ 0 ∧ (wordIn (waiter 5 7)).waiterFree (devPlace 0x500040).die = true ∧
    ((wordIn (waiter 5 7)).withMem fun m =>
      { m with waiters := List.replicate waiterRecords ⟨.dev 0, (devPlace 0x500040).die, 0⟩ }).waiterFree (devPlace 0x500040).die = false ∧
    scalarInt ((waiter 5 0).sreg 8).tag ((waiter 5 0).sreg 8).bits = 5 ∧
    scalarInt ((devLoader.setS 8 (-1) 10).sreg 8).tag ((devLoader.setS 8 (-1) 10).sreg 8).bits = -1 := by
  refine ⟨by decide +kernel, by decide +kernel, by decide +kernel, ?_, ?_, ?_, ?_, ?_, ?_, ?_, ?_⟩
  · unfold conditionMet; decide +kernel
  · unfold conditionMet; decide +kernel
  · decide +kernel
  · decide +kernel
  · decide +kernel
  · simp [State.waiterFree, State.withMem]
  · decide +kernel
  · decide +kernel

/-- XCL of v8 for v20 at the channel s4 names, its status in s9. -/
def shuttle : Rrr := rrr 8 20 4 9 0 0 false 0

/-- The channel's state word; a team that waits there for k registers; the two of them. -/
def chanIn (t : Team) (state : Nat) : State := world t 0x500040 [BitVec.ofNat 8 state]
def mate (k lanes gang : Nat) : Team :=
  { devLoader with index := 1, gang := gang, lanes := lanes, st := .waiting (.xcl (.dev 0x500040) 8 20 k 9 3) }
def meets (t : Team) (k lanes : Nat) : State := (chanIn t 1).setTeam (mate k lanes 1)

/-- A gang of another context, of which a team waits at the channel. -/
def other : Gang :=
  { handle := 2, src := { probeCand with ctx := 1 }, st := .resident, cluster := 0, core0 := 0, groups := [], off := false, image := none
    placed := 0, idle := 0, preempt := false, kill := false, carried := [] }
def meetsOther : State :=
  let s := chanIn devLoader 1
  { s with gangs := FMap.put s.gangs 2 other, teams := FMap.put s.teams 513 (mate 1 32 2) }

/-- A team whose v20 has never been written; one without a lane. -/
def bare : Team := { devLoader with file := team.file }
def noLane : Team := { devLoader with cur := 0 }

theorem witness_ShuttleExchange :
    (∀ x ∈ [(chanIn noLane 0, noLane), (chanIn devLoader 0, devLoader), (chanIn devLoader 2, devLoader), (chanIn devLoader 1, devLoader),
        (meets devLoader 1 32, devLoader), (meets devLoader 2 32, devLoader), (meetsOther, devLoader), (chanIn bare 0, bare), (meets bare 1 32, bare)],
      x.1.issuing = some x.2 ∧ x.2.flagRoom hd.fb = true ∧ (x.2.sreg 4).tag ∈ [10, 2, 12] ∧
      isOk (x.1.resolveLanes x.2 .rmw 64 64 [(none, 0x500040)]) [devPlace 0x500040] = true) ∧
    devLoader.names false 8 1 false 8 ∧ devLoader.names false 20 1 false 20 ∧ homedPlace (devPlace 0x500040) = true ∧
    noLane.active hd = 0 ∧ devLoader.active hd ≠ 0 ∧ devLoader.tagged (devLoader.active hd) 20 1 Tag.any ∧
    (chanIn devLoader 0).locNat (some 0) (.dev 0x500040) 1 % 4 = 0 ∧ 2 ≤ (chanIn devLoader 2).locNat (some 0) (.dev 0x500040) 1 % 4 ∧
    (chanIn devLoader 1).locNat (some 0) (.dev 0x500040) 1 % 4 = 1 ∧ (chanIn devLoader 1).xclWaiter (.dev 0x500040) = none ∧
    (meets devLoader 1 32).xclWaiter (.dev 0x500040) = some (mate 1 32 1) ∧ (mate 1 32 1).lanes = devLoader.lanes ∧
    (meets devLoader 1 32).ctxOf (mate 1 32 1) = (meets devLoader 1 32).ctxOf devLoader ∧ 2 ≠ 1 ∧
    meetsOther.xclWaiter (.dev 0x500040) = some (mate 1 32 2) ∧ meetsOther.ctxOf (mate 1 32 2) ≠ meetsOther.ctxOf devLoader ∧
    ∃ i w, i < 1 ∧ bare.wordLive (bare.active hd) w ∧ bare.vtag (20 + i) w = 0 := by
  refine ⟨by decide +kernel, names_of (by decide +kernel), names_of (by decide +kernel), by decide +kernel, by decide +kernel, by decide +kernel,
    tagged_of (by decide +kernel), by decide +kernel, by decide +kernel, by decide +kernel, by decide +kernel, by decide +kernel,
    by decide +kernel, by decide +kernel, by decide, by decide +kernel, by decide +kernel, 0, 0, by decide,
    ⟨by decide +kernel, by decide +kernel⟩, by decide +kernel⟩

/-! ## Barriers (spec/11_barrier.md) -/

/-- The object at offset 64 of the scratchpad; an object in phase 5 that expects two signallers; the state in which it stands. -/
def obj : Loc := .scratch 1 0 64
def bar0 : Bar :=
  { pend := 0, phase := 5, expect := 2, arrived := 0, next := 2, waiters := 0, state := 1, err := 0, errn := 0, last := 0, detail := 0
    lastDetail := 0, gen := 1 }
def barIn (t : Team) (b : Bar) : State := (on t).locWrite none obj (leBytes 32 (b.toNat 0))

/-- A registration as signaller, as waiter, last arrived in a phase; a team with a value in s8 and registrations. -/
def entry (sig wait : Bool) (last : Nat) : BarReg := { addr := win.toNat + 64, obj := obj, gen := 1, sig := sig, wait := wait, last := last }
def member (n : Int) (bars : List BarReg) : Team := { loader.setS 8 (BitVec.ofInt 64 n) 10 with bars := bars }

/-- An instruction of the family on the object of s4 and the value of s8, into s9. -/
def onBar (e : Nat) : Rrr := rrr 9 4 8 0 0 0 false e

/-- Its waiter, in phase 5. -/
def sleeper : Team := { member 0 [] with index := 1, st := .waiting (.bwait obj 5 12 none) }
def slept : State := ((barIn (member 0 []) bar0).setTeam sleeper).withMem fun m => { m with bwaits := [⟨obj, 257⟩] }

/-- Eight registrations: the table is full. -/
def full8 : List BarReg := (List.range 8).map fun i => { entry true true 0 with obj := .scratch 1 0 (128 + 32 * i), gen := 0 }

theorem names_obj {s : State} {t : Team} {a : BitVec 8} (h : (t.sreg a.toNat).tag ∈ [10, 2, 12] ∧
    isOk (s.barPlace t (baseOf (t.sreg a.toNat)).toNat) obj = true ∧
    s.invalidWords (baseOf (t.sreg a.toNat)).toNat 32 (.win obj) = []) : names s t a obj := ⟨h.1, ok_of h.2.1, h.2.2⟩

/-- The cycle ends with the object as it is, and with both its signallers arrived and three bytes too many. -/
def pastDue : Bar := { bar0 with arrived := 2, waiters := 1, pend := -3 }
def closing (b : Bar) : State := { slept.locWrite none obj (leBytes 32 (b.toNat 0)) with cyc.bars := [obj] }

theorem objectAt_slept (s : State) (g : Gang) (h : s.gang 1 = some g) (hg : 0 < g.groups.length) : objectAt s obj :=
  ⟨fun _ _ => ⟨g, h, hg⟩, (by decide : 64 % 4 = 0)⟩

theorem witness_BarrierPhases : objectAt slept obj ∧ barFits bar0 ∧ ¬phaseEnds bar0 ∧ barFits pastDue ∧ phaseEnds pastDue ∧
    (closing bar0).cyc.bars = [obj] ∧ (closing bar0).bar obj = bar0 ∧ (closing pastDue).cyc.bars = [obj] ∧ (closing pastDue).bar obj = pastDue ∧
    objectAt (closing pastDue) obj ∧ (closing pastDue).team 257 = some sleeper ∧
    sleeper.st = .waiting (.bwait obj pastDue.phase 12 none) ∧ { obj := obj, team := 257 } ∈ (closing pastDue).mem.bwaits := by
  refine ⟨objectAt_slept _ ((slept.gang 1).get (by decide +kernel)) (by simp) (by decide +kernel), ?_, ?_, ?_, ?_, by decide +kernel,
    by decide +kernel, by decide +kernel, by decide +kernel,
    objectAt_slept _ (((closing pastDue).gang 1).get (by decide +kernel)) (by simp) (by decide +kernel), ?_⟩
  · unfold barFits; decide
  · unfold phaseEnds; decide
  · unfold barFits; decide
  · unfold phaseEnds; decide
  · decide +kernel

/-- BINIT of 3 and of 0, on an object with waiters; a Closed object; BREG that leaves, changes, adds, finds the table full or the count
of the next phase full; BARR of a registration that may and may not arrive; BEXP of -7, without registration, past the range. -/
theorem witness_BarrierUpdates :
    (∀ x ∈ [(member 3 [], { bar0 with state := 0 }), (member 0 [], { bar0 with state := 0, waiters := 1 }), (member 3 [], { bar0 with state := 2 }),
        (member 1 [entry true true 4], bar0), (member 1 [entry true true 5], bar0), (member 1 [], { bar0 with next := 65535 }), (member 1 full8, bar0),
        (member (-7) [entry false true 5], bar0), (member (2 ^ 40) [entry false true 5], bar0)],
      (barIn x.1 x.2).issuing = some x.1 ∧ x.1.flagRoom hd.fb = true ∧ names (barIn x.1 x.2) x.1 (onBar 0).a obj ∧ intTagged (x.1.sreg 8) ∧
      (barIn x.1 x.2).bar obj = x.2) ∧
    scalarInt ((member 3 []).sreg 8).tag ((member 3 []).sreg 8).bits = 3 ∧ scalarInt ((member 0 []).sreg 8).tag ((member 0 []).sreg 8).bits < 1 ∧
    ((onBar 0).e.getLsbD 0 = false ∧ (onBar 0).e.getLsbD 1 = false) ∧ (onBar 3).e.getLsbD 0 = true ∧ (onBar 1).e.getLsbD 2 = false ∧
    (barIn (member 1 []) bar0).barTable (member 1 []) (entry true true 5) = some [entry true true 5] ∧
    (barIn (member 1 full8) bar0).barTable (member 1 full8) (entry true true 5) = none ∧
    ((entry true true 4).obj == obj && (entry true true 4).gen == bar0.gen) = true ∧ (entry true true 4).last ≠ bar0.phase ∧
    bar0.arrived ≠ bar0.expect ∧ (entry true true 5).last = bar0.phase ∧
    scalarInt ((member (-7) []).sreg 8).tag ((member (-7) []).sreg 8).bits = -7 ∧
    2 ^ 31 ≤ bar0.pend + scalarInt ((member (2 ^ 40) []).sreg 8).tag ((member (2 ^ 40) []).sreg 8).bits := by
  refine ⟨?_, ?_, ?_, ?_, ?_, ?_, ?_, ?_, ?_, ?_, ?_, ?_, ?_, ?_⟩
  · intro x hx
    have e : ∀ x ∈ [(member 3 [], { bar0 with state := 0 }), (member 0 [], { bar0 with state := 0, waiters := 1 }),
        (member 3 [], { bar0 with state := 2 }), (member 1 [entry true true 4], bar0), (member 1 [entry true true 5], bar0),
        (member 1 [], { bar0 with next := 65535 }), (member 1 full8, bar0), (member (-7) [entry false true 5], bar0),
        (member (2 ^ 40) [entry false true 5], bar0)],
      (barIn x.1 x.2).issuing = some x.1 ∧ x.1.flagRoom hd.fb = true ∧ ((x.1.sreg (onBar 0).a.toNat).tag ∈ [10, 2, 12] ∧
        isOk ((barIn x.1 x.2).barPlace x.1 (baseOf (x.1.sreg (onBar 0).a.toNat)).toNat) obj = true ∧
        (barIn x.1 x.2).invalidWords (baseOf (x.1.sreg (onBar 0).a.toNat)).toNat 32 (.win obj) = []) ∧
      (x.1.sreg 8).tag ∈ [10, 1, 2] ∧ (barIn x.1 x.2).bar obj = x.2 := by decide +kernel
    obtain ⟨a, b, c, d, f⟩ := e x hx
    exact ⟨a, b, names_obj c, d, f⟩
  all_goals decide +kernel

/-- BWAIT of a phase that is over and of the current one, by a waiter, by no waiter; a waiter with its status. -/
theorem witness_BarrierWaits : (∀ x ∈ [member 4 [entry true true 4], member 5 [entry true true 4], member 4 [entry true false 4]],
      (barIn x bar0).issuing = some x ∧ x.flagRoom hd.fb = true ∧ (x.sreg 8).tag ∈ [10, 1, 2] ∧ (barIn x bar0).bar obj = bar0) ∧
    names (barIn (member 4 [entry true true 4]) bar0) (member 4 [entry true true 4]) (onBar 0).a obj ∧ phaseOver bar0 4 ∧ ¬phaseOver bar0 5 ∧
    (scalarInt ((member 4 []).sreg 8).tag ((member 4 []).sreg 8).bits % 2 ^ 32).toNat = 4 ∧ (entry true true 4).wait = true ∧
    (∀ e ∈ [entry true false 4], e.wait = false) ∧
    (slept.setTeam { sleeper with st := .waiting (.bwait obj 5 12 (some 1)) }).team 257 =
      some { sleeper with st := .waiting (.bwait obj 5 12 (some 1)) } ∧
    objectAt slept obj ∧ slept.locValid (obj.add 12) = true ∧ { obj := obj, team := 257 } ∈ slept.mem.bwaits := by
  refine ⟨by decide +kernel, names_obj (by decide +kernel), ?_, ?_, ?_, ?_, ?_, ?_,
    objectAt_slept _ ((slept.gang 1).get (by decide +kernel)) (by simp) (by decide +kernel), ?_⟩
  · unfold phaseOver; decide
  · unfold phaseOver; decide
  all_goals decide +kernel

/-! ## Accumulators and ranked lists (spec/12_tile.md, spec/13_ranked_list.md) -/

/-- Accumulator 1 of A64 with 1.0 and 2.0 in lane 0, accumulator 2 with lists of capacity 4, of one entry in lane 0; scalars s8 and s9. -/
def heaped (a b : Nat) : Team :=
  { (rich.setS 8 (BitVec.ofNat 64 a) 10).setS 9 (BitVec.ofNat 64 b) 2 with
    acc := { elems := [(32768, 0x3FF0000000000000), (32769, 0x4000000000000000), (65536, 0x73F800000)], tags := [(32, .a64), (64, .rank)]
             void := [], rank := [(2048, ⟨1, 4, false⟩), (2049, ⟨0, 4, false⟩)] } }

/-- An instruction on accumulator d with scalars from s8 and s9 and a register or accumulator in its modifier field. -/
def onAcc (d e : Nat) : Mx := mx d 8 9 0 (e * 64)

/-- The selection of two columns from column 0 as FP32, BF16 or FP64. -/
def twoColumns (fmt : Nat) : Nat := 2 * 2 ^ 8 + fmt * 2 ^ 16

theorem wordLive_of {t : Team} {act : Mask} {p : Nat → Prop} (h : ∀ w ∈ wordsOf act t.lanes, p w) : ∀ w, t.wordLive act w → p w :=
  fun w hw => h w (mem_wordsOf.2 hw)

theorem accIn_of {t : Team} {act : Mask} {c : Nat} {set : List (Option AccTag)}
    (h : ((wordsOf act t.lanes).all fun w => set.contains (t.accTag c w)) = true) : accIn t act c set := by
  intro w hw
  simp only [List.all_eq_true, List.contains_iff_mem] at h
  exact h w (mem_wordsOf.2 hw)

/-- Reads, writes and moves of accumulators; a selection word that names no column; MMASK within its limits and past them. -/
theorem witness_Accumulators : (∀ x ∈ [heaped (twoColumns 0) 3, heaped 0 3, heaped (2 ^ 32) 3],
      (on x).issuing = some x ∧ x.flagRoom hd.fb = true ∧ (on x).accPending x 1 = false ∧ (on x).accPending x 3 = false ∧ (x.sreg 8).tag ∈ [2, 10] ∧
      intTagged (x.sreg 8) ∧ intTagged (x.sreg 9)) ∧
    1 < (heaped 0 3).accs ∧ selects ((heaped (twoColumns 0) 3).sreg 8) 16 0 2 0 ∧ selects ((heaped (twoColumns 1) 3).sreg 8) 16 0 2 1 ∧
    selects ((heaped (twoColumns 2) 3).sreg 8) 16 0 2 2 ∧ 16 + columnRegs 2 2 ≤ (heaped 0 3).vregs ∧
    accIn (heaped 0 3) ((heaped 0 3).active hd) 1 [some .a64] ∧ accIn (heaped 0 3) ((heaped 0 3).active hd) 3 [none, some .a64] ∧
    (heaped 0 3).tagged ((heaped 0 3).active hd) 28 2 [3] ∧ (¬∃ j0 m fmt, selects ((heaped 0 3).sreg 8) 16 j0 m fmt) ∧
    (0 ≤ scalarInt ((heaped 0 3).sreg 8).tag ((heaped 0 3).sreg 8).bits ∧ scalarInt ((heaped 0 3).sreg 9).tag ((heaped 0 3).sreg 9).bits = 3) ∧
    2 ^ 32 ≤ scalarInt ((heaped (2 ^ 32) 3).sreg 8).tag ((heaped (2 ^ 32) 3).sreg 8).bits ∧
    (((on team).core 0).level / 16 < 2 ^ 14 ∧ ((on team).core 0).rate < 2 ^ 8 ∧ ((on team).core 0).stalls < 2 ^ 32) ∧
    ({ heaped 0 3 with vregs := 8 }.vregs ≤ 8 ∧ 16 < (heaped 0 3).vregs) ∧
    (∀ x ∈ [(heaped (twoColumns 0) 3)], x.tagged (x.active hd) 28 2 [3] ∧ ¬x.tagged (x.active hd) 16 2 [3]) ∧
    selects ((heaped (twoColumns 2) 3).sreg 8) 254 0 2 2 ∧ (heaped 0 3).vregs < 254 + columnRegs 2 2 := by
  refine ⟨?_, by decide +kernel, ?_, ?_, ?_, by decide +kernel, accIn_of (by decide +kernel), accIn_of (by decide +kernel), tagged_of (by decide +kernel),
    ?_, by decide +kernel, by decide +kernel, by decide +kernel, by decide +kernel, ?_, ?_, by decide +kernel⟩
  · unfold intTagged; decide +kernel
  · unfold selects; decide +kernel
  · unfold selects; decide +kernel
  · unfold selects; decide +kernel
  · rintro ⟨j0, m, fmt, h, hm, -⟩
    have e : scalarInt ((heaped 0 3).sreg 8).tag ((heaped 0 3).sreg 8).bits = 0 := by decide +kernel
    omega
  · intro x hx
    obtain rfl := List.mem_singleton.1 hx
    refine ⟨tagged_of (by decide +kernel), fun h => ?_⟩
    exact absurd (h 0 (by decide) 0 ⟨by decide +kernel, by decide +kernel⟩) (by decide +kernel)
  · unfold selects; decide +kernel

theorem witness_RankedLists : (∀ p ∈ [(0x3F800000, 5), (0x80000000, 1), (0x7FC00000, 2), (0x40000000, 5)], p.1 < 2 ^ 32) ∧
    (∀ p : Nat × Nat, p ∈ [(0x3F800000, 5), (0x40000000, 5)] ↔ p ∈ [(0x40000000, 5), (0x3F800000, 5), (0x40000000, 5)]) := by
  refine ⟨by decide, fun p => ?_⟩
  simp only [List.mem_cons, List.not_mem_nil, or_false]
  constructor <;> intro h <;> rcases h with h | h <;> simp_all

/-- The same team with an FP32 value register v30 and an index register v31. -/
def ranker (a : Nat) : Team := { heaped a 0 with file.tags := [(960, 3), (992, 1)], file.bits := [(30720, 0x40000000), (31744, 9)] }

/-- RKINS of v30 and v31, RKFOLD of accumulator 1 from base 3, and past the last base, RKFLOOR. -/
theorem witness_RankInstructions : (on (ranker 3)).issuing = some (ranker 3) ∧ (ranker 3).flagRoom hd.fb = true ∧ 2 < (ranker 3).accs ∧
    (on (ranker 3)).accPending (ranker 3) 2 = false ∧ accIn (ranker 3) ((ranker 3).active hd) 2 [some .rank] ∧
    (ranker 3).names false 30 2 false 30 ∧ (ranker 3).tagged ((ranker 3).active hd) 30 1 [3] ∧
    (ranker 3).tagged ((ranker 3).active hd) 31 1 [1, 2] ∧ (on (ranker 3)).accPending (ranker 3) 1 = false ∧
    accIn (ranker 3) ((ranker 3).active hd) 1 [some .a64] ∧ ((ranker 3).sreg 8).tag ∈ [2, 10] ∧
    scalarInt ((ranker 3).sreg 8).tag ((ranker 3).sreg 8).bits = 3 ∧ (on (ranker (2 ^ 32 - 31))).issuing = some (ranker (2 ^ 32 - 31)) ∧
    2 ^ 32 - 32 < scalarInt ((ranker (2 ^ 32 - 31)).sreg 8).tag ((ranker (2 ^ 32 - 31)).sreg 8).bits := by
  refine ⟨by decide +kernel, by decide +kernel, by decide +kernel, by decide +kernel, accIn_of (by decide +kernel), names_of (by decide +kernel),
    tagged_of (by decide +kernel), tagged_of (by decide +kernel), by decide +kernel, accIn_of (by decide +kernel), by decide +kernel, by decide +kernel,
    by decide +kernel, by decide +kernel⟩

/-- The same team with rows at 0x500000 of the world's page, 64 bytes apart; rows there that end at the bytes given. -/
def rower : Team := ((ranker 0).setS 8 0x500000 10).setS 9 64 10
def rowsIn (lane0 lane1 : List Nat) : State :=
  world rower 0x500000 (padTo 64 (lane0.flatMap (leBytes 8)) ++ lane1.flatMap (leBytes 8))

/-- The pieces of the two lanes' rows from piece i, n0 and n1 of them. -/
def piecesFrom (i n0 n1 : Nat) : List (Nat × Place) :=
  ((piecesOf 0x500000 i n0) ++ piecesOf 0x500040 i n1).map fun va => (va, devPlace va)

/-- The place of an address once its translation is cached, and the state once the headers are read. -/
def usedPlace (pa : Nat) : Place :=
  match devPlace pa with
  | .dev x pa => .dev { x with cached := true, path := [] } pa
  | p => p
def entriesFrom (i n0 n1 : Nat) : List (Nat × Place) := (piecesFrom i n0 n1).map fun x => (x.1, usedPlace x.1)
def readHeads (s : State) : State :=
  ((s.usePlaces rower .rd ((piecesFrom 0 1 1).map (·.2))).readPlaces rower 8
    ((piecesFrom 0 1 1).map fun x => ({ slice := false, taint := false, ret := 0 }, x.2))).2

/-- Rows of two entries and of none; a bad header. -/
def goodRows : State := rowsIn [2 + 4 * 2 ^ 16, 0x40000000 + 9 * 2 ^ 32, 0x3F000000] [4 * 2 ^ 16 + 2 ^ 33]
def badRows : State := rowsIn [5 + 4 * 2 ^ 16] [4 * 2 ^ 16]

theorem rowsPlaced_of {s : State} {t : Team} {a : Access} {ls : List Nat} {vas : Nat → List Nat} {ps : List (Nat × Place)}
    (h : (ps.map (·.1) == ls.flatMap vas && (ls.all fun l => (vas l).all fun va => ps.any fun x => x.1 == va &&
      isPlace (s.resolve (t.who (s.ctxOf t) (some l)) a 8 8 va) x.2 && (match x.2 with | .own _ _ => false | _ => true)) &&
      ps.all fun x => ps.all fun y => x.1 != y.1 || x.2 == y.2) = true)
    (hw : ∀ l ∈ ls, inWindow ((vas l).headD 0) = false ∧ (vas l).headD 0 + 8 * (vas l).length ≤ 0x01FFFFFE00000000) :
    rowsPlaced s t a ls vas ps := by
  simp only [Bool.and_eq_true, beq_iff_eq, List.all_eq_true, List.any_eq_true, Bool.or_eq_true, bne_iff_ne] at h
  obtain ⟨⟨h1, h2⟩, h3⟩ := h
  refine ⟨h1, fun l hl _ => ?_, fun l hl va hv => ?_, fun x hx y hy e => ((h3 x hx y hy).resolve_left (fun n => n e))⟩
  · simp only [rowInside, (hw l hl).1, Bool.false_eq_true, if_false]
    exact (hw l hl).2
  obtain ⟨x, hx, ⟨hxv, hp⟩, ho⟩ := h2 l hl va hv
  refine ⟨x.2, place_of hp, ?_, ?_⟩
  · rw [← hxv]; exact hx
  · intro k y e
    rw [e] at ho
    cases ho

/-- A team whose rows start at an address. -/
def rowAt (a : Int) : Team := rower.setS 8 (BitVec.ofInt 64 a) 10

/-- Rows that stand, with good headers and a bad one; one that crosses into the window region, and a misaligned one. -/
theorem witness_RankRowsInMemory : (∀ s ∈ [goodRows, badRows], s.issuing = some rower ∧ s.accPending rower 2 = false) ∧ rower.flagRoom hd.fb = true ∧
    2 < rower.accs ∧ accIn rower (rower.active hd) 2 [some .rank] ∧ (rower.sreg 8).tag ∈ [10, 2, 12] ∧ intTagged (rower.sreg 9) ∧
    rowsPlaced goodRows rower .wr [0, 1] (fun l => piecesOf (rowVa rower 8 l) 0 (rowOf (rower.rankList 2 l)).length) (piecesFrom 0 2 1) ∧
    rowsPlaced goodRows rower .rd [0, 1] (fun l => piecesOf (rowVa rower 8 l) 0 1) (piecesFrom 0 1 1) ∧
    (∀ x ∈ piecesFrom 0 1 1, goodRows.invalidWords x.1 8 x.2 = []) ∧ goodHeader (2 + 4 * 2 ^ 16) ∧ goodHeader (4 * 2 ^ 16 + 2 ^ 33) ∧
    rowsPlaced (readHeads goodRows) rower .rd [0, 1] (fun l => piecesOf (rowVa rower 8 l) 1 (if l = 0 then 2 else 0)) (entriesFrom 1 2 0) ∧
    rowsPlaced badRows rower .rd [0, 1] (fun l => piecesOf (rowVa rower 8 l) 0 1) (piecesFrom 0 1 1) ∧ ¬goodHeader (5 + 4 * 2 ^ 16) ∧
    lanesOf (rower.active hd) rower.lanes = [0, 1] ∧
    (∀ a ∈ [0x01FFFFFDFFFFFFFC, 0x500004], (on (rowAt a)).issuing = some (rowAt a) ∧ (on (rowAt a)).accPending (rowAt a) 2 = false) ∧
    ¬rowInside (on (rowAt 0x01FFFFFDFFFFFFFC)) (rowAt 0x01FFFFFDFFFFFFFC) 0 (piecesOf (rowVa (rowAt 0x01FFFFFDFFFFFFFC) 8 0) 0 1) ∧
    rowInside (on (rowAt 0x500004)) (rowAt 0x500004) 0 (piecesOf (rowVa (rowAt 0x500004) 8 0) 0 1) ∧ rowVa (rowAt 0x500004) 8 0 % 8 ≠ 0 := by
  refine ⟨by decide +kernel, by decide +kernel, by decide +kernel, accIn_of (by decide +kernel), by decide +kernel, ?_, rowsPlaced_of (by decide +kernel) (by decide +kernel),
    rowsPlaced_of (by decide +kernel) (by decide +kernel), by decide +kernel, ?_, ?_, rowsPlaced_of (by decide +kernel) (by decide +kernel), rowsPlaced_of (by decide +kernel) (by decide +kernel), ?_,
    by decide +kernel, by decide +kernel, ?_, ?_, by decide +kernel⟩
  · unfold intTagged; decide +kernel
  · unfold goodHeader; decide
  · unfold goodHeader; decide
  · unfold goodHeader; decide
  · rw [rowInside, if_neg (by decide +kernel)]; decide +kernel
  · rw [rowInside, if_neg (by decide +kernel)]; decide +kernel

end Sys2Proof.Tests
end

