-- ==== Sys2Proof/Tests/WitnessQueues.lean ====
section
/-! SUPPORT. Witnesses: for each statement a concrete state and operands that meet its hypotheses, clause by clause where its clauses
differ: matrix products, queues and engines. -/

namespace Sys2Proof.Tests

open Sys2Proof.Machine Sys2Proof.Demo Sys2Proof.Claim

set_option Elab.async false

/-! ## Matrix products (spec/12_tile.md) -/

/-- A team with A rows of 128 bytes from 0x500000, A scales at 0x520000, a B tile at 0x510000, a scale of 1.0, the object of the scratchpad
in s12, a column base of 3, a bound of 1.0, and v28 and list 2 for rank-skip. -/
def tiler : Team :=
  [(4, 0x500000, 10), (5, 128, 10), (6, 0x520000, 10), (8, 0x510000, 10), (9, 0x3F800000, 3), (12, win.toNat + 64, 10), (13, 3, 2),
   (14, 0x3F800000, 3), (15, 28 + 2 * 2 ^ 8, 2)].foldl (fun (t : Team) r => t.setS r.1 (BitVec.ofNat 64 r.2.1) r.2.2) (heaped 0 0)

/-- The world with its rows, columns and scales, and the object. -/
def tiles (t : Team) (b : Bar) : State :=
  let s := (world t 0x500000 [1, 2, 3]).locWrite none obj (leBytes 32 (b.toNat 0))
  { s with mem.dev := load (load s.mem.dev 0x510000 [4, 5, 6]) 0x520000 [0, 0, 0x80, 0x3F, 0, 0, 0, 0x40] }

/-- MMA into accumulator d with a form, `.first`, `.pricked` and rank-skip. -/
def mma (d form : Nat) (first pricked skip : Bool) : Mx :=
  mx d 4 8 12 (form * 2 ^ 11 + (if first then 2 ^ 10 else 0) + (if pricked then 2 ^ 9 else 0) + (if skip then 2 ^ 8 else 0))

/-- An accumulator that is Empty without `.first`, an object whose count is at its limit; no active lane; and the operands' places. -/
theorem witness_MatrixIssue : (∀ x ∈ [(tiles tiler bar0, tiler), (tiles { tiler with cur := 0 } bar0, { tiler with cur := 0 }),
      (tiles tiler { bar0 with pend := 2 ^ 31 - 1 }, tiler)],
      x.1.issuing = some x.2 ∧ x.2.flagRoom hd.fb = true ∧ x.1.accPending x.2 1 = false ∧ x.1.accPending x.2 2 = false) ∧
    1 < tiler.accs ∧ (tiler.sreg 4).tag ∈ [10, 2, 12] ∧ intTagged (tiler.sreg 5) ∧ (tiler.sreg 6).tag ∈ [10, 2, 12] ∧
    (tiler.sreg 8).tag ∈ [10, 2, 12] ∧ (tiler.sreg 9).tag = 3 ∧ (tiler.sreg 13).tag ∈ [2, 10] ∧
    scalarInt (tiler.sreg 13).tag (tiler.sreg 13).bits = 3 ∧ (tiler.sreg 14).tag = 3 ∧ (tiler.sreg 15).tag = 2 ∧ 28 < tiler.vregs ∧ 2 < tiler.accs ∧
    tiler.tagged (tiler.active hd) 28 1 [3] ∧ accIn tiler (tiler.active hd) 2 [some .rank] ∧ { tiler with cur := 0 }.active hd = 0 ∧
    wordsOf (tiler.active hd) tiler.lanes ≠ [] ∧ names (tiles tiler bar0) tiler (mma 1 0 false true true).c obj ∧
    accIn tiler (tiler.active hd) 1 [some .a64] ∧ ¬accIn tiler (tiler.active hd) 3 [some .a64] ∧ bar0.pend + 1 < 2 ^ 31 ∧
    (tiles tiler bar0).resolve (tiler.who 0 none) .rd 128 128 0x500000 = .ok (devPlace 0x500000) ∧
    (tiles tiler bar0).resolve (tiler.who 0 none) .rd 128 128 0x500001 = .error (.err Code.align none) ∧
    (tiles tiler bar0).resolve (tiler.who 0 none) .rd 128 128 0x8000000000 = .error (.park 1 3) ∧
    (tiles tiler bar0).resolve (tiler.who 0 none) .rd 128 128 win.toNat = .ok (.win (.scratch 1 0 0)) := by
  refine ⟨by decide +kernel, by decide +kernel, by decide +kernel, ?_, by decide +kernel, by decide +kernel, by decide +kernel, by decide +kernel,
    by decide +kernel, by decide +kernel, by decide +kernel, by decide +kernel, by decide +kernel, tagged_of (by decide +kernel),
    accIn_of (by decide +kernel), by decide +kernel, by decide +kernel, names_obj (by decide +kernel), accIn_of (by decide +kernel), ?_,
    by decide +kernel, place_of (by decide +kernel), ends_eq (by decide +kernel), ends_eq (by decide +kernel), place_of (by decide +kernel)⟩
  · unfold intTagged; decide +kernel
  · intro h
    exact absurd (h 0 ⟨by decide +kernel, by decide +kernel⟩) (by decide +kernel)

/-- The state in which an MMA of the tiler has entered its word-op, with what the matrix unit makes of it. -/
def issued (i : Instr) : State :=
  match exec i (tiles tiler bar0) with
  | .next s => s
  | _ => tiles tiler bar0
def queued (i : Instr) (f : WordOp → WordOp) : State := (issued i).modCore 0 fun c => { c with queue := c.queue.map f }
def opOf (s : State) : Option WordOp := (s.core 0).queue.head?
def begin (w : WordOp) : WordOp := { w with started := true }

/-- A skipped word-op; one whose rows are all void; one with a faulty operand; one that runs. -/
def skipOp (w : WordOp) : WordOp := { w with skip := true }
def voidOp (w : WordOp) : WordOp := { w with rows := 0 }
def badOp (w : WordOp) : WordOp := { w with a := w.a.map fun x => (x.1, { x.2 with fault := some (0, 3, 2) }) }

/-- The word-op of a queue, and its team. -/
def noOp : WordOp :=
  { id := 0, mma := 0, team := 0, pipe := 0, word := 0, acc := 0, form := 0, first := false, prick := none, skip := false, rows := 0, a := []
    scales := [], b := [], bscale := 0, bar := obj, barVa := 0, pc := 0, warned := false, entered := 0, started := false }
def theOp (s : State) : WordOp := (opOf s).getD noOp
def opTeam (s : State) : Team := (s.team 256).getD team

/-- An E4M3 product into accumulator 1, pricked, which does not start from zero. -/
def product : Instr := .mma hd (mma 1 0 false true false)

/-- Skipped; without a row; with a faulty operand; not begun; begun: its eleven operands are all there. -/
theorem witness_WordOps :
    (∀ f ∈ [skipOp, voidOp, badOp, id, begin], ((queued product f).core 0).queue.find? (·.id == 3) = some (theOp (queued product f)) ∧
      (queued product f).team (theOp (queued product f)).team = some (opTeam (queued product f)) ∧
      (∀ x ∈ ((queued product f).core 0).queue, 3 ≤ x.id) ∧
      (∀ l ∈ List.range 1024, (theOp (queued product f)).rows.getLsbD l = true → l / 32 = (theOp (queued product f)).word)) ∧
    (theOp (queued product skipOp)).skip = true ∧ rowsOf (theOp (queued product voidOp)) (opTeam (queued product voidOp)) = [] ∧
    (∀ f ∈ [badOp, id, begin], (theOp (queued product f)).skip = false ∧ rowsOf (theOp (queued product f)) (opTeam (queued product f)) = [0, 1]) ∧
    ((operandsOf (theOp (queued product badOp)) (opTeam (queued product badOp))).head?.map fun x =>
      operandFault (theOp (queued product badOp)) (opTeam (queued product badOp)) x.2) = some (some (0, 3, 2)) ∧
    (∀ x ∈ operandsOf (theOp (queued product begin)) (opTeam (queued product begin)),
      operandFault (theOp (queued product begin)) (opTeam (queued product begin)) x.2 = none ∧ (x.1 ≠ 1 → x.2.bytes.length = 128)) ∧
    (theOp (queued product begin)).started = true ∧ (theOp (queued product id)).started = false ∧ (theOp (queued product begin)).b.length = 32 ∧
    (opTeam (queued product begin)).accTag 1 0 ≠ none ∧ (∀ l ∈ [0, 1], (FMap.look (theOp (queued product begin)).a l).isSome = true) := by
  (repeat' with_reducible apply And.intro) <;> decide +kernel

/-- A second word-op of the same key; a pass in progress whose next is the first. -/
def two : State := (queued product id).modCore 0 fun c => { c with queue := c.queue ++ c.queue.map fun x => { x with id := 4, acc := 2 } }
def passing : State := (queued product id).modCore 0 fun c => { c with pass := [3] }

/-- A budget that covers the cost, one that does not; a pass that a second word-op joins, and one in progress; the time of an operand. -/
theorem witness_MatrixUnit : (((queued product id).core 0).queue.map (·.id)).Nodup ∧ (∃ x ∈ ((queued product begin).core 0).queue, x.started = true) ∧
    (∀ x ∈ ((queued product id).core 0).queue, x.started = false ∧ x = theOp (queued product id)) ∧
    16 * (queued product id).opCost (theOp (queued product id)) ≤ ((queued product id).core 0).level ∧
    (((queued product id).modCore 0 fun c => { c with level := 8 }).core 0).level < 16 * (queued product id).opCost (theOp (queued product id)) ∧
    (queued product id).waited ((theOp (queued product id)).islands (opTeam (queued product id))) (theOp (queued product id)).entered < 65536 ∧
    65536 ≤ ({ queued product id with now := 100000 }).waited ((theOp (queued product id)).islands (opTeam (queued product id)))
      (theOp (queued product id)).entered := by
  (repeat' with_reducible apply And.intro) <;> decide +kernel

theorem witness_passes : (two.passOf (two.core 0) (theOp two) = [4] ∧ ((two.core 0).queue.map (·.id)).Nodup ∧
      ∀ x ∈ (two.core 0).queue, x.id ∉ (two.core 0).pass) ∧
    ((passing.core 0).pass = (theOp passing).id :: [] ∧ theOp passing ∈ (passing.core 0).queue ∧
      ∀ x ∈ (passing.core 0).queue, x.started = false) := by
  (repeat' with_reducible apply And.intro) <;> decide +kernel
/-! ## Queues and engines (spec/15_queue.md) -/

/-- The 512 bits of a block, and a block of a kind: 16 records of 2^rsize bytes at 0x508000, of which 3 are reserved, 2 visible, none claimed. -/
def blockBits (q : Qcb) : Nat :=
  q.kind + q.rsize * 2 ^ 4 + q.rcap * 2 ^ 8 + q.engine * 2 ^ 16 + q.timer * 2 ^ 32 + q.base * 2 ^ 64 + q.resv * 2 ^ 128 + q.tail * 2 ^ 192 +
    q.claim * 2 ^ 256 + q.head * 2 ^ 320 + q.done * 2 ^ 384 + q.retry * 2 ^ 448 + (if q.flreq then 2 ^ 456 else 0) + (if q.broken then 2 ^ 457 else 0)
def block (kind rsize : Nat) : Qcb :=
  { kind := kind, rsize := rsize, rcap := 4, engine := 0, timer := 0, base := 0x508000, resv := 3, tail := 2, claim := 0, head := 0, done := 0
    retry := 0, flreq := false, broken := false }

/-- A team with a block at 0x500000 named by s4, a record in its scratchpad named by s5, and counts in s6 and s7. -/
def producer (i n : Int) : Team :=
  (((loader.setS 4 0x500000 10).setS 5 (win + 64) 10).setS 6 (BitVec.ofInt 64 i) 10).setS 7 (BitVec.ofInt 64 n) 10
def queueIn (t : Team) (v : Nat) : State := scratched (world t 0x500000 (leBytes 64 v)) 64 (padTo 256 [1, 2, 3])
def queued1 (t : Team) (q : Qcb) (x : QAux) : State := (queueIn t (blockBits q)).withEng fun e => { e with qaux := [x] }
def aux : QAux := { block := .dev 0x500000, since := none, commit := [2], done := [0], bound := none, owners := [] }

/-- An instruction on the block of s4, the record of s5 and the count in s6, with the result in s9, acquiring and releasing at device scope. -/
def onQueue (b : Nat) : Ec := ec 9 4 b 6 true true 5 0

theorem blockAt_of {s : State} {t : Team} {a : Access} {r : BitVec 8} {p : Place} {b : Loc} (h : (t.sreg r.toNat).tag ∈ [10, 2, 12] ∧
    isOk (s.resolveLanes t a 64 64 [(none, (baseOf (t.sreg r.toNat)).toNat)]) [p] = true ∧ p.loc = some b ∧ homedPlace p = true) : blockAt s t a r p b :=
  ⟨h.1, ok_of h.2.1, h.2.2.1, h.2.2.2⟩

theorem countIs_of {t : Team} {r : BitVec 8} {m : Int} (h : (t.sreg r.toNat).tag ∈ [10, 1, 2] ∧ m = scalarInt (t.sreg r.toNat).tag (t.sreg r.toNat).bits) :
    countIs t r m := h

/-- A block in which index 2 is committed behind TAIL and index 0 done at HEAD; a malformed one; one of a chain. -/
theorem witness_QueueBlocks : goodBlock (blockBits { block 2 4 with claim := 1 }) ∧ ¬goodBlock (blockBits { block 2 4 with rcap := 0 }) ∧
    goodBlock (blockBits (block 3 6)) ∧ runTo [2] 2 3 3 ∧ runTo [0] 0 1 1 ∧
    (queued1 team { block 2 4 with claim := 1 } aux).locNat (some 0) (.dev 0x500000) 64 = blockBits { block 2 4 with claim := 1 } ∧
    (on team).cyc.blocks.Nodup ∧ ((on team).noteBlock (some 0) (.dev 0x500000)).cyc.blocks = [(some 0, .dev 0x500000)] := by
  refine ⟨?_, ?_, ?_, ?_, ?_, ?_, ?_⟩
  · unfold goodBlock; decide +kernel
  · unfold goodBlock; decide +kernel
  · unfold goodBlock; decide +kernel
  · refine ⟨by decide, by decide, fun k h1 h2 => ?_, .inl rfl⟩
    have : k = 2 := by omega
    simp [this]
  · refine ⟨by decide, by decide, fun k h1 h2 => ?_, .inl rfl⟩
    have : k = 0 := by omega
    simp [this]
  · decide +kernel
  · decide +kernel

/-- The state in which an append finds its block. -/
def metBlock (s : State) (t : Team) : State := ((s.usePlaces t .rmw [devPlace 0x500000]).meetHome t.cluster (devPlace 0x500000)).touchHome (devPlace 0x500000)

/-- QAPP of two records, LAUNCH at a queue of kind 0, and XCHAIN at a chain; a full block, a malformed one; counts outside the limits;
a source in no window, past the end of its window, and misaligned in it. -/
theorem witness_QueueAppends :
    (∀ q ∈ [block 2 4, block 0 6, block 3 6, { block 2 4 with resv := 15 }, { block 2 4 with rcap := 0 }],
      (queued1 (producer 2 0) q aux).issuing = some (producer 2 0) ∧ (producer 2 0).flagRoom hd.fb = true ∧
      ((producer 2 0).sreg 5).tag ∈ [10, 2, 12] ∧
      isOk ((queued1 (producer 2 0) q aux).resolveLanes (producer 2 0) .rmw 64 64 [(none, 0x500000)]) [devPlace 0x500000] = true ∧
      isOk ((queued1 (producer 2 0) q aux).resolveLanes (producer 2 0) .rd (2 * 2 ^ q.rsize) 16 [(none, win.toNat + 64)])
        [.win (.scratch 1 0 64)] = true) ∧
    inWindow (win.toNat + 64) = true ∧ homedPlace (devPlace 0x500000) = true ∧ countIs (producer 2 0) 6 2 ∧ countIs (producer 0 0) 6 0 ∧
    countIs (producer 257 0) 6 257 ∧ (queueIn team (blockBits (block 2 4))).qcb (some 0) (.dev 0x500000) = some (block 2 4) ∧
    (queueIn team (blockBits { block 2 4 with resv := 15 })).qcb (some 0) (.dev 0x500000) = some { block 2 4 with resv := 15 } ∧
    (queueIn team (blockBits { block 2 4 with rcap := 0 })).qcb (some 0) (.dev 0x500000) = none ∧
    (block 2 4).resv + 2 ≤ (block 2 4).head + 2 ^ (block 2 4).rcap ∧ (block 2 4).head + 2 ^ (block 2 4).rcap < 15 + 2 ∧ (block 3 6).kind ∉ [1, 2] ∧
    (metBlock (queued1 (producer 2 0) (block 2 4) aux) (producer 2 0)).qcb (some 0) (.dev 0x500000) = some (block 2 4) ∧
    (inWindow 0x501000 = false ∧ 0x501000 < 2 ^ 57) ∧
    (metBlock (queued1 (producer 2 0) (block 2 4) aux) (producer 2 0)).window ((producer 2 0).who 0 none) (win.toNat + 0xFFFFF0) 32 = none ∧
    (metBlock (queued1 (producer 2 0) (block 2 4) aux) (producer 2 0)).window ((producer 2 0).who 0 none) (win.toNat + 65) 32 ≠ none ∧
    (win.toNat + 65) % 16 ≠ 0 := by
  refine ⟨?_, ?_, ?_, countIs_of ?_, countIs_of ?_, countIs_of ?_, ?_⟩
  all_goals (repeat' with_reducible apply And.intro) <;> decide +kernel

/-- Claims of records, of none, at another kind, at a bound block; QDONE of a claimed index, of one done already; QFLUSH, QSTAT; a
block whose page is not present. -/
theorem witness_QueueClaims :
    (∀ x ∈ [(block 2 4, aux), (block 1 4, aux), (block 1 4, { aux with bound := some 3 }), ({ block 2 4 with claim := 2 }, aux),
        ({ block 2 4 with rcap := 0 }, aux)],
      (queued1 (producer 1 1) x.1 x.2).issuing = some (producer 1 1) ∧ (producer 1 1).flagRoom hd.fb = true ∧
      isOk ((queued1 (producer 1 1) x.1 x.2).resolveLanes (producer 1 1) .rmw 64 64 [(none, 0x500000)]) [devPlace 0x500000] = true ∧
      isOk ((queued1 (producer 1 1) x.1 x.2).resolveLanes (producer 1 1) .rd 64 64 [(none, 0x500000)]) [devPlace 0x500000] = true ∧
      (queued1 (producer 1 1) x.1 x.2).qcb (some 0) (.dev 0x500000) = (if x.1.rcap = 0 then none else some x.1)) ∧
    countIs (producer 1 1) 6 1 ∧ countIs (producer 1 1) 7 1 ∧ countIs (producer 0 0) 6 0 ∧ min 1 ((block 2 4).tail - (block 2 4).claim) ≠ 0 ∧
    min 1 ({ block 2 4 with claim := 2 : Qcb }.tail - 2) = 0 ∧ (∀ j ∈ aux.done, j < 1) ∧ ¬(∀ j ∈ aux.done, (j : Int) < 0 ∨ 0 + 1 ≤ (j : Int)) ∧
    (on ((producer 1 1).setS 4 0x8000000000 10)).issuing = some ((producer 1 1).setS 4 0x8000000000 10) ∧
    ∀ x, (on ((producer 1 1).setS 4 0x8000000000 10)).resolve (((producer 1 1).setS 4 0x8000000000 10).who 0 none) .rd 64 64 0x8000000000 = .ok x →
      homedPlace x = false := by
  have e : (on ((producer 1 1).setS 4 0x8000000000 10)).resolve (((producer 1 1).setS 4 0x8000000000 10).who 0 none) .rd 64 64 0x8000000000 =
    .error (.park 1 3) := ends_eq (by decide +kernel)
  refine ⟨?_, countIs_of ?_, countIs_of ?_, countIs_of ?_, ?_, ?_, ?_, ?_, ?_, fun x hx => by rw [e] at hx; cases hx⟩ <;> decide +kernel

/-- A reserved record on its way to an address; the machine in which it is, at a cycle. -/
def rowTo (faulted : Bool) (va : Nat) : Row :=
  { id := 7, agent := 5, ctx := 0, block := .dev 0x500000, key := some 0, index := 2, va := va, bytes := [1, 2, 3, 4], back := none, faulted := faulted, nextTry := 10 }
def rowing (faulted : Bool) (va now : Nat) : State :=
  { (queued1 team (block 2 4) { aux with commit := [] }).withEng fun e => { e with rows := [rowTo faulted va] } with now := now }

/-- A record that lands, one that has faulted before and after its time, a page that is not present, a misplaced slot (a window; system
memory), an address outside the address space, a package no link reaches. -/
theorem witness_QueueRows : (∀ f ∈ [true, false], ∀ va ∈ [0x508020, 0x8000000000], ∀ n ∈ [0, 20],
      (rowing f va n).eng.rows.find? (·.id == 7) = some (rowTo f va)) ∧ (rowTo true 0).nextTry ≤ (rowing true 0 20).now ∧
    (rowing true 0 0).now < (rowTo true 0).nextTry ∧
    (rowing false 0x508020 0).resolve { agent := 5, ctx := 0, team := none, lane := none, die := 0 } .wr 4 1 0x508020 = .ok (devPlace 0x508020) ∧
    homedPlace (devPlace 0x508020) = true ∧ homedPlace (devPlace (2 ^ 55)) = false ∧
    (rowing false 0 0).resolve { agent := 5, ctx := 0, team := none, lane := none, die := 0 } .wr 4 1 0x8000000000 = .error (.park 1 3) ∧
    (rowing false 0 0).resolve { agent := 5, ctx := 0, team := none, lane := none, die := 0 } .wr 4 1 win.toNat = .error (.err Code.access none) ∧
    (rowing false 0 0).resolve { agent := 5, ctx := 0, team := none, lane := none, die := 0 } .wr 4 1 (2 ^ 57) =
      .error (.err Code.access (some (8, (Config.walkLevel 0).toNat))) ∧
    (podPages team).resolve { agent := 5, ctx := 0, team := none, lane := none, die := 0 } .wr 4 1 0x508020 = .error .unreachable := by
  refine ⟨?_, ?_, ?_, place_of ?_, ?_, ?_, ends_eq ?_, ends_eq ?_, rfl, ends_eq ?_⟩ <;> decide +kernel

/-- A team whose scalars s4 to s10 name a destination, a source, a size or a shape, an index list, a completion word, its addend and no barrier. -/
def mover (size second : Int) : Team :=
  ((((producer size second).setS 5 0x501000 10).setS 8 0x502000 10).setS 9 1 2).setS 10 0 10

/-- An engine instruction on them. -/
def onEngine (e : Nat) : Ec := ec 11 4 5 6 false false 5 e

/-- A copy of the cluster's Bobbin, of an engine; sixteen of them. -/
def copyItem (size : Nat) (begun : Bool) (landed : Nat) (status : Option Nat) : EngItem :=
  { id := 9, engine := 0, ctx := 0, team := none, src := .direct 1, op := 0, acq := false, rel := false, scope := 5, size := size, rowBytes := 0
    rows := 0, dst := 0x503000, source := 0x501000, aux := 0, cword := 0x502000, cvalue := 1, bar := 0, barLoc := none, dests := []
    begun := begun, landed := landed, bytes := 0, owed := 0, status := status, unwr := false, since := 0 }
def sixteen (s : State) : State := s.withEng fun e => { e with items := (List.range 16).map fun i => { copyItem 4 false 0 none with id := 20 + i } }

/-- Sizes, rows and counts inside the limits and outside; an engine with room, and one that is full. -/
theorem witness_EngineInstructions :
    (∀ x ∈ [mover 64 2, mover 0 0, mover (3 * 2 ^ 32 + 8) 0x501000], (world x 0 []).issuing = some x ∧ x.flagRoom hd.fb = true ∧
      (∀ r ∈ [4, 5, 8, 10], (x.sreg r).tag ∈ [10, 2, 12]) ∧ (x.sreg 6).tag ∈ [10, 1, 2] ∧ (x.sreg 7).tag ∈ [10, 1, 2] ∧ (x.sreg 9).tag ∈ Tag.any) ∧
    scalarInt ((mover 64 2).sreg 6).tag ((mover 64 2).sreg 6).bits = 64 ∧ scalarInt ((mover 0 0).sreg 6).tag ((mover 0 0).sreg 6).bits < 1 ∧
    scalarInt ((mover 64 2).sreg 7).tag ((mover 64 2).sreg 7).bits = 2 ∧
    (scalarInt ((mover (3 * 2 ^ 32 + 8) 0).sreg 6).tag ((mover (3 * 2 ^ 32 + 8) 0).sreg 6).bits).toNat / 2 ^ 32 = 3 ∧
    (scalarInt ((mover (3 * 2 ^ 32 + 8) 0).sreg 6).tag ((mover (3 * 2 ^ 32 + 8) 0).sreg 6).bits).toNat % 2 ^ 32 = 8 ∧
    (directOf (world (mover 64 2) 0 []) 0).length < 16 ∧ 16 ≤ (directOf (sixteen (world (mover 64 2) 0 [])) 0).length := by
  (repeat' with_reducible apply And.intro) <;> decide +kernel

/-- The machine whose one item is this, with bytes at its source. -/
def engineIn (x : EngItem) : State := (world team 0x501000 [1, 2, 3, 4, 5]).withEng fun e => { e with items := [x] }

/-- A gather of two rows; a multicast to two pages; a migration of the one page. -/
def gatherItem : EngItem := { copyItem 0 false 0 none with op := 1, rowBytes := 8, rows := 2, aux := 0x501001 }
def multiItem (begun : Bool) (dests : List Nat) : EngItem := { copyItem 64 begun 0 none with op := 2, dst := 0x501000, aux := 2, dests := dests }
def pageItem (begun : Bool) (dests : List Nat) : EngItem :=
  { copyItem (2 ^ 30) begun 0 none with op := 3, engine := 72, source := 0, aux := 0x501000, dests := dests }
def loadOk (x : EngItem) (va n : Nat) : Bool := ((engineIn x).engLoad x.engine ((engineIn x).itemWho x.engine 0 none) va n).toOption.isSome

/-- The page a migration finds. -/
def thePage : Xlat :=
  { leaf := { base := 0, size := 5, rd := true, wr := true, ex := true, pin := false, dirty := true, key := 0, grain := 0, ret := 0,
              place := false, hdie := 0 }, entry := 0x200000, vbase := 0, cached := false, path := [(3, 0x200000)] }

/-- An item not begun: a copy with and without a good operation, a barrier and a destination; a gather, a multicast and a migration with
their lists read; a target that is good, and one that is not. -/
theorem witness_ItemStarts :
    (∀ x ∈ [copyItem 600 false 0 none, { copyItem 600 false 0 none with bar := 0x600000 }, { copyItem 600 false 0 none with bar := win.toNat + 64 },
        { copyItem 600 false 0 none with op := 3 }, { copyItem 600 false 0 none with op := 4, dst := 0x503001 }, gatherItem, multiItem false [],
        pageItem false []], (engineIn x).eng.items.find? (·.id == 9) = some x ∧ x.begun = false) ∧
    (∀ x ∈ [copyItem 600 false 0 none, gatherItem, multiItem false [], pageItem false []], accepts x) ∧
    ¬accepts { copyItem 600 false 0 none with op := 3 } ∧ inWindow 0x600000 = false ∧ inWindow (win.toNat + 64) = true ∧
    (engineIn gatherItem).resolve ((engineIn gatherItem).itemWho 0 0 none) .rmw 32 32 (win.toNat + 64) = .error (.err Code.access none) ∧
    loadOk gatherItem 0x501001 8 = true ∧ loadOk (multiItem false []) 0x501000 16 = true ∧ loadOk (pageItem false []) 0x501000 8 = true ∧
    ((engineIn (pageItem false [])).itemPages (pageItem false []) ((engineIn (pageItem false [])).itemWho 72 0 none)).toOption = some [(0, thePage)] ∧
    thePage.leaf.pin = false ∧ mayMove (engineIn (pageItem false [])) thePage 0 ∧ ¬mayMove (engineIn (pageItem false [])) thePage 0x504030201 := by
  refine ⟨by decide +kernel, ?_, ?_, by decide +kernel, by decide +kernel, ends_eq (by decide +kernel), by decide +kernel, by decide +kernel,
    by decide +kernel, by decide +kernel, by decide +kernel, ?_, ?_⟩
  · unfold accepts; decide +kernel
  · unfold accepts; decide +kernel
  · unfold mayMove; decide +kernel
  · unfold mayMove; decide +kernel

/-- The same machine with its page in another package: no link reaches it, and one does. -/
def podItem (x : EngItem) : State := (podPages team).withEng fun e => { e with items := [x] }

/-- A copy, a multicast and a migration on the move, in time and late; their pieces; a place they may reach, and a pod page; one of a
package that no link reaches. -/
theorem witness_PiecesLand :
    (∀ x ∈ [copyItem 600 true 0 none, copyItem 600 true 2 none, multiItem true [0x503000, 0x504000], pageItem true [0]],
      (engineIn x).eng.items.find? (·.id == 9) = some x) ∧
    (∀ x ∈ [copyItem 600 true 0 none, multiItem true [0x503000, 0x504000], pageItem true [0]], x.begun = true ∧ x.status = none ∧ x.landed < x.count) ∧
    ¬(copyItem 600 true 2 none).landed < (copyItem 600 true 2 none).count ∧
    (engineIn (copyItem 600 true 0 none)).waited ((engineIn (copyItem 600 true 0 none)).itemIslands (copyItem 600 true 0 none)) 0 < 65536 ∧
    65536 ≤ ({ engineIn (copyItem 600 true 0 none) with now := 65536 }).waited
      (({ engineIn (copyItem 600 true 0 none) with now := 65536 }).itemIslands (copyItem 600 true 0 none)) 0 ∧
    (copyItem 600 true 0 none).pieces[0]? = some (0x503000, 0, 512) ∧ (multiItem true [0x503000, 0x504000]).pieces[0]? = some (0x503000, 0, 64) ∧
    (∃ bs u s1, (engineIn (copyItem 600 true 0 none)).pieceBytes (copyItem 600 true 0 none)
        ((engineIn (copyItem 600 true 0 none)).itemWho 0 0 none) 0 512 = .ok (bs, u, s1) ∧
      s1.resolve (s1.itemWho 0 0 none) .wr bs.length 1 0x503000 = .ok (usedPlace 0x503000)) ∧ mayReach 0 (usedPlace 0x503000) ∧
    ¬mayReach 0 (.own 0 0) ∧ inPod (devPlace 0) = false ∧
    (podItem (copyItem 600 true 0 none)).resolve ((engineIn (copyItem 600 true 0 none)).itemWho 0 0 none) .wr 512 1 0x503000 = .error .unreachable ∧
    (linked (podItem (copyItem 600 true 0 none))).resolve ((engineIn (copyItem 600 true 0 none)).itemWho 0 0 none) .wr 512 1 0x503000 =
      .ok (podPlace 0x503000) ∧ inPod (podPlace 0x503000) = true ∧ regionOf (2 ^ 54 + 2 ^ 46 + 0x503000) = .pod 1 := by
  refine ⟨by decide +kernel, by decide +kernel, by decide +kernel, by decide +kernel, by decide +kernel, by decide +kernel, by decide +kernel, ?_,
    .inl (by decide +kernel), id, by decide +kernel, ends_eq (by decide +kernel), place_of (by decide +kernel), by decide +kernel, by decide +kernel⟩
  refine ⟨_, _, _, rfl, place_of ?_⟩
  decide +kernel

/-- An item whose pieces have landed, one with a status, one behind another; a completion word that is written, and two that are not. -/
theorem witness_ItemsEnd :
    (∀ x ∈ [copyItem 600 true 2 none, copyItem 600 true 0 (some 8)], (engineIn x).eng.items.find? (·.id == 9) = some x ∧ x.begun = true ∧
      (x.status ≠ none ∨ x.landed = x.count) ∧ ∀ y ∈ (engineIn x).eng.items, y.precedes x = false) ∧
    (copyItem 4 true 0 none).precedes { copyItem 600 true 2 none with src := .direct 2 } = true ∧
    (∃ u, (engineIn (copyItem 600 true 2 none)).completionWrite 0 ((engineIn (copyItem 600 true 2 none)).itemWho 0 0 none) 0x502000 1 = .ok u) ∧
    (engineIn (copyItem 600 true 2 none)).resolve ((engineIn (copyItem 600 true 2 none)).itemWho 0 0 none) .wr 4 4 0x502000 =
      .ok (devPlace 0x502000) ∧ mayReach 0 (devPlace 0x502000) ∧ (devPlace 0x502000).loc = some (.dev 0x502000) ∧
    (engineIn (copyItem 600 true 2 none)).resolve ((engineIn (copyItem 600 true 2 none)).itemWho 0 0 none) .wr 4 4 0x8000000000 =
      .error (.park 1 3) := by
  refine ⟨by decide +kernel, by decide +kernel, ⟨_, rfl⟩, place_of (by decide +kernel), .inl (by decide +kernel), by decide +kernel,
    ends_eq (by decide +kernel)⟩

/-- A team with a group descriptor at 0x504000 named by s4; the descriptor of group 7 of packages 0 and 1; the machine with it. -/
def caller (n : Int) : Team := (mover 0x503000 n).setS 4 0x504000 10
def groupBits : Nat := 7 + 2 * 2 ^ 32 + 5 * 2 ^ 64 + 2 ^ 520
def grouped (t : Team) : State := (world t 0x501000 [1, 2, 3, 4, 5, 6, 7, 8]).homeWrite (some 0) 0x504000 (leBytes 320 groupBits)

/-- An all-reduce of two words of which one contribution is here, both are; a contribution. -/
def part (ordinal : Nat) (data : List Byte) : Flit :=
  { die := 0, pkg := ordinal, group := 7, seq := 0, ordinal := ordinal, digest := [9], op := 0, ty := 0, red := 0, count := 2, data := data }
def reduceItem (status : Option Nat) (flits : List Flit) : CollItem :=
  { id := 9, die := 0, ctx := 0, team := none, src := .direct 1, op := 0, ty := 0, red := 0, count := 2, acq := false, rel := false, scope := 5
    dst := 0x503000, source := 0x501000, descVa := 0x504000, cword := 0x502000, cvalue := 1, bar := 0, group := 7, turn := 0
    members := [0, 1], self := 0, digest := [9], barLoc := none, began := 0, limit := some 40, flits := flits, status := status }
def one : List Flit := [part 0 (leBytes 8 0xFFFFFFFF00000001)]
def both : List Flit := one ++ [part 1 (leBytes 8 0x500000003)]
def collIn (i : CollItem) : State := (grouped team).withEng fun e => { e with colls := [i], turns := [(0, 7, 1)] }

/-- A chain at 0x500000 whose engine is a Bobbin. -/
def chained (q : Qcb) : State := queued1 team q { aux with commit := [], done := [] }

/-- XCOLL inside its limits and outside, with room and none; an item that waits, is whole, has a status, runs out of time; contributions to
it and to a later turn; a chain with a visible entry, another kind, none left, a malformed block and a page not present; a free context. -/
theorem witness_Collectives :
    (∀ x ∈ [caller 2, caller (-1), caller 0], (grouped x).issuing = some x ∧ x.flagRoom hd.fb = true ∧
      (∀ r ∈ [4, 5, 6, 8, 10], (x.sreg r).tag ∈ [10, 2, 12]) ∧ (x.sreg 7).tag ∈ [10, 1, 2] ∧ (x.sreg 9).tag ∈ Tag.any) ∧
    (scalarInt ((caller 2).sreg 7).tag ((caller 2).sreg 7).bits = 2 ∧ scalarInt ((caller (-1)).sreg 7).tag ((caller (-1)).sreg 7).bits = -1) ∧
    (∀ x ∈ [reduceItem none one, reduceItem none both, reduceItem (some 3) both], (collIn x).eng.colls.find? (·.id == 9) = some x ∧
      ∀ y ∈ (collIn x).eng.colls, y.precedes x = false) ∧
    (∀ k, k < 2 → ∃ g ∈ both, g.ordinal = k ∧ g.data.length = 8) ∧ (¬∀ k, k < 2 → ∃ g ∈ one, g.ordinal = k) ∧
    ((reduceItem none one).limit = some 40 ∧ (collIn (reduceItem none one)).waited [61, 63] 0 < 40 ∧
      40 ≤ ({ collIn (reduceItem none one) with now := 50 }).waited [61, 63] 0) ∧
    ((part 1 []).ordinal < 2 ∧ (part 2 []).pkg = 2 ∧ ¬(part 2 []).ordinal < 2) ∧ (part 1 []).digest ≠ { part 1 [] with digest := [8] }.digest ∧
    ((collIn (reduceItem none both)).collStore { agent := 1000076, ctx := 0, team := none, lane := none, die := 0 } 0x503000
      (reduceItem none both).result).toOption.isSome = true ∧
    ((collIn (reduceItem none both)).collStore { agent := 1000076, ctx := 0, team := none, lane := none, die := 0 } 0x8000000000
      (reduceItem none both).result).toOption = none ∧
    ((reduceItem none one).bar = 0 ∧ (reduceItem none one).descVa % 64 = 0 ∧ { reduceItem none one with descVa := 0x504004 }.descVa % 64 ≠ 0) ∧
    (∀ g ∈ one, g.ordinal ≠ (part 1 []).ordinal) ∧ (collIn (reduceItem none one)).turnsOf 0 7 = 1 ∧
    ((grouped team).ctx 0).st ≠ .free ∧ ((grouped team).ctx 3).st = .free ∧
    (∀ q ∈ [block 3 6, block 2 4, { block 3 6 with claim := 2 }], (chained q).meetBlock { agent := 1000000 + 79, ctx := 0, team := none, lane := none, die := 0 }
      0x500000 = .ok (.dev 0x500000) (some 0) q (devPlace 0x500000)) ∧
    (chained { block 3 6 with rcap := 0 }).meetBlock { agent := 1000000 + 79, ctx := 0, team := none, lane := none, die := 0 } 0x500000 = .malformed ∧
    (chained (block 3 6)).meetBlock { agent := 1000000 + 79, ctx := 0, team := none, lane := none, die := 0 } 0x8000000000 =
      .unreachable { va := 0x8000000000, kind := 1, access := 0, level := 3, lanes := 1 } ∧ chainOf (chained (block 3 6)) 0 < 8 := by
  (repeat' with_reducible apply And.intro) <;> decide +kernel

end Sys2Proof.Tests
end

