-- ==== Sys2Proof/Tests/WitnessLaunch.lean ====
section
/-! SUPPORT. Witnesses: for each statement a concrete state and operands that meet its hypotheses, clause by clause where its clauses
differ: launches and pipes. -/

namespace Sys2Proof.Tests

open Sys2Proof.Machine Sys2Proof.Demo Sys2Proof.Claim

set_option Elab.async false

/-! ## Launches (spec/06_kernel_image.md, spec/16_kernel_launch.md) -/

/-- The copy on die 0 of a node that the package has once, which acts while service stands as at reset. -/
def agentAt (k ctx : Nat) : Who := { agent := 1000000 + k, ctx := ctx, team := none, lane := none, die := 0 }
theorem node_at {s : State} (h : s.svc = State.reset.svc) (k ctx : Nat) : nodeOf s k ctx = agentAt k ctx := by
  simp [nodeOf, State.stalled, h, State.reset, agentAt]

/-- A kernel header of one group of one team of 32 lanes; a launch record of a mode, with the header at 0x520000 and a record queue. -/
def kernelBits (lanes teams groups : Nat) : Nat :=
  0x100 + 64 * 2 ^ 16 + 64 * 2 ^ 32 + lanes * 2 ^ 64 + teams * 2 ^ 80 + groups * 2 ^ 88 + 16 * 2 ^ 96 + 4096 * 2 ^ 128
def recordBits (mode count kernel rqueue node : Nat) : Nat :=
  mode + count * 2 ^ 32 + kernel * 2 ^ 64 + rqueue * 2 ^ 192 + 0x502000 * 2 ^ 256 + 2 ^ 320 + node * 2 ^ 352

/-- The partition whose launch queue is at 0x500000, on clusters 0 and 1. -/
def part0 : Part := { num := 0, ctx := 0, lq := 0x500000, prio := 0, clusters := [0, 1] }

/-- The machine with that partition, a launch queue, a record in its first slot, a kernel header, and a record queue at 0x510000. -/
def launching (lq : Qcb) (rec kernel : Nat) (rq : Qcb) (rx : QAux) : State :=
  let s := queued1 team lq { aux with commit := [], done := [] }
  let s := { s with mem.dev := load (load (load s.mem.dev 0x508000 (leBytes 64 rec)) 0x510000
    (leBytes 64 (blockBits rq))) 0x520000 (leBytes 64 kernel) }
  { s with sched.parts := [part0], eng.qaux := s.eng.qaux ++ [rx] }

/-- A queue of kind 0 with a visible record, and the record queue of a stage. -/
def lq0 : Qcb := block 0 6
def rq0 (kind rsize : Nat) : Qcb := { block kind rsize with base := 0x518000 }
def rx0 : QAux := { aux with block := .dev 0x510000, commit := [], done := [] }
def counted1 : Nat := recordBits 0 5 0x520000 0 0
def kernel1 : Nat := kernelBits 32 1 1
def launch1 : State := launching lq0 counted1 kernel1 (rq0 1 6) rx0

/-- A header that passes and one that does not; a record of each mode, bad, without a stage, too big, with a queue of another record size;
a queue with a visible record, with none, of another kind, malformed, and whose slot's page is not present. -/
theorem witness_LaunchAcceptance : goodKernel kernel1 ∧ ¬goodKernel (kernel1 + 2 ^ 320) ∧ badRecord (counted1 + 7) ∧ ¬badRecord counted1 ∧
    ¬badRecord (recordBits 3 0 0 0x510000 0) ∧ ¬badRecord (recordBits 1 5 0x520000 0x510000 0) ∧ ¬badRecord (recordBits 2 5 0x520000 0x510000 3) ∧
    launch1.newId.2.stageOf 0 0x510000 = none ∧ (launching lq0 counted1 0 (rq0 1 6) rx0).newId.2.readHeader 0 0x520000 = none ∧
    ((launch1.newId.2.readHeader 0 0x520000).map fun x => (decide (x.1.footprint ≤ x.2.spaceOf 0 0), x.1)) = some (true, headerOf kernel1) ∧
    (((launching lq0 counted1 (kernelBits 1024 16 8) (rq0 1 6) rx0).newId.2.readHeader 0 0x520000).map fun x =>
      decide (x.2.spaceOf 0 0 < x.1.footprint)) = some true ∧
    launch1.sched.parts.find? (·.num == 0) = some part0 ∧ (launch1.ctx 0).st = .running ∧ (launch1.ctx 0).switching = false ∧
    launch1.launchHeld part0 = false ∧ ({ launch1.noteUnreached (agentAt 80 0) 0x500000 none with now := 20000000 }).retryDue (agentAt 80 0) 0x500000 = true ∧
    (∀ q ∈ [lq0, { lq0 with tail := 0 }, block 2 6, { lq0 with base := 0x8000000000 }],
      (launching q counted1 kernel1 (rq0 1 6) rx0).meetBlock (agentAt 80 0) 0x500000 = .ok (.dev 0x500000) (some 0) q (devPlace 0x500000)) ∧
    (launching { lq0 with rcap := 0 } counted1 kernel1 (rq0 1 6) rx0).meetBlock (agentAt 80 0) 0x500000 = .malformed ∧
    (launching lq0 counted1 kernel1 (rq0 1 6) rx0).meetBlock (agentAt 80 0) 0x510000 = .ok (.dev 0x510000) (some 0) (rq0 1 6) (devPlace 0x510000) ∧
    ((rq0 1 6).kind = 1 ∧ (launch1.qaux (.dev 0x510000)).bound = none) ∧ (rq0 1 6).rsize ≠ 4 ∧
    (launching { lq0 with base := 0x8000000000 } counted1 kernel1 (rq0 1 6) rx0).resolve (agentAt 80 0) .rd 64 64 0x8000000000 = .error (.park 1 3) ∧
    (launch1.svc = State.reset.svc ∧ ((launch1.qaux (.dev 0x500000)).since = none ∧ lq0.claim < lq0.tail)) ∧
    launch1.resolve (agentAt 80 0) .rd 64 64 (2 ^ 57) = .error (.err Code.access (some (8, (Config.walkLevel 0).toNat))) ∧
    launch1.resolve (agentAt 80 0) .rd 64 64 win.toNat = .error (.err Code.access none) ∧
    (podPages team).resolve (agentAt 80 0) .rd 64 64 0x508000 = .error .unreachable := by
  (repeat' with_reducible apply And.intro) <;> first
    | decide +kernel | exact ends_eq (by decide +kernel) | rfl | (unfold goodKernel; decide +kernel) | (unfold badRecord; decide +kernel)

/-- A launch of a mode with the record queue at 0x510000; the machine in which it claims, and one whose context stands still. -/
def stage (mode : Nat) (f : Launch → Launch) : Launch :=
  f { id := 5, ctx := 0, part := 0, queue := 0x500000, index := 0, addr := 0x508000, mode := mode, count := 0, kernel := 0x520000, args := 0
      rqueue := 0x510000, cword := 0, cvalue := 0, node := 3, hdr := some (headerOf kernel1), st := .placing, status := 0, retired := 0
      rejected := 0, launched := 0, cands := [], timer := some 0, expired := false, undone := [], waits := none, nextTry := 0, held := false }
def staging (x : Launch) (rq : Qcb) (tile : Nat) : State :=
  let s := launching lq0 counted1 kernel1 rq { rx0 with bound := some 5 }
  { s with mem.dev := load s.mem.dev 0x518000 (leBytes 16 tile), sched.launches := [x] }

/-- The record queue of a row stage with v visible records and a timer of 1 us; a good tile record. -/
def rows (v : Nat) (flush : Bool) : Qcb := { rq0 1 4 with rcap := 6, resv := v, tail := v, timer := 1, flreq := flush }
def tile1 : Nat := 3 + 4 * 2 ^ 16 + 17 * 2 ^ 96

/-- Row stages with 40, 5, 0 and flushed records, one draining, one whose timer has run out and one whose has not; tile stages with a good and a
bad record, none, one held and one whose page is not present. -/
theorem witness_Stages :
    (∀ x ∈ [(stage 1 id, rows 40 false), (stage 1 id, rows 5 false), (stage 1 id, rows 5 true), (stage 1 id, rows 0 false), (stage 2 id, rows 5 false),
        (stage 2 id, rows 0 false), (stage 2 (fun l => { l with held := true }), { rows 5 false with base := 0x8000000000 })],
      (staging x.1 x.2 tile1).sched.launches.find? (·.id == 5) = some x.1 ∧ x.1.hdr = some (headerOf kernel1) ∧ x.1.st = .placing ∧
      ((staging x.1 x.2 tile1).ctx 0).st = .running ∧ ((staging x.1 x.2 tile1).ctx 0).switching = false ∧ x.1.cands.length < 256 ∧
      (staging x.1 x.2 tile1).isUnreached (agentAt 81 0) 0x510000 = false ∧
      (staging x.1 x.2 tile1).meetBlock (agentAt 81 0) 0x510000 = .ok (.dev 0x510000) (some 0) x.2 (devPlace 0x510000)) ∧
    ¬mayClaim launch1 (stage 1 fun l => { l with st := .draining }) ∧ 32 ≤ (rows 40 false).tail - (rows 40 false).claim ∧
    (1 ≤ (rows 5 true).tail - (rows 5 true).claim ∧ (rows 5 true).flreq = true ∧ (rows 5 false).timer ≠ 0) ∧
    ((stage 1 id).timer = some 0 ∧ 0 + (rows 5 false).timer * 940 ≤ ({ launch1 with now := 940 }).now) ∧
    ((∃ x, (((staging (stage 2 id) (rows 5 false) tile1).usePlace (agentAt 81 0) .rmw (devPlace 0x510000)).noteServed (agentAt 81 0) 0x510000).agentRead
        (agentAt 81 0) 0x518000 16 = .ok (leBytes 16 tile1, x)) ∧
      field (leNat (leBytes 16 tile1)) 15 0 = (stage 2 id).node ∧ field (leNat (leBytes 16 (tile1 + 1))) 15 0 ≠ (stage 2 id).node) ∧
    (staging (stage 2 id) (rows 5 false) tile1).resolve (agentAt 81 0) .rd 16 16 0x8000000000 = .error (.park 1 3) ∧
    ({ (staging (stage 2 id) (rows 5 false) tile1).noteUnreached (agentAt 81 0) 0x510000 none with now := 20000000 }).retryDue (agentAt 81 0) 0x510000 =
      true ∧ (staging (stage 2 id) (rows 5 false) tile1).svc = State.reset.svc ∧
    (stage 1 fun l => { l with undone := [{ first := 0, count := 1 }] }).undone ≠ [] ∧
    (staging (stage 1 id) { rows 5 false with rcap := 0 } tile1).meetBlock (agentAt 81 0) 0x510000 = .malformed := by
  refine ⟨by decide +kernel, ?_, by decide +kernel, by decide +kernel, by decide +kernel, ⟨?_, by decide +kernel, by decide +kernel⟩,
    ends_eq (by decide +kernel), by decide +kernel, by decide +kernel, by decide +kernel, by decide +kernel⟩
  · unfold mayClaim; rintro ⟨h, -⟩; exact absurd h (by decide)
  · exact ok_fst (by decide +kernel)

/-- A gang of the stage that waits for its place. -/
def cand0 : Cand := stageGang (stage 1 id) (headerOf kernel1) (rows 40 false) 32 32 0
def waitingGang (c : Cand) : State := staging (stage 1 fun l => { l with cands := [c], launched := 1 }) (rows 40 false) 0

/-- One gang that fits at once on core 0 (no place comes sooner), and one that no core can hold. -/
def hugeGang : Cand := { cand0 with hdr := { cand0.hdr with teams := 16, groups := 8, lanes := 1024, vregs := 256 } }

/-- Every core of its clusters is fenced. -/
def walledIn : State := { waitingGang cand0 with svc.fenced := List.range 16 }

theorem witness_Placement : (walledIn.candAt 10 = some cand0 ∧ ∀ x ∈ [0, 1], ∀ m ∈ List.range 8, walledIn.coreUsable (x * 8 + m + 0) = false) ∧
    (waitingGang cand0).candAt 10 = some cand0 ∧ ((waitingGang cand0).ctx 0).st = .running ∧
    ((waitingGang cand0).ctx 0).switching = false ∧ cand0.hdr.footprint ≤ (waitingGang cand0).spaceOf 0 0 ∧
    (waitingGang cand0).sched.parts.find? (fun x => x.num == cand0.part && x.ctx == cand0.ctx) = some part0 ∧ part0.clusters = [0, 1] ∧
    (∀ x ∈ [0, 1], (waitingGang cand0).clusterStalled x = false) ∧
    (∀ y ∈ (waitingGang cand0).waitingCands, (waitingGang cand0).stands y cand0 = false) ∧ cand0.hdr.groups = 1 ∧
    (waitingGang cand0).coreUsable 0 = true ∧ ((waitingGang cand0).coreLoad 0).1 + 1 ≤ 32 ∧ ((waitingGang cand0).coreLoad 0).2 + 32 ≤ 16384 ∧
    ((waitingGang cand0).blockAt 0 cand0.hdr.footprint % 4096 = 0 ∧ freeAt ((waitingGang cand0).extents 0 none) ((waitingGang cand0).placeSpace 0)
      cand0.hdr.footprint ((waitingGang cand0).blockAt 0 cand0.hdr.footprint) = true) ∧ (∀ x ∈ [0, 1], ∀ m, 0 < x ∨ 0 = x ∧ 0 ≤ m) ∧
    (waitingGang hugeGang).candAt 10 = some hugeGang ∧ (waitingGang hugeGang).spaceOf 0 0 < hugeGang.hdr.footprint ∧ cand0.hdr.teams ≤ 16 ∧
    cand0.lanes ≤ cand0.hdr.lanes := by
  refine ⟨?_, ?_, ?_, ?_, ?_, ?_, rfl, ?_, ?_, ?_, ?_, ?_, ?_, ?_, by simp, ?_, ?_, ?_, ?_⟩ <;> decide +kernel

/-- The team has ended, alone or beside another team of its gang; a launch of a state whose record is the one in the launch queue. -/
def endedTeam : Team := { team with st := .ended }
def endedWith (mates : List Team) : State := mates.foldl (fun s t => s.setTeam t) (on endedTeam)
def launchEnds (st : LaunchState) (status : Nat) : State :=
  staging (stage 0 fun l => { l with st := st, status := status, retired := 3, cword := 0x502000, cvalue := 1 }) (rows 0 false) 0

/-- The last team of a gang, one beside another; a launch with nothing left, a rejected one, one not ended; its queue, its record's place. -/
theorem witness_GangAndLaunchEnd : (∀ m ∈ [[], [{ team with index := 1 }]], (endedWith m).team 256 = some endedTeam ∧
      ((endedWith m).gangOf endedTeam).map (·.st) = some .resident) ∧ (endedTeam.st = .ended ∧ endedTeam.freed = false ∧ endedTeam.pend = []) ∧
    ((on team).core 0).queue ++ ((on team).core 0).sweep = [] ∧ team.st ≠ .ended ∧
    (∀ s ∈ [launchEnds .draining 0, launchEnds .checking 3, launchEnds .placing 0], s.sched.launches.find? (·.id == 5) = s.sched.launches.head? ∧
      s.isUnreached (agentAt 80 0) 0x500000 = false ∧
      s.meetBlock (agentAt 80 0) 0x500000 = .ok (.dev 0x500000) (some 0) lq0 (devPlace 0x500000)) ∧
    ((launchEnds .draining 0).sched.launches.head?.map fun l => (l.waits, l.cands, l.st)) = some (none, [], .draining) ∧
    (∀ y ∈ (launchEnds .draining 0).gangs, y.2.src.origin ≠ .launch 5) ∧
    (launchEnds .draining 0).resolve (agentAt 80 0) .wr 2 2 (0x508000 + 2) = .ok (devPlace 0x508002) ∧
    (launchEnds .draining 0).resolve (agentAt 80 0) .wr 8 8 (0x508000 + 48) = .ok (devPlace 0x508030) ∧
    (launchEnds .draining 0).svc = State.reset.svc ∧
    (∃ r ∈ ((rowing false 0x508020 0).withEng fun e => { e with qaux := e.qaux.map fun y => { y with owners := [(2, 256)] } }).eng.rows,
      r.faulted = false ∧
      (r.index, 256) ∈ (((rowing false 0x508020 0).withEng fun e => { e with qaux := e.qaux.map fun y => { y with owners := [(2, 256)] } }).qaux r.block).owners) ∧
    (launchEnds .draining 0).meetBlock (agentAt 81 0) 0x510000 = .ok (.dev 0x510000) (some 0) (rows 0 false) (devPlace 0x510000) := by
  refine ⟨?_, ?_, ?_, ?_, ?_, ?_, ?_, place_of ?_, place_of ?_, ?_, ?_, ?_⟩ <;> decide +kernel
/-! ## Pipes and waits (spec/16_kernel_launch.md, spec/06_kernel_image.md) -/

/-- A Ready team of a resident gang whose image is at 0x400000, between clauses; the machine with its pipe free, and with a clause that runs. -/
def idle (f : Team → Team) : Team := f { team with clause := none, pc := 0, lastIssue := 4 }
def free (t : Team) (bytes : List Byte) : State :=
  let s := world t 0x400040 bytes
  { (s.modGang 1 fun g => { g with src := { g.src with image := 0x400000 } }) with running := [], now := 9 }
def busyPipe (since now : Nat) : State := { on team with running := [(0, 256, since)], now := now }

/-- A clause of one lane-class word; a header that waits for flag 3; the bytes of words. -/
def wordBytes (ws : List Nat) : List Byte := ws.flatMap (leBytes 8)
def clauseOf (wait : Nat) : Nat := 0xC02001FE00000000 + wait * 2 ^ 41
def goodCode (wait : Nat) : List Nat := [clauseOf wait, 0x0000C0408004003A, 0x0000C0408004003A, 0, 0, 0]
def badCode : List Nat := [clauseOf 0, 0x0000C0408004003A, 0xFFFFFFFFFFFFFFFF, 0, 0, 0]
def clauseHdr (wait : Nat) : Header := { cls := 0, count := 1, wait := .ofNat 12 wait, flagA := 15, flagB := 15, yield := false }

/-- The place of code offset i. -/
def codeAt (i : Nat) : Place :=
  match codePlace with
  | .dev x _ => .dev x (0x400040 + i)
  | p => p

theorem not_header {w : Word} (h : (match decodeHeader w with | .ok _ => false | .error _ => true) = true) : ∀ x, decodeHeader w ≠ .ok x := by
  intro x e
  rw [e] at h
  cases h

theorem standsFirst_of {s : State} {p : Nat} {t : Team} (h : (decide (t.pipe = p ∧ t.st = .ready) && s.teams.any (fun x => x.2 == t) &&
    s.teams.all fun x => x.2 == t || x.2.pipe != p) = true) : standsFirst s p t := by
  simp only [Bool.and_eq_true, decide_eq_true_eq, List.any_eq_true, List.all_eq_true, Bool.or_eq_true, beq_iff_eq, bne_iff_ne] at h
  obtain ⟨⟨⟨h1, h2⟩, x, hx, hx2⟩, h3⟩ := h
  refine ⟨h1, h2, ⟨x.1, hx2 ▸ hx⟩, fun k u gt gu hu hp _ _ _ => ?_⟩
  rcases h3 _ hu with e | e
  · exact .inl e
  · exact absurd hp e

/-- Of four idle teams: one whose clause was interrupted, one at the end of the code, one at no header, one that waits for flag 3, in a halt's skid or
not. -/
def idles : List Team := [idle fun t => { t with clause := some (oneWord 5) }, idle fun t => { t with pc := 64 }, idle fun t => { t with pc := 24 },
  idle fun t => { t with pend := [⟨3, none, none, false⟩] },
  idle fun t => { t with pend := [⟨3, none, none, false⟩], skidLeft := 2 }, idle id]

/-- Those teams on a free pipe; a good clause and one with a bad second word; clauses that have run for less and more than 2,048 cycles; a
pipe without a Ready team; a team passed over for 7 cycles and for 64. -/
theorem witness_ClausesOfPipes :
    (∀ t ∈ idles, FMap.look (free t (wordBytes (goodCode 8))).running 0 = none ∧ standsFirst (free t (wordBytes (goodCode 8))) 0 t ∧
      (∀ x ∈ (free t (wordBytes (goodCode 8))).teams, ((free t (wordBytes (goodCode 8))).gangOf x.2).isSome = true) ∧
      (((free t (wordBytes (goodCode 8))).passOver 0 256).gangOf t).map (·.src.hdr.codeSize) = some 64) ∧
    (∀ t ∈ [idle id], ∀ g ∈ ((free t (wordBytes (goodCode 8))).passOver 0 256).gangOf t, ∀ i ∈ [0, 8, 16],
      isPlace (((free t (wordBytes (goodCode 8))).passOver 0 256).fetchPlace t g i) (codeAt i) = true) ∧
    decodeHeader (((free (idle id) (wordBytes (goodCode 8))).passOver 0 256).fetchAt (codeAt 0)) = .ok (clauseHdr 8) ∧
    (∀ x, decodeHeader (((free (idle id) (wordBytes (goodCode 8))).passOver 0 256).fetchAt (codeAt 24)) ≠ .ok x) ∧
    (clauseHdr 8).wait.toNat.testBit 3 = true ∧ 0 + 8 + 8 * ((clauseHdr 8).count.toNat + 1) ≤ 64 ∧
    firstFault 0 0 64 ([codeAt 8, codeAt 16].map ((free (idle id) (wordBytes (goodCode 0))).passOver 0 256).fetchAt) 0 = none ∧
    firstFault 0 0 64 ([codeAt 8, codeAt 16].map ((free (idle id) (wordBytes badCode)).passOver 0 256).fetchAt) 0 = some 1 ∧
    FMap.look (busyPipe 0 2047).running 0 = some (256, 0) ∧ (0 + 2048 ≤ (busyPipe 0 2048).now ∧ (busyPipe 0 2048).sweeping 0 = false) ∧
    (∀ x ∈ (free { idle id with st := .halted } []).teams, x.2.st ≠ .ready) ∧ 2 + 64 ≤ ({ free (idle id) [] with now := 66 }).now ∧
    (free (idle id) []).now < 2 + 64 := by
  refine ⟨?_, by decide +kernel, ok_of (by decide +kernel), not_header (by decide +kernel), by decide +kernel, by decide +kernel, by decide +kernel,
    by decide +kernel, by decide +kernel, by decide +kernel, by decide +kernel, by decide +kernel, by decide +kernel⟩
  have e : ∀ t ∈ idles, FMap.look (free t (wordBytes (goodCode 8))).running 0 = none ∧
      (decide (t.pipe = 0 ∧ t.st = .ready) && (free t (wordBytes (goodCode 8))).teams.any (fun x => x.2 == t) &&
        (free t (wordBytes (goodCode 8))).teams.all fun x => x.2 == t || x.2.pipe != 0) = true ∧
      (∀ x ∈ (free t (wordBytes (goodCode 8))).teams, ((free t (wordBytes (goodCode 8))).gangOf x.2).isSome = true) ∧
      (((free t (wordBytes (goodCode 8))).passOver 0 256).gangOf t).map (·.src.hdr.codeSize) = some 64 := by decide +kernel
  intro t ht
  exact ⟨(e t ht).1, standsFirst_of (e t ht).2.1, (e t ht).2.2⟩

/-- A team in a state on a free pipe; a WAITA of it that acquires, until cycle 20. -/
def inState (st : TeamState) : Team := { idle id with st := st, vregs := 8 }
def waita (st : Option Nat) : TeamState := .waiting (.waita (.dev 0x500040) 0 1 5 true 5 20 11 st)

/-- A team that grows, with a second gang's on its core that began later, and next to no room. -/
def grower : Team := inState (.growing 1 4)
def crowd (t : Team) (ways : Nat) : State :=
  let s := (free t []).withMem fun m => { m with ways := [(0, ways)] }
  { s.setTeam { t with gang := 2, st := .growing 2 5 } with gangs := s.gangs ++ [(2, { other with src := probeCand, groups := [GroupSt.launch 0 0 4096] })] }

def airy : State :=
  { free grower [] with gangs := (free grower []).gangs.map fun p =>
      (p.1, { p.2 with groups := p.2.groups.map fun x => { x with base := 500000, size := 4096 } }) }
def lonely : State := (free grower []).withMem fun m => { m with ways := [(0, 31)] }

theorem alone_of {s : State} {t : Team} {since c : Nat} (h : (s.teams.all fun x => x.2 == t || (match x.2.st with
    | .growing _ b => decide (since < b) || (since == b && decide (t.id < x.2.id))
    | _ => true)) = true) :
    ∀ j u m b, (j, u) ∈ s.teams → u.st = .growing m b → u.core = c → u = t ∨ since < b ∨ since = b ∧ t.id < u.id := by
  intro j u m b hu hs _
  simp only [List.all_eq_true, Bool.or_eq_true, beq_iff_eq] at h
  rcases h _ hu with e | e
  · exact .inl e
  · simp only [hs, Bool.and_eq_true, beq_iff_eq, Bool.or_eq_true, decide_eq_true_eq] at e
    exact .inr e

theorem ids_of {s : State} (h : (s.teams.all fun x => x.2.id == x.1) = true) : ∀ j u, (j, u) ∈ s.teams → u.id = j := by
  intro j u hu
  have e := List.all_eq_true.1 h (j, u) hu
  exact eq_of_beq e

/-- Pending completions, one of an MMA with a word-op; a sleeper; a waiter before and after its deadline and with a status; a growth that
fits in another block, one that fits where it is, and one that does not while all of the core grow; a narrow releaser. -/
theorem witness_WaitsEnd :
    (∀ st ∈ [.ready, .sleeping 15, waita none, waita (some 7), .growing 1 4, .waiting (.flags 8)], (free (inState st) []).team 256 = some (inState st) ∧
      (inState st).id = 256) ∧
    ({ inState (.waiting (.flags 8)) with pend := [⟨3, none, none, false⟩, ⟨3, none, none, false⟩] }).pend[0]? = some ⟨3, none, none, false⟩ ∧ Nat.testBit 8 3 = true ∧
    (∃ w ∈ ((queued product id).core 0).queue, w.mma = 2) ∧ (free (inState .ready) []).now < 15 ∧ 15 ≤ ({ free (inState .ready) [] with now := 15 }).now ∧
    (∀ j u m b, (j, u) ∈ (crowd grower 26).teams → u.st = .growing m b → u.core = 0 → u = grower ∨ 4 < b ∨ 4 = b ∧ grower.id < u.id) ∧
    (∀ j u, (j, u) ∈ (crowd grower 26).teams → u.id = j) ∧ ((crowd grower 4).growBase grower 1).isSome = true ∧ (crowd grower 4).growBase grower 1 ≠ some grower.base ∧
    (∀ j u m b, (j, u) ∈ airy.teams → u.st = .growing m b → u.core = 0 → u = grower ∨ 4 < b ∨ 4 = b ∧ grower.id < u.id) ∧
    (∀ j u, (j, u) ∈ airy.teams → u.id = j) ∧ airy.team 256 = some grower ∧ airy.growBase grower 1 = some grower.base ∧
    (crowd grower 26).canGrow grower 1 = false ∧
    (crowd grower 26).allGrowing 0 = true ∧ ((crowd grower 26).youngestOn 0).map (·.preempt) = [false, false] ∧
    (lonely.growBase grower 1 = none ∧ lonely.allGrowing 0 = true ∧ (lonely.youngestOn 0).map (·.handle) = [1]) ∧
    (∃ x ∈ ((free (idle id) []).withMem fun m => { m with narrow := [⟨0, 5, [0, 3]⟩] }).mem.narrow, 3 ∈ x.clusters) ∧
    (∀ x ∈ (free (idle id) []).mem.narrow, 3 ∉ x.clusters) := by
  refine ⟨by decide +kernel, by decide +kernel, by decide +kernel, by decide +kernel, by decide +kernel, by decide +kernel, alone_of (by decide +kernel),
    ids_of (by decide +kernel), by decide +kernel, by decide +kernel, alone_of (by decide +kernel), ids_of (by decide +kernel), by decide +kernel,
    by decide +kernel, by decide +kernel, by decide +kernel, by decide +kernel, by decide +kernel, by decide +kernel, by decide +kernel⟩

end Sys2Proof.Tests
end

