-- ==== Sys2Proof/Tests/WitnessMoves.lean ====
section
/-! SUPPORT. Witnesses: for each statement a concrete state and operands that meet its hypotheses, clause by clause where its clauses
differ: errors, moves, reader sections and retirement. -/

namespace Sys2Proof.Tests

open Sys2Proof.Machine Sys2Proof.Demo Sys2Proof.Claim

set_option Elab.async false

/-! ## Errors, traps, handlers and moves (spec/17_group.md) -/

theorem not_handler {o : Origin} (h : (match o with | .handler _ => false | _ => true) = true) : ∀ c, o ≠ .handler c := by
  intro c e
  rw [e] at h
  cases h

/-- The idle team beside others of its group in the given states, at offset 16; their gang and its group. -/
def mates (l : List TeamState) : State :=
  (List.range l.length).foldl (fun s i => s.setTeam { idle id with index := i + 1, st := l.getD i .ready, pc := 16 }) (free (idle id) [])
def allStates : List TeamState :=
  [.ready, .waiting (.flags 8), waita (some 7), .waiting (.waita (.dev 0x500040) 0 1 5 true 5 3 11 none), waita none, .sleeping 15, .growing 1 4,
   .parked .replay, .halted, .saved, .ended]
def gang1 (s : State) : Gang := (s.gang 1).getD other
def group0 (s : State) : GroupSt := ((gang1 s).groups[0]?).getD (GroupSt.launch 0 0 0)

/-- A halt of the group in progress, by its cycle 0 and its team's slot, with a sibling that may skid and one with a skid
instruction incomplete; a handler's gang. -/
def halting (since : Nat) (slot : Option Nat) (s : State) : State :=
  s.modGang 1 fun g => { g with groups := g.groups.map fun x => { x with halt := some ⟨3, since, slot, none⟩ } }
def skidding (s : State) : State := s.modTeam 257 fun t => { t with skidLeft := 1 }
def unfinished (s : State) : State := s.modTeam 257 fun t => { t with pend := [⟨3, none, none, true⟩] }
def handling (s : State) : State := s.modGang 1 fun g => { g with src := { g.src with origin := .handler 0 } }

/-- A team beside mates in every state, in a halt in progress that goes on and in one that ends, of this cycle and of another, beside
none that may skid, and the handler's. -/
theorem witness_ErrorsTaken : (∀ s ∈ [mates allStates, halting 5 none (mates allStates), halting 9 (some 7) (skidding (mates allStates)),
        halting 9 (some 7) (unfinished (mates [.halted])), mates [.sleeping 15, .ended], handling (mates [])],
      (s.teams.all fun x => x.2.id == x.1) = true ∧ (s.teams.map (·.1)).Nodup ∧ s.team (idle id).id = some (idle id) ∧
      s.gangOf (idle id) = some (gang1 s) ∧ (gang1 s).handle = (idle id).gang ∧ (gang1 s).groups[(idle id).group]? = some (group0 s)) ∧
    (∀ c, (gang1 (mates allStates)).src.origin ≠ .handler c) ∧ (gang1 (handling (mates []))).src.origin = .handler 0 ∧
    (group0 (mates allStates)).halt = none ∧ (group0 (halting 5 none (mates allStates))).halt = some ⟨3, 5, none, none⟩ ∧
    ((group0 (halting 9 (some 7) (mates allStates))).halt = some ⟨3, 9, some 7, none⟩ ∧ (mates allStates).now = 9 ∧ (idle id).slot < 7) ∧
    (∃ v, (skidding (mates allStates)).team 257 = some v ∧ v.st = .ready ∧ v.skidLeft ≠ 0) ∧
    (∃ v e, (unfinished (mates [.halted])).team 257 = some v ∧ e ∈ v.pend ∧ e.skid = true) ∧
    (given 9 { team with st := waita (some 7) } 11 7 ∧
      given 9 { team with st := .waiting (.waita (.dev 0x500040) 0 1 5 true 5 3 11 none) } 11 2 ∧
      ∀ d status, ¬given 9 { team with st := waita none } d status) ∧
    (∃ j v, (mates allStates).team j = some v ∧ v.gang = (idle id).gang ∧ v.group = (idle id).group ∧ v.id ≠ (idle id).id ∧ v.st = .ready) ∧
    (∀ x ∈ (mates [.sleeping 15, .ended]).teams, x.2.id = (idle id).id ∨ x.2.st ≠ .ready) := by
  refine ⟨by decide +kernel, not_handler (by decide +kernel), by decide +kernel, by decide +kernel, by decide +kernel, by decide +kernel,
    ⟨((skidding (mates allStates)).team 257).get (by decide +kernel), by simp, by decide +kernel, by decide +kernel⟩,
    ⟨((unfinished (mates [.halted])).team 257).get (by decide +kernel), ⟨3, none, none, true⟩, by simp, by decide +kernel, rfl⟩,
    ⟨⟨_, _, _, _, _, _, _, .inl rfl⟩, ⟨_, _, _, _, _, _, _, .inr ⟨rfl, by decide, rfl⟩⟩, ?_⟩, ⟨257, ((mates allStates).team 257).get (by decide +kernel), by simp, by decide +kernel, by decide +kernel, by decide +kernel, by decide +kernel⟩,
    by decide +kernel⟩
  rintro d status ⟨_, _, _, _, _, _, _, h | ⟨h, h2, -⟩⟩
  · cases h
  · cases h
    omega

/-- The context's system-call queue is the block at 0x500000 and its handler the kernel at 0x520000; a team with arguments in s20 and s21. -/
def trapped (t : Team) (q : Qcb) (kernel now : Nat) : State :=
  let s := queued1 t q { aux with commit := [], done := [] }
  { s with mem.dev := load s.mem.dev 0x520000 (leBytes 64 kernel), now := now
           sched.ctxs := [(0, { ctx0 with sysq := 0x500000, handler := 0x520000, wdog := 2 })] }
def asker : Team := (team.setS 20 5 2).setS 21 6 10

/-- TRAP 0x31 of two arguments from s20, and of three; the queue of kind 5. -/
def trap2 : Sys := sys 9 20 0x31 2
def trap3 : Sys := sys 9 20 0x31 3
def sq : Qcb := block 5 6

/-- A team parked in TRAP whose record is not yet sent; a handler event; a core with one. -/
def waitingTrap : Team :=
  { asker with st := .parked (.trap 9 false 940), clause := some { base := 0, flagA := 15, flagB := 15, yield := false, words := [0x850245000C4002F0] } }
def event1 : HEvent := { ctx := 0, gang := 1, group := 0, kind := 0, record := List.replicate 256 7 }
def evented (s : State) : State := s.modCore 0 fun c => { c with hq := [event1] }

/-- The states of a TRAP: with room at the last place, in a full queue, in one of another kind and in a block that is malformed; and of
its wait, a cycle before its next look at the queue and at it. -/
def asked (q : Qcb) : State := trapped asker q kernel1 0
def tried (q : Qcb) (n : Nat) : State := trapped waitingTrap q kernel1 n
def filled (n : Nat) : Qcb := { sq with resv := n, tail := n }
def trapWho : Who := { agent := 0, ctx := 0, team := none, lane := none, die := 0 }
def hk : KHdr := headerOf kernel1

/-- A TRAP that parks, waits for room or fails; a core with no event, with one and with a bad handler; a gang a cycle before its
watchdog and at it. -/
theorem witness_TrapsAndHandlers :
    (∀ q ∈ [filled 15, filled 16, lq0, { sq with rcap := 0 }], (asked q).issuing = some asker ∧ (tried q 940).team 256 = some waitingTrap) ∧
    (∀ i, i < trap2.e.toNat % 8 → (asker.sreg (trap2.a.toNat + i)).tag ≠ 0) ∧ (¬ ∀ i, i < trap3.e.toNat % 8 → (asker.sreg (trap3.a.toNat + i)).tag ≠ 0) ∧
    ((asked (filled 15)).release asker 7).meetBlock trapWho 0x500000 = .ok (.dev 0x500000) (some 0) (filled 15) (devPlace 0x500000) ∧
    ((filled 15).kind = 5 ∧ (filled 15).resv + 1 = (filled 15).head + 2 ^ (filled 15).rcap) ∧
    ((asked (filled 16)).release asker 7).meetBlock trapWho 0x500000 = .ok (.dev 0x500000) (some 0) (filled 16) (devPlace 0x500000) ∧
    (filled 16).head + 2 ^ (filled 16).rcap < (filled 16).resv + 1 ∧
    ((asked lq0).release asker 7).meetBlock trapWho 0x500000 = .ok (.dev 0x500000) (some 0) lq0 (devPlace 0x500000) ∧ lq0.kind ≠ 5 ∧
    ((asked { sq with rcap := 0 }).release asker 7).meetBlock trapWho 0x500000 = .malformed ∧
    (waitingTrap.id = 256 ∧ waitingTrap.trapFields = some (0x31, 20, 2) ∧ waitingTrap.st = .parked (.trap 9 false 940)) ∧
    ((tried sq 939).now < 940 ∧ (tried (filled 15) 940).now = 940) ∧
    (tried (filled 15) 940).meetBlock trapWho 0x500000 = .ok (.dev 0x500000) (some 0) (filled 15) (devPlace 0x500000) ∧
    (((asked sq).core 0).hq = [] ∧ ((evented (asked sq)).core 0).hq = event1 :: []) ∧
    (((evented (asked sq)).core 0).hrun = none ∧ ((evented (asked sq)).core 0).hstop = none ∧ ctxRuns (evented (asked sq)) 0) ∧
    (evented (trapped asker sq 0 0)).readHeader 0 0x520000 = none ∧
    (((evented (asked sq)).readHeader 0 0x520000).map (·.1) = some hk ∧ handlerKernel hk ∧ event1.record.length = 256) ∧
    ¬handlerKernel (headerOf (kernelBits 64 1 1)) ∧
    ((evented (trapped asker sq (kernelBits 64 1 1) 0)).readHeader 0 0x520000).map (·.1) = some (headerOf (kernelBits 64 1 1)) ∧
    (∀ n ∈ [1879, 1880], let s := (asked sq).modGang 1 fun g => { g with idle := n }
      s.gang 1 = some (gang1 s) ∧ (gang1 s).st = .resident ∧ ((s.teamsOf (gang1 s).handle).any fun v => v.st.code < 4) = true ∧
      (∀ x ∈ s.svc.stalls, x.lifted ≠ none) ∧ (s.ctx 0).wdog * 940 = 1880 ∧ (gang1 s).idle = n) := by
  (repeat' with_reducible apply And.intro) <;> first | decide +kernel | (unfold handlerKernel; decide +kernel) | (unfold ctxRuns; decide +kernel)

/-! ## Moves of gangs (spec/17_group.md, spec/18_context.md) -/

theorem quiet_of {s : State} {g : Nat} (h : ∀ t ∈ s.teamsOf g, t.pend = [] ∧ ∀ w ∈ (s.core t.core).queue ++ (s.core t.core).sweep, w.team ≠ t.id)
    (e : s.eng.items = []) : quiet s g := ⟨h, by simp [e]⟩

/-- Of two images alike but for their digests, one fails its first check. -/
theorem one_fails {a b : List Byte} {c : Nat} (i j : Option Image) (ht : a.take (a.length - 64) = b.take (b.length - 64))
    (hd : a.drop (a.length - 64) ≠ b.drop (b.length - 64)) : imageCheck c a i = 1 ∨ imageCheck c b j = 1 := by
  by_cases h : a.drop (a.length - 64) = imageDigest (a.take (a.length - 64))
  · refine .inr ?_
    have : b.drop (b.length - 64) ≠ imageDigest (b.take (b.length - 64)) := fun e => hd (by rw [h, e, ht])
    simp [imageCheck, this]
  · exact .inl (by simp [imageCheck, h])

/-- The gang of `mates` with teams in every state, in a standing of its own; with a team whose completion pends; saved, with two clusters
to go to; and with eighteen groups, for which no cluster has room. -/
def moved (f : Gang → Gang) : State :=
  { (mates allStates).modGang 1 f with sched.ctxs := [(0, ctx0)], sched.parts := [part0] }
def standing (st : GangState) : State := moved fun g => { g with st := st }
def pendingTeam (s : State) : State :=
  s.modTeam 257 fun t => { t with pend := [⟨3, none, none, false⟩] }
def oneAcc (c : Cand) : Cand := { c with hdr := { c.hdr with accs := 1 } }
def savedGang (groups : Nat) : State :=
  let s := moved fun g => { g with st := .saved, off := true, groups := (List.replicate groups g.groups).flatten, src := oneAcc g.src }
  { s with now := 100, teams := s.teams.map fun x => (x.1, { x.2 with vregs := 8, st := if x.2.st = .ended then .ended else .saved,
                                                                      back := x.2.st.saveAs 9 }) }

/-- The saved gang with an image of n bytes at 2^36 that is not what was written, and the last byte of its digest. -/
def imageSize : Nat := 319488
def spoiled (b : Byte) : State :=
  let s := (savedGang 1).modGang 1 fun g => { g with image := some (2 ^ 36, []) }
  { s with mem.dev := Memory.write s.mem.dev (2 ^ 36 + (imageSize - 1)) b }
def spoiledGang : Gang := gang1 (spoiled 0)

theorem spoiled_gang : ∀ b ∈ [0, 1], (spoiled b).gang 1 = some spoiledGang ∧ (spoiled b).imageBytes spoiledGang = imageSize ∧
    ((spoiled b).ctx spoiledGang.src.ctx).key = 0 := by
  decide +kernel

/-- The k-th byte of what the memory holds there. -/
theorem spoiled_byte (b : Byte) (k : Nat) (h : k < imageSize) :
    (spoiled b).homeByte (some 0) (2 ^ 36 + k) = Memory.read (Memory.write (savedGang 1).mem.dev (2 ^ 36 + (imageSize - 1)) b) (2 ^ 36 + k) := by
  have r : regionOf (2 ^ 36 + k) = .local := by
    have h1 : (2 ^ 36 + k) / 2 ^ 54 = 0 := by simp only [imageSize] at h; omega
    have h2 : 2 ^ 36 + k < 2 ^ 40 := by simp only [imageSize] at h; omega
    rw [regionOf, if_neg (by rw [h1]; decide), if_neg (by rw [h1]; decide), if_pos h2]
  have o : (spoiled b).slotOk (some 0) (2 ^ 36 + k) = true := by
    have : (spoiled b).lineSlot (2 ^ 36 + k) = none := rfl
    simp only [State.slotOk, this]
  simp only [State.homeByte, r, o, if_true]
  rfl

theorem long_enough {l : List Byte} (h : imageSize ≤ l.length) : (l == []) = false := by
  cases l with
  | nil => exact absurd h (by decide)
  | cons => rfl

/-- One of two such images fails its check. -/
theorem an_image_fails : ∃ b, (spoiled b).gang 1 = some spoiledGang ∧ ((spoiled b).readImage spoiledGang).1 = 1 := by
  have hi : spoiledGang.image = some (2 ^ 36, []) := by decide +kernel
  have len : ∀ b, ((spoiled b).homeRead (some 0) (2 ^ 36) imageSize).length = imageSize := fun b => by simp [State.homeRead]
  have e : ∀ b ∈ [0, 1], ∃ i, ((spoiled b).readImage spoiledGang).1 =
      imageCheck spoiledGang.src.ctx ((spoiled b).homeRead (some 0) (2 ^ 36) imageSize) i := by
    intro b hb
    obtain ⟨-, h2, h3⟩ := spoiled_gang b hb
    have hn := long_enough (Nat.le_of_eq (len b).symm)
    exact ⟨Config.imageOf (((spoiled b).homeRead (some 0) (2 ^ 36) imageSize).take (((spoiled b).homeRead (some 0) (2 ^ 36) imageSize).length - 64)),
      by simp only [State.readImage, hi, h2, h3, hn, Bool.false_eq_true, if_false]⟩
  have byte : ∀ b k, k < imageSize → ((spoiled b).homeRead (some 0) (2 ^ 36) imageSize)[k]? =
      some (Memory.read (Memory.write (savedGang 1).mem.dev (2 ^ 36 + (imageSize - 1)) b) (2 ^ 36 + k)) := by
    intro b k h
    simp only [State.homeRead, List.getElem?_map, List.getElem?_range h, Option.map_some, spoiled_byte b k h]
  obtain ⟨i, hi⟩ := e 0 (by simp)
  obtain ⟨j, hj⟩ := e 1 (by simp)
  have := one_fails (c := spoiledGang.src.ctx) (a := (spoiled 0).homeRead (some 0) (2 ^ 36) imageSize)
    (b := (spoiled 1).homeRead (some 0) (2 ^ 36) imageSize) i j ?_ ?_
  · rcases this with h | h
    · exact ⟨0, (spoiled_gang 0 (by simp)).1, hi.trans h⟩
    · exact ⟨1, (spoiled_gang 1 (by simp)).1, hj.trans h⟩
  · refine List.ext_getElem? fun k => ?_
    simp only [List.getElem?_take, len]
    split
    · rename_i h
      rw [byte _ _ (by omega), byte _ _ (by omega), Memory.read_write_ne _ _ (by omega), Memory.read_write_ne _ _ (by omega)]
    · rfl
  · intro h
    have := congrArg (fun l => l[63]?) h
    have e : imageSize - 64 + 63 = imageSize - 1 := by decide
    simp only [len, List.getElem?_drop, e, byte _ _ (show imageSize - 1 < imageSize by decide), Memory.read_write_same] at this
    exact absurd this (by decide)

/-- A gang asked to leave and one that is not, with teams in every state; one saving or killed, with a completion that pends and with
none; one saved, with a place and with none. That the bytes of an image written anew hold a good image rests on free values
(`Config.imageOf`, `Config.shake256`): no witness shows one. -/
theorem witness_GangMoves : (∀ s ∈ [moved (fun g => { g with preempt := true }), standing .resident, standing .saving, standing .killed,
      pendingTeam (standing .saving), pendingTeam (standing .killed), savedGang 1, savedGang 18],
      s.gang 1 = some (gang1 s) ∧ (gang1 s).handle = 1 ∧ (s.teams.all fun x => x.2.id == x.1) = true ∧ (s.teams.map (·.1)).Nodup ∧
      ctxRuns s (gang1 s).src.ctx) ∧
    (let s := moved fun g => { g with preempt := true }
     (gang1 s).st = .resident ∧ (∀ x ∈ (gang1 s).groups, x.halt = none) ∧ (gang1 s).preempt = true ∧
      (s.cores.all fun c => c.2.hrun.isNone) = true ∧ (s.teams.map fun x => x.2.st.code) = [0, 0, 1, 1, 1, 1, 2, 3, 4, 5, 6, 7]) ∧
    ((gang1 (standing .resident)).preempt = false ∧ ((standing .resident).ctx 0).switching = false) ∧
    (quiet (standing .saving) 1 ∧ quiet (standing .killed) 1) ∧
    (¬quiet (pendingTeam (standing .saving)) 1 ∧ ¬quiet (pendingTeam (standing .killed)) 1) ∧
    ((savedGang 1).restorePlace (gang1 (savedGang 1)) = some 0 ∧ (gang1 (savedGang 1)).image = none ∧
      (spoiled 1).restorePlace spoiledGang = some 0) ∧
    (savedGang 18).restorePlace (gang1 (savedGang 18)) = none ∧
    ((savedGang 1).team 262).map (fun t => (t.back, t.gang, t.freed)) = some (.sleeping 6, 1, false) ∧
    ((savedGang 1).team 267).map (fun t => (t.st, t.freed)) = some (.ended, false) := by
  have q : ∀ s : State, (∃ t ∈ s.teamsOf 1, t.pend ≠ []) → ¬quiet s 1 := fun s ⟨t, ht, hp⟩ h => hp (h.1 t ht).1
  refine ⟨by unfold ctxRuns; decide +kernel, by decide +kernel, by decide +kernel, ⟨quiet_of (by decide +kernel) rfl, quiet_of (by decide +kernel) rfl⟩,
    ⟨q _ (by decide +kernel), q _ (by decide +kernel)⟩, by decide +kernel, by decide +kernel, by decide +kernel, by decide +kernel⟩

/-! ## Reader sections and retirement (spec/14_version.md) -/

/-- A team with the operands of a RETIRE: an address and a size from s4, a target in s8, a value in s6. -/
def retirer (size target : Int) : Team :=
  (((devLoader.setS 4 0x501000 10).setS 5 (BitVec.ofInt 64 size) 10).setS 8 (BitVec.ofInt 64 target) 10).setS 6 9 2
/-- The team at a depth of domain slot 2, which its context binds to domain 7 with the retire queue at 0x500000; the domain has
epoch 5, acknowledged by its cores or not. -/
def atDepth (d : Nat) (t : Team) : Team := t.setReader 2 { depth := d, snap := 4 }
def bound : DomSlot := { dom := 7, kind := 3, queue := 0x500000 }
def versioned (t : Team) (q : Qcb) (behind : List Nat) : State :=
  let s := queued1 t q { aux with commit := [], done := [] }
  { s with sched.ctxs := [(0, { ctx0 with doms := [(2, bound)] })]
           sched.domains := FMap.put s.sched.domains 7 { s.domain 7 with epoch := 5, behind := behind } }
/-- RETIRE through a domain slot with an action; a queue of kind 4, with room at the last place and full. -/
def retireOf (slot action : Nat) : Ec := ec 9 4 8 6 false false 0 (slot + 4 * action)
def retq (n : Nat) : Qcb := { block 4 5 with resv := n, tail := n }
def slot2 : Sys := sys 9 0 2 0

/-- What the detector's node gets of the queue after the release: the block's fields. -/
def nodeGets (size target : Int) (q : Qcb) : Option (Loc × Option Nat × Qcb) :=
  (((versioned (retirer size target) q []).release (retirer size target) 5).serve (agentAt 78 0) bound.queue).1

/-- Reader sections at depths 0, 1, 2, 14 and 15; a RETIRE at the bounds of its size and alignments, into a queue with room, full, of
another kind and malformed; a PUBL into device memory and into scratchpad. -/
theorem witness_ReaderSectionsAndRetirement :
    (∀ d ∈ [0, 1, 2, 14, 15], let t := atDepth d (retirer 64 0x500100)
      (versioned t (retq 3) []).issuing = some t ∧ t.flagRoom hd.fb = true ∧ (t.reader slot2.imm.toNat).depth = d ∧
      slotOf (versioned t (retq 3) []) t slot2.imm.toNat = some bound) ∧
    (slotOf (versioned team (retq 3) []) team 3 = none ∧ slotOf (versioned team (retq 3) []) team (retireOf 1 0).e.toNat = none) ∧
    (∀ x ∈ [(0, 0x500100), (2 ^ 32 - 1, 0x50010C), (-1, 0x500100), (2 ^ 32, 0x500100), (0, 0x50010E), (0, 0x500110)],
      let t := retirer x.1 x.2
      (versioned t (retq 15) []).issuing = some t ∧ slotOf (versioned t (retq 15) []) t ((retireOf 2 0).e.toNat % 4) = some bound ∧
      (t.sreg 4).tag = 10 ∧ (t.sreg 8).tag = 10 ∧ intTagged (t.sreg 5) ∧ (t.sreg 6).tag ∈ Tag.any ∧
      scalarInt (t.sreg 5).tag (t.sreg 5).bits = x.1 ∧ ((baseOf (t.sreg 8)).toNat : Int) = x.2) ∧
    ((retireOf 2 1).e.toNat / 4 % 4 = 1 ∧ (retireOf 2 2).e.toNat / 4 % 4 = 2 ∧ 0x50010C % 4 = 0 ∧ 0x50010E % 4 ≠ 0 ∧ 0x500110 % 32 ≠ 0) ∧
    ¬intTagged (((retirer 64 8).setS 5 0 3).sreg 5) ∧
    (∀ q ∈ [retq 15, retq 16, block 1 5], nodeGets 0 0x500100 q = some (.dev 0x500000, some 0, q)) ∧ nodeGets 0 0x500100 { retq 1 with rcap := 0 } = none ∧
    ((retq 15).resv + 1 = (retq 15).head + 2 ^ (retq 15).rcap ∧ (retq 16).head + 2 ^ (retq 16).rcap < (retq 16).resv + 1) ∧
    (placed (versioned devLoader (retq 3) []) devLoader .wr 4 none (scalarVa devLoader ldWord) (devPlace 0x500040) ∧
      placed (versioned loader (retq 3) []) loader .wr 4 none (scalarVa loader ldWord) (wordPlace 0) ∧ ((loader.setS 8 9 2).sreg 8).tag = 2) := by
  refine ⟨by unfold slotOf; decide +kernel, by unfold slotOf; decide +kernel, by unfold slotOf intTagged; decide +kernel, by decide,
    by unfold intTagged; decide +kernel, by decide +kernel, by decide +kernel, by decide, ok_of (by decide +kernel), ok_of (by decide +kernel), by decide +kernel⟩

/-! ## Grace checks, their waits and the actions (spec/14_version.md) -/

/-- Domain 7 with a slot of context 0, an entry tagged 5 in its retire queue, and what a node keeps. -/
def gracing (t : Team) (tags : List Nat) (f : Domain → Domain) : State :=
  let s := versioned t (retq 1) []
  let s := { s with now := 2000, sched.ctxs := [(0, { ctx0 with doms := [(2, bound)], wdog := 2 }), (3, { ctx0 with wdog := 2 })] }
  let s := s.setRetireSt { ctx := 0, slot := 2, tags := tags, nextTry := 0, full := false, told := false, row := none }
  { s with sched.domains := FMap.put s.sched.domains 7 (f (s.domain 7)) }
/-- A team with a target in s6 and a timeout in s7; one that waits in a GPWAIT for domain 7. -/
def graced (target time : Nat) : Team := (devLoader.setS 6 target 10).setS 7 time 10
def waitsFor (target : Nat) (done : Bool) : Team := { idle id with st := .waiting (.gpwait 2 7 target done 2000 11) }
def gpw (all : Nat) : Sys := sys 11 6 2 all

theorem inDemand_of {s : State} {d : Nat} (h : ∃ x ∈ s.sched.ctxs, x.2.st ≠ .free ∧ ∃ y ∈ x.2.doms, y.2.dom = d ∧ (s.retireSt x.1 y.1).tags ≠ []) :
    inDemand s d := by
  obtain ⟨x, hx, hf, y, hy, hd, ht⟩ := h
  exact .inl ⟨x.1, x.2, y.1, y.2, hx, hf, hy, hd, ht⟩

theorem not_inDemand {s : State} {d : Nat}
    (h : ∀ x ∈ s.sched.ctxs, ∀ y ∈ x.2.doms, (s.retireSt x.1 y.1).tags = [])
    (w : (s.teams.all fun x => match x.2.st with | .waiting _ => false | _ => true) = true) : ¬inDemand s d := by
  rintro (⟨c, y, i, z, h1, -, h2, -, h3⟩ | ⟨k, t, a, b, c, e, r, h1, h2⟩)
  · exact h3 (h _ h1 _ h2)
  · have := List.all_eq_true.1 w _ h1
    simp [h2] at this

/-- A domain counted by dies 2 and 4 under parity 0. -/
def counting (d : Domain) : Domain := { d with counts := [(576 * 2 * 2 + 6, 1), (1, 0)], parked := [(7, 1), (8, 1)] }

/-- Checks with no demand, before every core has acknowledged, within a microsecond of the last, with nothing counted, and with dies 2 and 4
counting, with entries and without; a warning a cycle before its time and at it; a GPWAIT met at once, without time and with a cycle,
and its wait before its deadline and at it. -/
theorem witness_GraceChecksAndWaits :
    ¬inDemand (gracing team [] id) 7 ∧ inDemand (gracing team [5] id) 7 ∧ inDemand (gracing (waitsFor 6 false) [] id) 7 ∧
    (∀ n ∈ [1060, 1061], ((gracing team [5] fun d => { d with lastCheck := some n }).domain 7).lastCheck = some n ∧
      (n + 940 ≤ (gracing team [] id).now ↔ n = 1060)) ∧
    (((gracing team [5] fun d => { d with behind := [3] }).domain 7).behind = [3] ∧ ((gracing team [5] id).domain 7).behind = []) ∧
    (dieCounts ((gracing team [5] counting).domain 7) 0 4 ∧ dieCounts ((gracing team [5] counting).domain 7) 0 2 ∧
      (∀ j, j < 2 → ¬dieCounts ((gracing team [5] counting).domain 7) 0 j)) ∧ (∀ j, j < 8 → ¬dieCounts ((gracing team [5] id).domain 7) 0 j) ∧
    ((gracing team [5] counting).retireSt 0 2).tags = [5] ∧ ((gracing team [] counting).retireSt 0 2).tags = [] ∧
    (∀ n ∈ [120, 121], let s := gracing team [5] fun d => { d with waitSince := some n }
      (s.domain 7).waitSince = some n ∧ FMap.rising s.sched.ctxs = true ∧ (s.ctx 0).wdog = 2 ∧ (s.ctx 3).doms = [] ∧
      (n + 1 * 2 * 940 ≤ s.now ↔ n = 120)) ∧
    (∀ x ∈ [(5, 0), (6, 0), (6, 1), (4, 1)], let s := gracing (graced x.1 x.2) [5] id
      s.issuing = some (graced x.1 x.2) ∧ (graced x.1 x.2).flagRoom hd.fb = true ∧ slotOf s (graced x.1 x.2) 2 = some bound ∧
      scalarInt ((graced x.1 x.2).sreg 6).tag ((graced x.1 x.2).sreg 6).bits = x.1 ∧ scalarInt ((graced x.1 x.2).sreg 7).tag
        ((graced x.1 x.2).sreg 7).bits = x.2) ∧
    slotOf (gracing team [] id) team 3 = none ∧
    (attains 5 5 ∧ attains (2 ^ 32 + 3) (2 ^ 32 - 1) ∧ ¬attains 5 6 ∧ ¬attains 4 5) ∧
    (∀ x ∈ [(5, false), (6, false), (4, true), (6, true)], (gracing (waitsFor x.1 x.2) [5] id).team 256 = some (waitsFor x.1 x.2)) ∧
    (gracing team [] id).now = 2000 := by
  refine ⟨not_inDemand (by decide +kernel) (by decide +kernel), inDemand_of (by decide +kernel),
    .inr ⟨256, waitsFor 6 false, 2, 6, false, 2000, 11, by decide +kernel, rfl, by unfold waitIsMet attains; decide +kernel⟩, by decide +kernel, by decide +kernel,
    ⟨.inl (by decide +kernel), .inr ⟨576 * 2 * 2 + 6, 1, by decide +kernel⟩, ?_⟩, ?_, by decide +kernel, by decide +kernel, by decide +kernel,
    by unfold slotOf; decide +kernel, by unfold slotOf; decide +kernel, by unfold attains; decide +kernel, by decide +kernel, by decide +kernel⟩
  · rintro j hj (h | ⟨k, n, h, h1, h2, h3⟩)
    · revert h; revert j; decide +kernel
    · have : (gracing team [5] counting).domain 7 = counting ((gracing team [5] id).domain 7) := by decide +kernel
      rw [this] at h
      simp only [counting, List.mem_cons, Prod.mk.injEq, List.not_mem_nil, or_false] at h
      omega
  · rintro j hj (h | ⟨k, n, h, -⟩)
    · revert h; revert j; decide +kernel
    · have : ((gracing team [5] id).domain 7).counts = [] := by decide +kernel
      rw [this] at h; cases h

/-- A retire record: an address and a size, an action, a target, a tag and a value. -/
def retireRec (action target tag : Nat) : List Byte :=
  leBytes 8 0x501000 ++ leBytes 8 (5 + action * 2 ^ 32) ++ leBytes 8 target ++ leBytes 8 (tag + 77 * 2 ^ 32)
/-- The chip scratchpad window; a barrier object in it. -/
def chip : Nat := 0x01FFFFFE00000000
def chipObj : Loc := .seg (9 * 2 ^ 20 + 64)
/-- Slot 2 of context 0 with a record in its retire queue at 0x500000, a block in a state at 0x511000 and a barrier object in the chip
scratchpad; what the node keeps of it. -/
def acting (q pool : Qcb) (rec : List Byte) (r : RetireSt) : State :=
  let s := versioned team q []
  let s := { s with now := 2000, mem.dev := load (load s.mem.dev 0x508000 rec) 0x511000 (leBytes 64 (blockBits pool))
                    sched.ctxs := [(0, { ctx0 with doms := [(2, bound)], segs := [9] })] }
  let s := s.withEng fun e => { e with qaux := e.qaux ++ [{ aux with block := .dev 0x511000, commit := [], done := [] }] }
  (s.locWrite none chipObj (leBytes 32 (bar0.toNat 0))).setRetireSt r
def kept (full told : Bool) (next : Nat) : RetireSt := { ctx := 0, slot := 2, tags := [3, 9], nextTry := next, full := full, told := told, row := none }
def plainly (q : Qcb) (rec : List Byte) : State := acting q (block 1 4) rec (kept false false 0)

/-- What the node gets of the queue, and the record it then reads. -/
def nodeServed (s : State) : Option (Loc × Option Nat × Qcb) := (s.serve (agentAt 78 0) bound.queue).1
def nodeReads (s : State) : Option (List Byte) :=
  match (s.serve (agentAt 78 0) bound.queue).2.agentRead (agentAt 78 0) 0x508000 32 with
  | .ok x => some x.1
  | .error _ => none
def errOf {α : Type} : Except LErr α → Option (Nat × Nat)
  | .ok _ => none
  | .error e => some e.cause
theorem err_of {α : Type} {r : Except LErr α} {c : Nat × Nat} (h : errOf r = some c) : ∃ e, r = .error e ∧ e.cause = c := by
  cases r with
  | ok _ => cases h
  | error e => exact ⟨e, rfl, Option.some.inj h⟩

/-- A retire queue that cannot be served, is of another kind, is empty, holds a record that cannot be read, and one whose epoch has not been
reached or just has; the queue held or not, before its next try and at it; each action with a target it can act on, a target of
the wrong sort and one that is not mapped, and a pool block with room at its last place and full. -/
theorem witness_RetireActions :
    (∀ r ∈ [kept false false 0, kept true false 2000, kept false true 2001], let s := acting (retq 1) (block 1 4) (retireRec 1 0x501010 3) r
      FMap.look (s.ctx 0).doms 2 = some bound ∧ (s.ctx 0).st ≠ .free ∧ s.retireSt 0 2 = r ∧ s.now = 2000) ∧
    nodeServed (plainly { retq 1 with rcap := 0 } []) = none ∧
    (∀ q ∈ [block 1 5, retq 0, retq 1], nodeServed (plainly q []) = some (.dev 0x500000, some 0, q)) ∧ (retq 0).tail = (retq 0).claim ∧
    (∃ f, ((plainly { retq 1 with base := 0x40000000 } []).serve (agentAt 78 0) bound.queue).2.agentRead (agentAt 78 0) 0x40000000 32 = .error f) ∧
    (∀ tag ∈ [3, 4], nodeReads (plainly (retq 1) (retireRec 1 0x501010 tag)) = some (retireRec 1 0x501010 tag) ∧
      field (leNat (retireRec 1 0x501010 tag)) 223 192 = tag ∧ (attains 5 (tag + 2) ↔ tag = 3)) ∧
    ((plainly (retq 1) []).domain 7).epoch = 5 ∧ (∀ a, a < 3 → field (leNat (retireRec a 0x501010 3)) 97 96 = a) ∧
    (let s := plainly (retq 1) []
     s.resolve (agentAt 78 0) .wr 4 4 0x501010 = .ok (devPlace 0x501010) ∧
      (∃ e, s.resolve (agentAt 78 0) .wr 4 4 0x501012 = .error e ∧ e.cause = (2, 0)) ∧
      (∃ e, s.resolve (agentAt 78 0) .wr 4 4 0x40000000 = .error e ∧ e.cause = (1, 1)) ∧
      s.resolve (agentAt 78 0) .rmw 32 32 (chip + 64) = .ok (.win chipObj) ∧ (s.bar chipObj).state = 1 ∧
      s.resolve (agentAt 78 0) .rmw 32 32 (chip + 128) = .ok (.win (chipObj.add 64)) ∧ (s.bar (chipObj.add 64)).state = 0 ∧
      s.resolve (agentAt 78 0) .rmw 32 32 0x501000 = .ok (devPlace 0x501000) ∧
      (∃ e, s.resolve (agentAt 78 0) .rmw 32 32 0x501001 = .error e ∧ e.cause = (2, 0)) ∧
      (∃ e, s.resolve (agentAt 78 0) .rmw 64 64 0x511020 = .error e ∧ e.cause = (2, 0)) ∧
      s.resolve (agentAt 78 0) .rmw 64 64 0x511000 = .ok (devPlace 0x511000) ∧
      s.resolve (agentAt 78 0) .rmw 64 64 0x512000 = .ok (devPlace 0x512000) ∧ s.qcb (some 0) (.dev 0x512000) = none) ∧
    (∀ q ∈ [block 0 6, { block 2 6 with resv := 15 }, { block 1 4 with resv := 16 }],
      (acting (retq 1) q [] (kept false false 0)).qcb (some 0) (.dev 0x511000) = some q) := by
  have e : ∃ f, ((plainly { retq 1 with base := 0x40000000 } []).serve (agentAt 78 0) bound.queue).2.agentRead (agentAt 78 0) 0x40000000 32 = .error f := by
    obtain ⟨f, hf, -⟩ := err_of (c := (1, 1)) (r := ((plainly { retq 1 with base := 0x40000000 } []).serve (agentAt 78 0) bound.queue).2.agentRead
      (agentAt 78 0) 0x40000000 32) (by decide +kernel)
    exact ⟨f, hf⟩
  refine ⟨by decide +kernel, by decide +kernel, by decide +kernel, rfl, e, by unfold attains; decide +kernel, by decide +kernel, by decide +kernel,
    ⟨ok_of (by decide +kernel), err_of (by decide +kernel), err_of (by decide +kernel), ok_of (by decide +kernel), by decide +kernel,
      ok_of (by decide +kernel), by decide +kernel, ok_of (by decide +kernel), err_of (by decide +kernel), err_of (by decide +kernel),
      ok_of (by decide +kernel), ok_of (by decide +kernel), by decide +kernel⟩, by decide +kernel⟩

/-- The retire queue with its head's pool row on its way as row 4, and that row in the machine or written. -/
def awaiting (here : Bool) : State :=
  let s := acting (retq 1) (block 1 4) (retireRec 0 0x511000 3) { kept false false 0 with row := some 4 }
  let row := { id := 4, agent := 1000078, ctx := 0, key := some 0, block := .dev 0x511000, index := 0, va := 0x518000
               bytes := [], back := none, faulted := true, nextTry := 0 : Row }
  s.withEng fun e => { e with rows := if here then [row] else [] }
/-- A pool record's target: the value of a record whose action is 0. -/
def poolValue (target : Nat) : Nat := leNat (retireRec 0 target 3)

/-- An entry whose pool row waits and one whose row is written; a pool target in a package that no link reaches, and one of an unaligned
block; a pool whose slot takes the row, and one whose slot faults. -/
theorem witness_RetireActions_rows :
    (∀ b ∈ [true, false], ((awaiting b).retireSt 0 2).row = some 4 ∧ ((∃ y ∈ (awaiting b).eng.rows, y.id = 4) ↔ b = true)) ∧
    (podPages team).resolve (agentAt 78 0) .rmw 64 64 0x500040 = .error .unreachable ∧
    (∃ e, (plainly (retq 1) []).resolve (agentAt 78 0) .rmw 64 64 0x511020 = .error e ∧ e.cause.1 = 2) ∧
    (match (plainly (retq 1) []).act (agentAt 78 0) (poolValue 0x511000) with | .done _ => true | _ => false) = true ∧
    (match (acting (retq 1) { block 1 4 with base := 0x40000000 } [] (kept false false 0)).act (agentAt 78 0) (poolValue 0x511000) with
      | .held _ _ => true | _ => false) = true := by
  obtain ⟨e, he, hc⟩ := err_of (c := (2, 0)) (r := (plainly (retq 1) []).resolve (agentAt 78 0) .rmw 64 64 0x511020) (by decide +kernel)
  exact ⟨by decide +kernel, ends_eq (by decide +kernel), ⟨e, he, by rw [hc]⟩, by decide +kernel, by decide +kernel⟩

end Sys2Proof.Tests
end

