-- ==== Sys2Proof/Tests/WitnessWindow.lean ====
section
/-! SUPPORT. Witnesses: for each statement a concrete state and operands that meet its hypotheses, clause by clause where its clauses
differ: windows, ticks, commands and contexts. -/

namespace Sys2Proof.Tests

open Sys2Proof.Machine Sys2Proof.Demo Sys2Proof.Claim

set_option Elab.async false

/-! ## Hoop windows and ticks (spec/19_window.md) -/

/-- The bits of a window block; a window of 3 pages of 64 rows with a ring of two: stream 5 of port 1, page list at 0x521000, frame index of
16 entries at 0x522000, pool at 0x511000. -/
def wcbBits (w : Wcb) : Nat :=
  w.stream + w.port * 2 ^ 32 + w.reorder * 2 ^ 40 + w.sink * 2 ^ 48 + w.dslot * 2 ^ 52 + w.pgsz * 2 ^ 56 + w.rowsz * 2 ^ 60 +
    (w.pages + w.ficap * 2 ^ 32) * 2 ^ 64 + w.span * 2 ^ 128 + w.plist * 2 ^ 192 + w.fidx * 2 ^ 256 + w.pool * 2 ^ 320 + w.cseq * 2 ^ 384 +
    w.cons * 2 ^ 416 + w.cstamp * 2 ^ 448 + w.nrow * 2 ^ 512 + (w.dup + w.lost * 2 ^ 16 + w.full * 2 ^ 32 + w.bad * 2 ^ 48) * 2 ^ 576 +
    (w.state + w.evict * 2 ^ 32) * 2 ^ 640
def wcb0 : Wcb :=
  { stream := 5, port := 1, reorder := 2, sink := 1, dslot := 2, pgsz := 0, rowsz := 6, pages := 3, ficap := 4, span := 100
    plist := 0x521000, fidx := 0x522000, pool := 0x511000, cseq := 10, cons := 8, cstamp := 1000, nrow := 40, dup := 0, lost := 0, full := 0
    bad := 0, state := 1, evict := 0 }

/-- Frames 9 and 10, complete, stamped 500 and 1000; the open window; its block and page list in memory, with the retire queue at 0x500000,
the pool at 0x511000, a launch record at 0x523000 and its kernel at 0x524000. -/
def frames : List Placed := [{ seq := 9, stamp := 500, first := 0, count := 20 }, { seq := 10, stamp := 1000, first := 20, count := 20 }]
def win0 (placed : List Placed) : Win := { port := 1, stream := 5, ctx := 0, va := 0x520000, placed := placed }
def windowing (t : Team) (w : Wcb) (retq pool : Qcb) (wins : List Win) (record kernel : Nat) : State :=
  let s := queued1 t retq { aux with commit := [], done := [] }
  let dev := load s.mem.dev 0x520000 (leBytes 128 (wcbBits w))
  let dev := load dev 0x521000 (leBytes 24 (0x530000 + 0x531000 * 2 ^ 64 + 0x532000 * 2 ^ 128))
  let dev := load (load dev 0x523000 (leBytes 64 record)) 0x524000 (leBytes 64 kernel)
  let dev := load (load dev 0x511000 (leBytes 64 (blockBits pool))) 0x518000 (leBytes 16 0x533000)
  let s := s.withEng fun e => { e with qaux := e.qaux ++ [{ aux with block := .dev 0x511000, commit := [], done := [] }] }
  { s with mem.dev := dev, sched.parts := [part0], sched.wins := wins, clk := { s.clk with ns := 20000 }
           sched.ctxs := [(0, { ctx0 with doms := [(2, bound)] })] }

/-- A team that names the block, with a record in s5 and the operands of an arm from s6: a first tick, a period, a lag and a hold. -/
def armer (t0 period lag hold : Int) : Team :=
  let t := (devLoader.setS 4 0x520000 10).setS 5 0x523000 10
  (((t.setS 6 (BitVec.ofInt 64 t0) 10).setS 7 (BitVec.ofInt 64 period) 10).setS 8 (BitVec.ofInt 64 lag) 10).setS 9 (BitVec.ofInt 64 hold) 10
/-- That team inside a reader section of the window's domain. -/
def inside (t : Team) : Team := t.setReader 2 { depth := 1, snap := 5 }
def onWindow (e : Nat) : Ec := ec 11 4 6 5 true true 5 e
def retq4 (n : Nat) : Qcb := { block 4 5 with resv := n, tail := n }
def pool0 : Qcb := { block 1 4 with base := 0x518000 }
def fire1 : Nat := recordBits 0 1 0x524000 0 0
/-- The window open with its frames, and a slot armed at a tick. -/
def opened (t : Team) : State := windowing t wcb0 (retq4 0) pool0 [win0 frames] fire1 kernel1
def slot0 : TickSlot :=
  { win := 0x520000, next := 20000, period := 10000, lag := 19000, hold := 500, policy := 0, lrec := 0x523000, part := 0, served := 8, missed := 0
    skip := 0, held := none, cand := none }

theorem windowAt_of {s : State} {t : Team} {r : BitVec 8} {pa : Nat} (h : (t.sreg r.toNat).tag ∈ [10, 2, 12] ∧
    isOk (s.resolveLanes t .rmw 128 128 [(none, (baseOf (t.sreg r.toNat)).toNat)]) [devPlace pa] = true ∧ regionOf pa = .local) :
    windowAt s t r (devPlace pa) (.dev pa) := ⟨h.1, ok_of h.2.1, rfl, _, pa, rfl, h.2.2⟩

/-- What the scheduler reads of the launch record, and of its kernel. -/
def armed (s : State) : State := (s.usePlaces (armer 0 10000 0 0) .rmw [devPlace 0x520000]).meetHome 0 (devPlace 0x520000)
def armReads (s : State) : Option (Nat × Option (KHdr × Bool)) :=
  match (armed s).agentRead (agentAt 80 0) 0x523000 64 with
  | .ok x => some (leNat x.1, (x.2.readHeader 0 (field (leNat x.1) 127 64)).map fun y => (y.1, decide (y.1.footprint ≤ y.2.spaceOf 0 0)))
  | .error _ => none
def closed0 : Wcb := { wcb0 with state := 0 }
def rangeOf (n last : Nat) (s : State) : State :=
  s.modGang 1 fun g => { g with src := { g.src with range := some { first := 9, count := n, last := last } } }
def crowdOf (n : Nat) : List Win := (List.range n).map fun i => { win0 [] with va := 64 * i, stream := i + 6 }

/-- An armed slot and a free one; the operands of an arm at their limits and past them, on an open window, a malformed block and one that
is not open, with a record that passes and those that fail; a closed window with a port's last place and none; ranges of none, one
and two frames; a release at CONS, at CSEQ and past each; a retire queue with exactly the room and short of it. -/
theorem witness_WindowInstructions :
    (∀ x ∈ [(10000, 0), (2 ^ 40, 2 ^ 40), (9999, 0), (10000, -1)], let t := armer 5000 x.1 x.2 9999
      (opened t).issuing = some t ∧ t.flagRoom hd.fb = true ∧ windowAt (opened t) t 4 (devPlace 0x520000) (.dev 0x520000) ∧ (t.sreg 5).tag = 10 ∧
      (∀ i, i < 4 → intTagged (t.sreg (6 + i))) ∧ scalarInt (t.sreg 7).tag (t.sreg 7).bits = x.1 ∧ scalarInt (t.sreg 8).tag (t.sreg 8).bits = x.2 ∧
      scalarInt (t.sreg 9).tag (t.sreg 9).bits = 9999) ∧
    ((opened team).locNat (some 0) (.dev 0x520000) 128 = wcbBits wcb0 ∧ windowOf (wcbBits wcb0) = wcb0) ∧
    (goodWindow (wcbBits wcb0) ∧ ¬goodWindow (wcbBits { wcb0 with sink := 0 }) ∧ goodWindow (wcbBits closed0)) ∧
    ((armed (opened team)).openWin 0 0x520000 = some (win0 frames) ∧ (armed (windowing team wcb0 (retq4 0) pool0 [] fire1 kernel1)).openWin 0 0x520000 = none) ∧
    (armReads (opened team) = some (fire1, some (hk, true)) ∧ ¬badRecord fire1 ∧ field fire1 3 0 = 0 ∧ field fire1 63 32 = 1) ∧
    (armReads (windowing team wcb0 (retq4 0) pool0 [win0 frames] (recordBits 0 2 0x524000 0 0) kernel1)).map (fun x => field x.1 63 32) = some 2 ∧
    (armReads (windowing team wcb0 (retq4 0) pool0 [win0 frames] fire1 0)).map (·.2) = some none ∧
    ((armReads (windowing team wcb0 (retq4 0) pool0 [win0 frames] fire1 (kernelBits 1024 16 8))).bind (·.2)).map (·.2) = some false ∧
    (firstAt 20000 10000 20000 20000 ∧ firstAt 5000 10000 20000 25000 ∧ firstAt 20001 10000 20000 20001) ∧
    (FMap.look (((opened team).modCtx 0 fun c => { c with ticks := [(2, slot0)] }).ctx 0).ticks 2 ≠ none ∧ FMap.look ((opened team).ctx 0).ticks 2 = none) ∧
    ((crowdOf 31).all (fun z => z.port == 1 && z.stream != 5) = true ∧ ((crowdOf 32).filter fun z => z.port == 1).length = 32) ∧
    FMap.look ((opened team).ctx 0).doms 2 = some bound ∧ bound.kind = 3 ∧
    (scanned frames 499 8 2 0 ∧ scanned frames 500 8 2 1 ∧ scanned frames 1000 8 2 2 ∧ (ahead 10 8).toNat = 2) ∧
    ((team.reader 2).depth = 0 ∧ ((inside team).reader 2).depth = 1) ∧
    ((gang1 (opened team)).src.range = none ∧ ((gang1 (rangeOf 0 8 (opened team))).src.range).map (·.count) = some 0 ∧
      ((gang1 (rangeOf 2 10 (opened team))).src.range).map (·.count) = some 2) ∧
    (attains 8 8 ∧ attains 10 10 ∧ ¬attains 7 8 ∧ ¬attains 10 11) ∧
    (∀ q ∈ [retq4 13, retq4 14, block 1 5],
      ((atBlock (windowing team wcb0 q pool0 [win0 frames] fire1 kernel1) team .rmw (onWindow 0) (devPlace 0x520000)).serve (agentAt 78 0) 0x500000).1 =
        some (.dev 0x500000, some 0, q)) ∧
    ((atBlock (windowing team wcb0 { retq4 0 with rcap := 0 } pool0 [win0 frames] fire1 kernel1) team .rmw (onWindow 0) (devPlace 0x520000)).serve
      (agentAt 78 0) 0x500000).1 = none ∧
    ((retq4 13).resv + wcb0.pages = (retq4 13).head + 2 ^ (retq4 13).rcap ∧ (retq4 14).head + 2 ^ (retq4 14).rcap < (retq4 14).resv + wcb0.pages) := by
  have f : ∀ {lim : Int} {k : Nat}, (k ≤ 2 ∧ (∀ j < 3, 1 ≤ j → j ≤ k → ∀ p ∈ frames.find? (fun p => p.seq == (8 + j) % 2 ^ 32), (p.stamp : Int) ≤ lim) ∧
      (k = 2 ∨ ∃ p ∈ frames, frames.find? (fun p => p.seq == (8 + (k + 1)) % 2 ^ 32) = some p ∧ lim < (p.stamp : Int))) → scanned frames lim 8 2 k :=
    fun ⟨h1, h2, h3⟩ => ⟨h1, fun j p a b c => h2 j (by omega) a b p (by simpa using c), h3.imp id fun ⟨p, _, h⟩ => ⟨p, h⟩⟩
  refine ⟨?_, by decide +kernel, by unfold goodWindow; decide +kernel, by decide +kernel, ⟨by decide +kernel, by unfold badRecord; decide +kernel, by decide +kernel⟩,
    by decide +kernel, by decide +kernel, by decide +kernel, ⟨⟨0, by decide⟩, ⟨2, by decide⟩, ⟨0, by decide⟩⟩, by decide +kernel, by decide +kernel,
    by decide +kernel, rfl, ⟨f ⟨by decide, by decide, .inr (by decide)⟩, f ⟨by decide, by decide, .inr (by decide)⟩,
      f ⟨by decide, by decide, .inl rfl⟩, by decide⟩, by decide +kernel, by decide +kernel, by unfold attains; decide +kernel, by decide +kernel,
    by decide +kernel, by decide⟩
  intro x hx
  refine ⟨?_, ?_, windowAt_of ?_, ?_, ?_, ?_, ?_, ?_⟩ <;> revert x <;> (try unfold intTagged) <;> decide +kernel

/-- The machine with the open window, a clock, a tick slot 3 changed and the frames that wait. -/
def clocked (f : Clock → Clock) : State := { opened team with clk := f (opened team).clk }
def ticking (f : TickSlot → TickSlot) (wins : List Win) (record kernel : Nat) : State :=
  (windowing team wcb0 (retq4 0) pool0 wins record kernel).modCtx 0 fun c => { c with ticks := [(3, f slot0)] }
def tick3 (f : TickSlot → TickSlot) : State := ticking f [win0 frames] fire1 kernel1
/-- A frame of rows: rows, stream, sequence number, log2 of the row size and bytes beyond its rows. -/
def frameOf (rows stream seq rowlog extra : Nat) : Frame :=
  { port := 1, udp := 0, payload := leBytes 32 (1 + rows * 2 ^ 16 + stream * 2 ^ 32 + 1100 * 2 ^ 64 + seq * 2 ^ 128 + rowlog * 2 ^ 160) ++
      List.replicate (rows * 2 ^ rowlog + extra) 1 }
def frameBits (f : Frame) : Nat := leNat (f.payload.take 32)
def arrived (f : Frame) (s : State) : State := s.withSched fun y => { y with frames := [{ ctx := 0, va := 0x520000, frame := f }] }
def frameAt (w : Wcb) (placed : List Placed) (pool retq : Qcb) (seq rowlog : Nat) : State :=
  arrived (frameOf 1 5 seq rowlog 0) (windowing team w retq pool [win0 placed] fire1 kernel1)
/-- A window whose ring is full: its next row enters the first ring page, whose rows' newest stamp is given. -/
def wrapped : Wcb := { wcb0 with nrow := 192, cons := 10, state := 2 }
def wrappedAt (stamp : Nat) (pool retq : Qcb) : State :=
  frameAt wrapped [{ seq := 9, stamp := 500, first := 60, count := 20 }, { seq := 10, stamp := stamp, first := 127, count := 65 }] pool retq 11 6
def engineOf : Who := windowWho 1 0

def snd_of {ε α β : Type} (r : Except ε (α × β)) (d : β) : β := match r with | .ok x => x.2 | .error _ => d
theorem ok_snd {ε α β : Type} [BEq α] [LawfulBEq α] {r : Except ε (α × β)} {v : α} (d : β) (h : isOkFst r v = true) : r = .ok (v, snd_of r d) := by
  obtain ⟨x, hx⟩ := ok_fst h
  rw [hx]; rfl

/-- Messages 10 ns off and just past, before and after the first lock; a second without one; frames of another port, malformed, of no
window and of the window; a tick at its time and before it, held, with a gang not yet placed, without its window, with each lag
at which a frame joins its range; its record unreachable, and one that passes; a hold at its end. -/
theorem witness_WindowEvents_ticks : ((clocked id).clk.ns = 20000 ∧ (clocked id).clk.frac = 0 ∧ (clocked id).clk.ever = false ∧ (clocked id).clk.locked = false) ∧
    ((clocked fun k => { k with ever := true, locked := true }).clk.ever = true) ∧
    (((20010 * 2 ^ 16 : Nat) : Int) - (20000 * 2 ^ 16 : Nat) = 10 * 2 ^ 16 ∧ ((20010 * 2 ^ 16 + 1 : Nat) : Int) - (20000 * 2 ^ 16 : Nat) = 10 * 2 ^ 16 + 1) ∧
    (∀ n ∈ [939999999, 940000000], let s := { clocked fun k => { k with locked := true } with now := n }
      s.clk.locked = true ∧ (s.clk.lastSync + 940000000 ≤ s.now ↔ n = 940000000)) ∧
    ((opened team).timePort 1).udp = 0 ∧ (let f := frameOf 64 5 11 6 0
      32 ≤ f.payload.length ∧ field (frameBits f) 15 0 = 1 ∧ field (frameBits f) 31 16 = 64 ∧ field (frameBits f) 163 160 = 6 ∧
      field (frameBits f) 255 164 = 0 ∧ f.payload.length = 32 + 64 * 2 ^ 6 ∧ field (frameBits f) 63 32 = 5) ∧
    (frameOf 64 5 11 6 1).payload.length ≠ 32 + 64 * 2 ^ 6 ∧ field (frameBits (frameOf 65 5 11 6 0)) 31 16 = 65 ∧
    ((opened team).sched.wins.find? fun z => z.port == 1 && z.stream == 5) = some (win0 frames) ∧
    ((opened team).sched.wins.find? fun z => z.port == 1 && z.stream == 6) = none ∧
    FMap.look ((opened team).ctx 0).ticks 3 = none ∧ FMap.look ((tick3 id).ctx 0).ticks 3 = some slot0 ∧
    (slot0.next = (tick3 id).clk.ns ∧ slot0.held = none ∧ (tick3 id).noFrames 0 0x520000 = true) ∧
    (arrived (frameOf 1 5 11 6 0) (tick3 id)).noFrames 0 0x520000 = false ∧
    (∀ e ∈ [20000, 20001], ((FMap.look ((tick3 fun x => { x with held := some e }).ctx 0).ticks 3).bind (·.held)) = some e) ∧
    ((tick3 id).openWin 0 0x520000 = some (win0 frames) ∧ (tick3 id).winAt (win0 frames) = some ⟨.dev 0x520000, some 0, wcb0⟩ ∧
      (ticking id [] fire1 kernel1).openWin 0 0x520000 = none) ∧
    (scanned frames 499 8 2 0 ∧ scanned frames 500 8 2 1 ∧ scanned frames 1000 8 2 2 ∧ (ahead 10 8).toNat = 2 ∧ wcb0.cstamp = 1000) ∧
    (∃ e, (ticking (fun x => { x with lrec := 0x40000000 }) [win0 frames] fire1 kernel1).agentRead (agentAt 80 0) 0x40000000 64 = .error e ∧ e.cause = (1, 1)) ∧
    (∃ v h u, tickPasses (tick3 id) 0 0 0x523000 v h u) := by
  have f : ∀ {lim : Int} {k : Nat}, (k ≤ 2 ∧ (∀ j < 3, 1 ≤ j → j ≤ k → ∀ p ∈ frames.find? (fun p => p.seq == (8 + j) % 2 ^ 32), (p.stamp : Int) ≤ lim) ∧
      (k = 2 ∨ ∃ p ∈ frames, frames.find? (fun p => p.seq == (8 + (k + 1)) % 2 ^ 32) = some p ∧ lim < (p.stamp : Int))) → scanned frames lim 8 2 k :=
    fun ⟨h1, h2, h3⟩ => ⟨h1, fun j p a b c => h2 j (by omega) a b p (by simpa using c), h3.imp id fun ⟨p, _, h⟩ => ⟨p, h⟩⟩
  have r : ∃ v h u, tickPasses (tick3 id) 0 0 0x523000 v h u :=
    ⟨fire1, hk, (((snd_of ((tick3 id).agentRead (agentAt 80 0) 0x523000 64) (tick3 id)).readHeader 0 (field fire1 127 64)).getD (hk, tick3 id)).2,
      leBytes 64 fire1, _, ok_snd (tick3 id) (by decide +kernel), by decide +kernel, by unfold badRecord; decide +kernel, by decide +kernel, by decide +kernel⟩
  (repeat' with_reducible apply And.intro) <;> first
    | decide +kernel | exact f ⟨by decide, by decide, .inr (by decide)⟩ | exact f ⟨by decide, by decide, .inl rfl⟩
    | exact err_of (by decide +kernel) | exact r

/-- A slot that a step of the time base passes over to 45,000 ns: with no fire held, and with one. -/
def passing0 (held : Option Nat) (skip : Nat) : TickSlot := { slot0 with held := held, skip := skip }

/-- A message behind the time base before the first lock, by more than 10 ns; a slot at its tick, passed over, with a fire held and
without, once and again; a limit at CSTAMP, below it, and negative with a complete frame and with none. -/
theorem witness_WindowEvents_time :
    ((clocked id).clk.ever = false ∧ (clocked id).clk.locked = false ∧
      ((19000 * 2 ^ 16 : Nat) : Int) - (20000 * 2 ^ 16 : Nat) < -(10 * 2 ^ 16)) ∧
    (passedOver 20000 (passing0 none 0) (passing0 none 0) ∧
      passedOver 45000 (passing0 none 0) { passing0 none 0 with next := 40000, missed := 2 } ∧
      passedOver 45000 (passing0 (some 46000) 0) { passing0 (some 46000) 0 with skip := 1, missed := 1 } ∧
      passedOver 55000 (passing0 (some 56000) 1) { passing0 (some 56000) 1 with skip := 2, missed := 1 } ∧
      passedOver 25000 (passing0 (some 56000) 1) { passing0 (some 56000) 1 with skip := 1, missed := 0 }) ∧
    ((nextTick (passing0 (some 46000) 1)).next = 40000 ∧ (nextTick (passing0 (some 46000) 1)).held = none) ∧
    (aboveLimit frames wcb0 999 ∧ ¬aboveLimit frames wcb0 1000 ∧ aboveLimit [{ seq := 1, stamp := 0, first := 0, count := 5 }]
        { wcb0 with cstamp := 0, cseq := 1 } (-1) ∧
      ¬aboveLimit [] { wcb0 with cstamp := 0, cseq := 0 } (-1)) := by
  refine ⟨by decide +kernel, ⟨?_, ?_, ?_, ?_, ?_⟩, by decide, ?_, ?_, ?_, ?_⟩
  · exact ⟨fun _ => rfl, fun h => absurd h (by decide)⟩
  · exact ⟨fun h => absurd h (by decide), fun _ _ => ⟨fun _ => by decide, fun h => absurd rfl h⟩⟩
  · exact ⟨fun h => absurd h (by decide), fun _ _ => ⟨fun h => absurd h (by decide), fun _ => by decide⟩⟩
  · exact ⟨fun h => absurd h (by decide), fun _ _ => ⟨fun h => absurd h (by decide), fun _ => by decide⟩⟩
  · exact ⟨fun h => absurd h (by decide), fun _ _ => ⟨fun h => absurd h (by decide), fun _ => by decide⟩⟩
  · exact ⟨by decide, .inl (by decide)⟩
  · exact fun h => absurd h.1 (by decide)
  · exact ⟨by decide, .inr ⟨_, List.mem_cons_self, by decide, by unfold attains; decide⟩⟩
  · rintro ⟨-, h | ⟨q, h, -⟩⟩
    · exact h rfl
    · cases h

/-- A window with no frame; one whose block is not mapped; a frame with another row size, one known, one at the end of the index and past
it; one that enters no reused page, with an index that is not mapped, and that enters one: not evictable by one, without a record
in the pool, without room in the retire queue, and with both; pages of which one is not mapped. -/
theorem witness_WindowEvents_frames : ((opened team).sched.wins[0]? = some (win0 frames) ∧ (opened team).sched.wins[1]? = none ∧ (opened team).frameFor (win0 frames) = none) ∧
    (∀ x ∈ [(7, 11), (6, 10), (6, 11), (6, 24), (6, 25)], let s := frameAt wcb0 frames pool0 (retq4 0) x.2 x.1
      s.frameFor (win0 frames) = some { ctx := 0, va := 0x520000, frame := frameOf 1 5 x.2 x.1 0 } ∧
      s.winAt (win0 frames) = some ⟨.dev 0x520000, some 0, wcb0⟩ ∧
      frameHdr (frameOf 1 5 x.2 x.1 0).payload = some { rows := 1, stream := 5, stamp := 1100, seq := x.2, rowlog := x.1 }) ∧
    (frameAt wcb0 frames pool0 (retq4 0) 11 6).winPlace engineOf 0x520000 = .ok (devPlace 0x520000) ∧
    (∃ e, (frameAt wcb0 frames pool0 (retq4 0) 11 6).resolve engineOf .rmw 128 128 0x40000000 = .error e ∧ e.cause = (1, 1)) ∧
    (ahead 10 10 = 0 ∧ ahead 24 8 = 2 ^ wcb0.ficap ∧ (2 ^ wcb0.ficap : Int) < ahead 25 8 ∧ ¬∃ q ∈ frames, q.seq = 11) ∧
    (wcb0.fresh 1 = [] ∧ wrapped.fresh 1 = [192] ∧ lostBefore wcb0 frames 11 = [] ∧ lostBefore wcb0 frames 14 = [11]) ∧
    ((frameAt wcb0 frames pool0 (retq4 0) 11 6).winReachAll engineOf .wr 24 [wcb0.entryVa 11] = .ok () ∧
      ∃ e, (frameAt wcb0 frames pool0 (retq4 0) 11 6).winReachAll engineOf .wr 24 [0x40000000] = .error e) ∧
    ((frameAt wcb0 frames pool0 (retq4 0) 11 6).winPages engineOf wcb0 none [] [0] = .ok [(0, 0x530000)] ∧
      ∃ e, (frameAt { wcb0 with plist := 0x40000000 } frames pool0 (retq4 0) 11 6).winPages engineOf { wcb0 with plist := 0x40000000 } none [] [0] = .error e) ∧
    (∀ x ∈ [899, 900], (wrapped.evictable [{ seq := 9, stamp := 500, first := 60, count := 20 }, { seq := 10, stamp := x, first := 127, count := 65 }] 192 = true ↔ x = 899)) ∧
    (((wrappedAt 899 pool0 (retq4 0)).poolAt engineOf wrapped 1).1 = some (.dev 0x511000, some 0, pool0) ∧
      ((wrappedAt 899 { pool0 with tail := 0 } (retq4 0)).poolAt engineOf wrapped 1).1 = none) ∧
    (((wrappedAt 899 pool0 (retq4 15)).retireRoom 0 bound).1 = 1 ∧ ((wrappedAt 899 pool0 (retq4 16)).retireRoom 0 bound).1 = 0) ∧
    (wrappedAt 899 pool0 (retq4 15)).winPages engineOf wrapped (some pool0) [1] [1] = .ok [(1, 0x533000)] := by
  have e : ∀ {α β : Type} {r : Except β α}, (match r with | .ok _ => false | .error _ => true) = true → ∃ e, r = .error e := by
    intro α β r h
    cases r with
    | ok _ => cases h
    | error x => exact ⟨x, rfl⟩
  refine ⟨by decide +kernel, by decide +kernel, ok_of (by decide +kernel), err_of (by decide +kernel), by decide +kernel, by decide +kernel,
    ⟨ok_of (by decide +kernel), e (by decide +kernel)⟩, ⟨ok_of (by decide +kernel), e (by decide +kernel)⟩, by decide +kernel, by decide +kernel,
    by decide +kernel, ok_of (by decide +kernel)⟩
/-! ## Commands (spec/18_context.md, spec/20_link.md R408) -/

/-- A state in which the next command of function f has an operation, a context and three operands; one in which no command waits. -/
def commanded (s : State) (f v c x y w : Nat) : State :=
  let bs := leBytes 8 (v + c * 2 ^ 8) ++ leBytes 8 x ++ leBytes 8 y ++ leBytes 8 w
  { s with mem.host := load [] 0x1040 bs
           host.funcs := FMap.put s.host.funcs f { cmdbase := 0x1000, cmdsize := 4, cmdprod := 18, cmdcons := 17 } }

/-- Function 1 owns context 3, which is in a state; gang 1 is of it, with a halted, a parked, an ended and a ready team in group 0. -/
def ctx3 (st : CtxState) : Ctx := { ctx0 with st := st, func := 1, errcap := 6 }
def gangOf3 (st : CtxState) (f : Gang → Gang) : State :=
  let s := (mates [.halted, .parked .replay, .ended, .ready]).modGang 1 fun g =>
    f { g with src := { g.src with ctx := 3, hdr := { g.src.hdr with teams := 5 } } }
  let s := s.modTeam 257 fun t => { t with st := .parked .replay }
  let s := s.modTeam 256 fun t => { t with st := .halted }
  { s with sched.ctxs := [(3, ctx3 st)], sched.parts := [part0] }

theorem none_waits {s : State} {f : Nat} (h : (s.func f).cmdprod = (s.func f).cmdcons) : noCommand s f :=
  fun _ _ _ _ _ hn => hn.2.2.2.1 h

/-- A command of function 1 for context 3 on the gangs of `gangOf3`; a team that issues CTXQ with operands in s20 to s22. -/
def commanded3 (st : CtxState) (v x y w : Nat) : State := commanded (gangOf3 st id) 1 v 3 x y w
def asksCtx (a b c : Int) : Team :=
  { ((((idle id).setS 20 (BitVec.ofInt 64 a) 10).setS 21 (BitVec.ofInt 64 b) 10).setS 22 (BitVec.ofInt 64 c) 10) with clause := some (oneWord 0), pc := 8 }
def asking (t : Team) : State := { (gangOf3 .running id).setTeam t with running := [(0, 256, 0)] }
def removing : State := (gangOf3 .running id).withSched fun q => { q with invals := [{ func := 1, ctx := 3, va := 0x1000, len := 4096 }] }

/-- No command; a command of each operation of the table; one of another function's context; for each clause of what a command does, a
context and a gang in which it is so, at the bounds of its operands; an INVAL to complete; CTXQ with tagged operands and without. -/
theorem witness_CommandsOnGangs : noCommand (gangOf3 .running id) 1 ∧
    (∀ v ∈ [0, 1, 2, 3, 4, 5, 11], nextCommand (commanded3 .running v 1 0 1) 1 v 3 1 0 1) ∧
    (mayNot (commanded (gangOf3 .running id) 2 0 3 1 0 1) 2 3 ∧ ¬mayNot (commanded3 .running 0 1 0 1) 1 3) ∧
    (let s := commanded3 .running 0 1 0 1
     let s' := commanded3 .draining 1 1 0 1
     commandDoes s none 3 0 1 0 1 0 (stateWordOf s 3) s ∧ commandDoes s' none 3 1 1 0 1 1 0 s' ∧
      commandDoes s none 3 1 2 0 1 2 0 s ∧ commandDoes s none 3 5 2 0 1 0 (errCounts s 3) s ∧ commandDoes s none 3 4 0x1000 4095 1 3 0 s ∧
      commandDoes s none 3 4 0x1000 (2 ^ 57) 1 0 0 (s.invalidate 3 0x1000 (2 ^ 57)) ∧
      commandDoes s none 3 1 1 5 1 3 0 s ∧ commandDoes s none 3 1 1 256 1 3 0 s ∧
      (∃ t, (s.teamsOfGroup 1 0).find? (·.index == 0) = some t ∧ commandDoes s none 3 1 1 0 1 0 0 (s.resume t 1)) ∧
      commandDoes s none 3 1 1 4 1 1 0 s ∧ commandDoes s none 3 2 1 1 1 3 0 s ∧
      (∃ z, commandDoes s none 3 2 1 0 1 0 0 z) ∧ (∃ z, commandDoes s none 3 3 1 0 1 0 0 z) ∧ commandDoes s (some 1) 3 3 1 0 1 1 0 s ∧
      (∃ z, commandDoes s none 3 11 1 0 1 0 0 z)) ∧
    (removing.sched.invals[0]? = some { func := 1, ctx := 3, va := 0x1000, len := 4096 } ∧ removing.sched.invals[1]? = none) ∧
    (∀ op, op < 6 → (asking (asksCtx 1 1 7)).issuing = some (asksCtx 1 1 7) ∧ (asksCtx 1 1 7).flagRoom hd.fb = true ∧ (sys 11 20 op 0).imm.toNat = op ∧
      ∀ j, j < 3 → ((asksCtx 1 1 7).sreg ((sys 11 20 op 0).a.toNat + j)).tag = 10) ∧
    ((asksCtx 1 1 7).setS 22 0 3 |>.sreg 22).tag ∉ [10, 1, 2, 12] := by
  have live : isLive (commanded3 .running 0 1 0 1) 3 := by unfold isLive; decide +kernel
  have g : (commanded3 .running 0 1 0 1).gang 1 = some (gang1 (commanded3 .running 0 1 0 1)) := by decide +kernel
  have gc : (gang1 (commanded3 .running 0 1 0 1)).src.ctx = 3 := by decide +kernel
  have one := fun {P : Gang → Prop} (h : P (gang1 (commanded3 .running 0 1 0 1))) => (⟨_, g, gc, h⟩ :
    ∃ x, (commanded3 .running 0 1 0 1).gang 1 = some x ∧ x.src.ctx = 3 ∧ P x)
  refine ⟨none_waits (by decide +kernel), by unfold nextCommand; decide +kernel, by unfold mayNot; decide +kernel, ?_, by decide +kernel, by decide +kernel,
    by decide +kernel⟩
  refine ⟨.inl ⟨rfl, rfl, rfl, rfl⟩, .inr (.inl ⟨by decide, by unfold isLive; decide +kernel, rfl, rfl, rfl⟩), .inr (.inr ⟨live, .inl ⟨by decide, ?_, rfl, rfl, rfl⟩⟩),
    .inr (.inr ⟨live, .inr (.inl ⟨rfl, rfl, rfl, rfl⟩)⟩), .inr (.inr ⟨live, .inr (.inr (.inl ⟨rfl, by decide, rfl, rfl, rfl⟩))⟩),
    .inr (.inr ⟨live, .inr (.inr (.inr (.inl ⟨rfl, by decide, by decide, by decide, rfl, rfl, rfl⟩)))⟩), ?_, ?_, ?_, ?_, ?_, ?_, ?_, ?_, ?_⟩
  · intro x hx
    have : (commanded3 .running 0 1 0 1).gang 2 = none := by decide +kernel
    rw [this] at hx; cases hx
  all_goals refine' _
  · exact .inr (.inr ⟨live, .inr (.inr (.inr (.inr (one (.inl ⟨rfl, by decide +kernel, rfl, rfl, rfl⟩)))))⟩)
  · exact .inr (.inr ⟨live, .inr (.inr (.inr (.inr (one (.inl ⟨rfl, by decide +kernel, rfl, rfl, rfl⟩)))))⟩)
  · refine ⟨((((commanded3 .running 0 1 0 1).teamsOfGroup 1 0).find? (·.index == 0)).getD team), by decide +kernel,
      .inr (.inr ⟨live, .inr (.inr (.inr (.inr (one (.inr (.inl ⟨rfl, by decide, by decide +kernel, by decide +kernel, _, ?_,
        .inl ⟨by decide +kernel, by decide +kernel, rfl, rfl, rfl⟩⟩))))))⟩)⟩
    decide +kernel
  · exact .inr (.inr ⟨live, .inr (.inr (.inr (.inr (one (.inr (.inl ⟨rfl, by decide, by decide +kernel, by decide +kernel,
      ((((commanded3 .running 0 1 0 1).teamsOfGroup 1 0).find? (·.index == 4)).getD team), by decide +kernel, .inr ⟨.inr (by decide +kernel), rfl, rfl, rfl⟩⟩))))))⟩)
  · exact .inr (.inr ⟨live, .inr (.inr (.inr (.inr (one (.inr (.inr (.inl ⟨rfl, by decide +kernel, rfl, rfl, rfl⟩)))))))⟩)
  · exact ⟨_, .inr (.inr ⟨live, .inr (.inr (.inr (.inr (one (.inr (.inr (.inr (.inr (.inl ⟨rfl, by decide +kernel, by decide +kernel, by decide +kernel, rfl, rfl, rfl⟩)))))))))⟩)⟩
  · exact ⟨_, .inr (.inr ⟨live, .inr (.inr (.inr (.inr (one (.inr (.inr (.inr (.inr (.inr (.inr (.inl ⟨rfl, by decide +kernel, by decide, rfl, rfl, rfl⟩)))))))))))⟩)⟩
  · exact .inr (.inr ⟨live, .inr (.inr (.inr (.inr (one (.inr (.inr (.inr (.inr (.inr (.inl ⟨rfl, .inr rfl, rfl, rfl, rfl⟩))))))))))⟩)
  · exact ⟨_, .inr (.inr ⟨live, .inr (.inr (.inr (.inr (one (.inr (.inr (.inr (.inr (.inr (.inr (.inr (.inr ⟨rfl, by decide +kernel, rfl, rfl, rfl⟩))))))))))))⟩)⟩

/-! ## The life of a context (spec/18_context.md) -/

/-- A descriptor of a function with an own key slot, an error record of 64 entries and a segment table; the bits of a partition's on clusters. -/
def descBits (key func segTab segs : Nat) : Nat :=
  key + func * 2 ^ 8 + 2 * 2 ^ 32 + 0x400000 * 2 ^ 64 + 0x300000 * 2 ^ 384 + 0x200000000000 * 2 ^ 448 + (1 + 6 * 2 ^ 32) * 2 ^ 512 +
    segTab * 2 ^ 576 + segs * 2 ^ 640 + (7 + 3 * 2 ^ 6 + 2 ^ 8 + 0x500000 * 2 ^ 64) * 2 ^ 768
def partBits (lq : Nat) (clusters : List Nat) : Nat := lq + 1 * 2 ^ 64 + (clusters.map fun c => 2 ^ (128 + c)).foldl (· + ·) 0
/-- Context 3 of function 1 in a state, with partition 2 on clusters 4 and 5, its gang or none, a descriptor at 0x600000, a segment table
at 0x601000 and a wrapped key; the next command of a function. -/
def lifeOf (st : CtxState) (withGang : Bool) (desc : Nat) (table : List Nat) : State :=
  let s := gangOf3 st id
  let s := if withGang then s else { s with gangs := [], teams := [], running := [] }
  { s with mem.dev := load (load [] 0x600000 (leBytes 256 desc)) 0x601000 (table.flatMap (leBytes 4))
           sched.parts := [{ num := 2, ctx := 3, lq := 0x500000, prio := 0, clusters := [4, 5] }, { num := 3, ctx := 3, lq := 0, prio := 0, clusters := [5] }]
           sched.holders := [(9, 1)] }
def good0 : Nat := descBits 9 1 0x601000 2
def commandOf (v f c x y w desc : Nat) (table : List Nat) (st : CtxState) (withGang : Bool) : State :=
  commanded (lifeOf st withGang desc table) f v c x y w
def carve5 : Carve := { func := 2, part := 3, ways := 5, deadline := 10 }
def carving (busy : Bool) : State :=
  let s := (lifeOf .running true 0 []).withSched fun z => { z with carves := [carve5] }
  { s with now := 10, gangs := s.gangs.map fun g => (g.1, { g.2 with groups := g.2.groups.map fun x => { x with core := 40, base := if busy then allocSpace 5 else 0, size := 32 } }) }

theorem goodDescriptor_of {s : State} {c v : Nat}
    (h1 : field v 7 7 = 0 ∧ field v 31 14 = 0 ∧ field v 127 120 = 0 ∧ field v 447 440 = 0 ∧ field v 511 504 = 0 ∧ field v 575 549 = 0 ∧
      field v 639 632 = 0 ∧ field v 703 653 = 0 ∧ field v 767 704 = 0 ∧ (∀ i, i < 4 → field v (8 * (96 + 16 * i) + 63) (8 * (96 + 16 * i) + 9) = 0) ∧
      v / 2 ^ 1280 = 0) (h2 : holdsKey s (contextOf v []).func (contextOf v []).key)
    (h3 : ∀ p ∈ s.sched.ctxs, p.2.st ≠ .free → p.1 = c ∨ p.2.key ≠ (contextOf v []).key)
    (h4 : ∀ k, k < 128 → k ≠ (contextOf v []).key → (contextOf v []).keyshr.testBit k = true → holdsKey s (contextOf v []).func k)
    (h5 : ∀ p ∈ s.sched.ctxs, p.2.st ≠ .free → p.2.func = (contextOf v []).func ∨ ∀ d ∈ (contextOf v []).doms, ∀ e ∈ p.2.doms, e.2.dom ≠ d.2.dom)
    (h6 : (contextOf v []).root % 2 ^ 22 = 0 ∧ 6 ≤ (contextOf v []).errcap ∧ (contextOf v []).errcap ≤ 16 ∧ (contextOf v []).errec % 4096 = 0 ∧
      inDevice (contextOf v []).errec 1 = true ∧ (contextOf v []).save % 65536 = 0 ∧ 1 ≤ (contextOf v []).saveSize ∧
      inSaveStore (contextOf v []).save 1 = true ∧ field v (8 * 80 + 12) (8 * 80) ≤ 4096 ∧ (c = 0 → (contextOf v []).func = 0) ∧
      (field v (8 * 80 + 12) (8 * 80) = 0 ∨ regionOf (field v (8 * 72 + 55) (8 * 72)) ≠ .reserved ∧ reachable (field v (8 * 72 + 55) (8 * 72)) = true) ∧
      ∀ e ∈ s.segTable (field v (8 * 72 + 55) (8 * 72)) (field v (8 * 80 + 12) (8 * 80)), field e 8 0 < 288 ∧ field e 15 9 = 0 ∧ field e 31 19 = 0) :
    goodDescriptor s c v := by
  obtain ⟨a1, a2, a3, a4, a5, a6, a7, a8, a9, a10, a11⟩ := h1
  exact ⟨a1, a2, a3, a4, a5, a6, a7, a8, a9, a10, a11, h2, fun k y hk hf => h3 (k, y) hk hf, h4, fun k y hk hf => h5 (k, y) hk hf, h6⟩

/-- Its gang in a state, with a kill that waits for its image or not. -/
def dyingOf (st : GangState) (waits : Bool) : State := (commanded3 .running 3 1 0 1).modGang 1 fun g => { g with st := st, kill := waits }

/-- A gang killed, one that is saved with a kill that waits for it, and one that is being saved: RESUMET, RESUMEG and KILL of the
dying answer INVALID, KILL of the third waits for its image. -/
theorem witness_CommandsOnGangs_dying :
    (∀ x ∈ [(GangState.killed, false), (.saving, true)], ∀ v ∈ [1, 2, 3],
      ∃ g, (dyingOf x.1 x.2).gang 1 = some g ∧ g.src.ctx = 3 ∧ (g.st = .killed ∨ g.kill = true) ∧ isLive (dyingOf x.1 x.2) 3 ∧
        nextCommand (commanded (dyingOf x.1 x.2) 1 v 3 1 0 1) 1 v 3 1 0 1) ∧
    (∃ g, (dyingOf .saving false).gang 1 = some g ∧ g.src.ctx = 3 ∧ ¬(g.st = .killed ∨ g.kill = true) ∧
      commandDoes (dyingOf .saving false) none 3 3 1 0 1 0 0 ((dyingOf .saving false).modGang 1 fun z => { z with kill := true })) := by
  constructor
  · intro x hx v hv
    refine ⟨gang1 (dyingOf x.1 x.2), ?_⟩
    revert x v
    unfold isLive nextCommand
    decide +kernel
  · have g : (dyingOf .saving false).gang 1 = some (gang1 (dyingOf .saving false)) := by decide +kernel
    have d : ¬((gang1 (dyingOf .saving false)).st = .killed ∨ (gang1 (dyingOf .saving false)).kill = true) := by decide +kernel
    have c : (gang1 (dyingOf .saving false)).src.ctx = 3 := by decide +kernel
    refine ⟨_, g, c, d, .inr (.inr ⟨by unfold isLive; decide +kernel, .inr (.inr (.inr (.inr ⟨_, g, c, ?_⟩)))⟩)⟩
    exact .inr (.inr (.inr (.inr (.inr (.inr (.inl ⟨rfl, d, by decide, rfl, rfl, rfl⟩))))))

/-- Each operation as the next command, for a context of the function and of another; descriptors that are misplaced, of another function,
good with free segments and with segments held or named twice, and with a field outside its limit; contexts in each state, with a
gang and without, with exactly room for their images and short of it; a partition in use, with its bounds; a change of the
carve-out that overlaps one pending, its commit while a gang stands and when none does, before its timeout and at it; a key slot
in use and free. -/
theorem witness_ContextLife : noCommand (lifeOf .running true 0 []) 1 ∧
    (∀ v ∈ [6, 7, 8, 9, 10, 12, 13, 14, 15, 22, 255], nextCommand (commandOf v 1 3 2 32768 5 0 [] .running true) 1 v 3 2 32768 5) ∧
    (mayNot (commandOf 7 2 3 0 0 0 0 [] .running true) 2 3 ∧ ¬mayNot (commandOf 7 1 3 0 0 0 0 [] .running true) 1 3 ∧
      ¬mayNot (commandOf 14 0 3 0 0 0 0 [] .running true) 0 3) ∧
    ((0x600000 % 64 = 0 ∧ 0x600000 < 2 ^ 56 ∧ regionOf 0x600000 = .local ∧ populated 0x600000 = true ∧ populated 0x6000FF = true) ∧
      0x600020 % 64 ≠ 0 ∧ populated (128 * 10 ^ 9 + 64) = false) ∧
    (let s := commandOf 6 1 4 0x600000 0 0 good0 [1 + 5 * 2 ^ 16, 2] .running true
     leNat (s.homeRead none 0x600000 256) = good0 ∧ field good0 13 8 = 1 ∧ (s.ctx 4).st = .free ∧ (s.ctx 3).st ≠ .free ∧
      (s.segTable 0x601000 2).map (fun e => field e 8 0 * 8 + field e 18 16) = [13, 16] ∧ (s.sched.ctxs.map fun z => z.2.segs) = [[]]) ∧
    goodDescriptor (commandOf 6 1 4 0x600000 0 0 good0 [1 + 5 * 2 ^ 16, 2] .running true) 4 good0 ∧
    ¬goodDescriptor (commandOf 6 1 4 0x600000 0 0 (good0 + 128) [1 + 5 * 2 ^ 16, 2] .running true) 4 (good0 + 128) ∧
    (((commandOf 6 1 4 0x600000 0 0 good0 [1 + 5 * 2 ^ 16, 1 + 5 * 2 ^ 16] .running true).segTable 0x601000 2).map
      (fun e => field e 8 0 * 8 + field e 18 16) = [13, 13]) ∧
    (∀ st ∈ [CtxState.bound, .running, .stopped, .draining], ((commandOf 7 1 3 0 0 0 0 [] st true).ctx 3).st = st ∧
      (isLive (commandOf 7 1 3 0 0 0 0 [] st true) 3 ↔ st ≠ .draining)) ∧
    ((commandOf 8 1 3 0 0 0 0 [] .running true).imagesOf 3 (fun g => g.st == .resident) = 913408 ∧
      (913408 ≤ 1 * 2 ^ 20 ∧ ¬913408 ≤ 0 * 2 ^ 20) ∧ ((commandOf 8 1 3 0 0 0 0 [] .running true).ctx 3).switching = false) ∧
    ((∃ g ∈ (lifeOf .running true 0 []).gangs, g.2.src.ctx = 3) ∧ ¬∃ g ∈ (lifeOf .running false 0 []).gangs, g.2.src.ctx = 3) ∧
    ((∃ z ∈ (lifeOf .running true 0 []).sched.parts, z.num = 2 ∧ z.ctx = 3) ∧ ¬∃ z ∈ (lifeOf .running true 0 []).sched.parts, z.num = 4 ∧ z.ctx = 3) ∧
    ((∃ z ∈ (carving true).sched.carves, ∃ k ∈ (carving true).clustersOf z.part, k ∈ (carving true).clustersOf 2) ∧
      (carving true).sched.carves.find? (·.part == 3) = some carve5 ∧ (carving true).sched.carves.find? (·.part == 2) = none ∧
      (carving false).reserved carve5 = true ∧ (carving true).reserved carve5 = false ∧ (carving true).now = carve5.deadline ∧ ({ carving true with now := 9 }).now < carve5.deadline) ∧
    (leNat ((lifeOf .running true (partBits 0x500000 [0, 575]) []).homeRead none 0x600000 128) = partBits 0x500000 [0, 575] ∧
      field (partBits 0x500000 [0, 575]) 127 67 = 0 ∧ partBits 0x500000 [0, 575] / 2 ^ 704 = 0 ∧ (partBits 0x500000 [0, 575]).testBit 703 = true ∧
      field (partBits 0x500000 []) 703 128 = 0 ∧ field (partBits 0x500001 [0]) 63 0 % 64 ≠ 0) ∧
    ((gang1 (lifeOf .running true 0 [])).src.part = 0 ∧ (gang1 (lifeOf .running true 0 [])).src.origin = .launch 0) ∧
    (((lifeOf .running true 0 []).sched.ctxs.map fun z => (z.2.key, z.2.func)) = [(0, 1)]) := by
  refine ⟨none_waits (by decide +kernel), by unfold nextCommand; decide +kernel, by unfold mayNot; decide +kernel, by decide +kernel, by decide +kernel, ?_, ?_,
    by decide +kernel, by unfold isLive; decide +kernel, by decide +kernel, by decide +kernel, by decide +kernel, by decide +kernel, by decide +kernel, by decide +kernel,
    by decide +kernel⟩
  · exact goodDescriptor_of (by decide +kernel) (by unfold holdsKey; decide +kernel) (by decide +kernel) (by unfold holdsKey; decide +kernel)
      (by decide +kernel) (by decide +kernel)
  · exact fun h => absurd h.1 (by decide +kernel)

end Sys2Proof.Tests
end

