-- ==== Sys2Proof/Tests/WitnessLinks.lean ====
section
/-! SUPPORT. Witnesses: for each statement a concrete state and operands that meet its hypotheses, clause by clause where its clauses
differ: links, the host, encodings and the step. -/

namespace Sys2Proof.Tests

open Sys2Proof.Machine Sys2Proof.Demo Sys2Proof.Claim

set_option Elab.async false

/-! ## Links, the host and service commands (spec/20_link.md, spec/21_service.md) -/

/-- Fabric link 3 in a state, after replays, since a cycle. -/
def linkIn (st : LinkState) (replay since now : Nat) : State :=
  { base with link := { base.link with links := [(3, { st := st, replay := replay, since := since })] }, now := now }
/-- Package 2 with link 3 in a state: from die 1 the route to package 5 is link 3, to package 6 link 5 with link 3 behind it, to package 7
link 4; messages that wait for their links, and multicast flits. -/
def routed (st : LinkState) (out : List OutFlit) (mcast : List Mcast) : State :=
  { base with link := { base.link with
      podid := 256 + 2, links := [(3, { st := st, replay := 0, since := 0 })]
      routes := [(256 + 5, (3, 4)), (256 + 6, (5, 3)), (256 + 7, (4, 4))], out := out, mcast := mcast } }
/-- A message of a channel for a package; a flit of a port for packages. -/
def message (pkg : Nat) (chan : Chan) : OutFlit := { die := 1, pkg := pkg, chan := chan, team := none, body := .load 0 4 }
def page0 : PodPage := { slot := 0, place := false, hdie := 0, hint := 2 }
def flitOf (port : Nat) (dests : List Nat) : Mcast := { die := 1, port := port, dests := dests, page := page0, pa := 0x500040, bytes := [1, 2] }
/-- The word of LD v8, [s4 + v20]; a team about to issue it, in a context whose pages lie in another package. -/
def loadWord : Nat := 0x20020105000400F0
def reacher : Team := { devLoader with clause := some (oneWord (BitVec.ofNat 64 loadWord)) }

/-- A link in each state, its training a cycle before its end and at it, its eighth replay; a route whose primary is in use and one whose
backup is; messages first and not first of their link and channel; multicast flits of three ports, with a set that goes whole and
one that is left in part; flits that arrive for this package alone, for others and for both. -/
theorem witness_LinksAndPod_links :
    (∀ st ∈ [LinkState.down, .training, .up, .degraded, .fenced], ((linkIn st 6 0 9400000).fabricLink 3).st = st) ∧
    ((linkIn .training 0 0 9400000).fabricLink 3).since + 9400000 = (linkIn .training 0 0 9400000).now ∧
    (linkIn .training 0 1 9400000).now < ((linkIn .training 0 1 9400000).fabricLink 3).since + 9400000 ∧
    (((linkIn .up 6 0 0).fabricLink 3).replay < 7 ∧ 7 ≤ ((linkIn .up 7 0 0).fabricLink 3).replay) ∧
    ((routed .up [] []).route 1 5 = (3, 4) ∧ (routed .up [] []).route 1 6 = (5, 3) ∧ ((routed .up [] []).fabricLink 5).st = .down ∧
      (routed .up [] []).routeLink 1 6 = 3 ∧ (routed .up [] []).routeLink 1 7 = 4) ∧
    (let s := routed .up [message 5 .request, message 6 .request, message 6 .response] []
     (∀ z ∈ s.link.out.take 1, z.chan = .request ∧ s.routeLink z.die z.pkg = 3) ∧ (∀ z ∈ s.link.out.take 2, z.chan ≠ .response) ∧
      s.link.out[3]? = none) ∧
    (let s := routed .up [] [flitOf 4 [5], flitOf 2 [6, 7], flitOf 2 [5, 6]]
     s.link.mcast = [flitOf 4 [5]] ++ flitOf 2 [6, 7] :: [flitOf 2 [5, 6]] ∧ (flitOf 2 [6, 7]).port < (flitOf 4 [5]).port ∧
      (flitOf 2 [6, 7]).dests.filter (fun d => s.routeLink 1 d != 3) = [7] ∧ (flitOf 2 [5, 6]).dests.filter (fun d => s.routeLink 1 d != 3) = [] ∧
      ∀ d ∈ (flitOf 2 [7]).dests, s.routeLink 1 d ≠ 3) ∧
    (∀ dests ∈ [[2], [2, 5], [5]], dests.filter (fun d => !((routed .up [] []).link.podid.testBit 8 && d == (routed .up [] []).link.podid % 256)) =
      (if 5 ∈ dests then [5] else [])) ∧
    (regionOf 0x500040 = .local ∧ populated 0x500040 = true ∧ populated 0x500041 = true ∧ populated (128 * 10 ^ 9) = false) := by decide +kernel

/-- What it adds to the messages that wait. -/
def sends (s s' : State) : Option (List OutFlit) := if s'.link.out.take s.link.out.length == s.link.out then some (s'.link.out.drop s.link.out.length) else none
theorem sends_of {s s' : State} {l : List OutFlit} (h : sends s s' = some l) : s'.link.out = s.link.out ++ l := by
  simp only [sends] at h
  split at h
  · rename_i e
    have e : s'.link.out.take s.link.out.length = s.link.out := by simpa using e
    rw [← Option.some.inj h]
    exact (List.take_append_drop s.link.out.length s'.link.out).symm.trans (by rw [e])
  · cases h

/-- The team with a load of package 1 under way, which began at the load's word; the machine in which it is, with no link to that package
since cycle 100, at a cycle. -/
def sentFly (vs : List Nat) : Fly :=
  { pkgs := [1], die := 0, pc := 16, clause := none, vs := vs, ss := [3], cs := [], file := devLoader.file, sregs := devLoader.sregs
    acc := devLoader.acc, raised := 2 }
def farTeam : Team := { devLoader with pend := [{ flag := 15, mma := none, fly := none, skid := false }, { flag := 2, mma := none, fly := some (sentFly [8]), skid := false }] }
def far (now : Nat) : State :=
  { podPages farTeam with link := { base.link with podid := 256, links := [(0, { st := .down, replay := 0, since := 100 })] }, now := now
                          agenda := [.issue 0] }
theorem stranded_iff (s : State) (vs : List Nat) (h : s.podReachable 0 1 = false) :
    isStranded s (sentFly vs) ↔
      65536 ≤ s.waited [61, 63] (max (s.fabricLink (s.route 0 1).1).since (s.fabricLink (s.route 0 1).2).since) := by
  constructor
  · rintro ⟨p, hp, -, hw⟩
    rw [List.mem_singleton.1 hp] at hw
    exact hw
  · exact fun hw => ⟨1, List.mem_singleton.2 rfl, h, hw⟩

/-- A page of another package, a load that sends it a message and a store of a scalar that sends none; an access under way at the pipe's
turn; its team a cycle before its 65,536 cycles without a route and at them; a WAITA and a WAKE there. -/
theorem witness_LinksAndPod_accesses :
    regionOf (2 ^ 54 + 2 ^ 46 + 0x500040) = .pod 1 ∧
    (let s := linked (podPages devLoader)
     (∃ x m, podPlace 0x500040 = .dev x (2 ^ 54 + 2 ^ 46 + 0x500040) ∧
        (s.askHome 4 x (2 ^ 54 + 2 ^ 46 + 0x500040) 4).link.out = s.link.out ++ [m] ∧ m.pkg = 1) ∧
      s.link.out = s.link.out ++ [] ∧ (s.team 256).map (fun u => (u.clause == devLoader.clause, u.skidLeft)) = some (true, 0)) ∧
    ((far 5).issuing = some farTeam ∧ (∃ y ∈ farTeam.pend, y.fly ≠ none) ∧ (far 5).agenda = [.issue (far 5).turn] ∧ (far 5).cyc.rank = 0 ∧
      (far 5).cyc.pipes = []) ∧
    (∀ n ∈ [65635, 65636], (far n).team 256 = some farTeam ∧ farTeam.id = 256 ∧ farTeam.pend[1]? = some { flag := 2, mma := none, fly := some (sentFly [8]), skid := false } ∧
      (isStranded (far n) (sentFly [8]) ↔ n = 65636)) ∧
    ((far 65636).gangOf farTeam = some (gang1 (far 65636)) ∧ (gang1 (far 65636)).groups[0]?.isSome = true ∧
      (gang1 (far 65636)).src.origin = .launch 0 ∧ farTeam.st = .ready ∧ FMap.rising farTeam.file.bits = true ∧ FMap.rising (sentFly [8]).file.bits = true ∧
      FMap.rising farTeam.sregs = true ∧ FMap.rising (sentFly [8]).sregs = true) ∧
    (let s := linked (podPages (waiter 5 7))
     s.issuing = some (waiter 5 7) ∧ s.resolveLanes (waiter 5 7) .rd 4 4 [(none, 0x500040)] = .ok [podPlace 0x500040] ∧
      s.resolveLanes (waiter 5 7) .wr 4 4 [(none, 0x500040)] = .ok [podPlace 0x500040]) := by
  refine ⟨by decide +kernel, ⟨⟨_, _, rfl, sends_of rfl, rfl⟩, (List.append_nil _).symm, by decide +kernel⟩, by decide +kernel, ?_, by decide +kernel,
    by decide +kernel, ok_of (by decide +kernel), ok_of (by decide +kernel)⟩
  intro n hn
  refine ⟨?_, rfl, rfl, ?_⟩
  · revert n; decide +kernel
  · rw [stranded_iff]
    · revert n; decide +kernel
    · revert n; decide +kernel

/-- Requests at memory of this package and at none, and each atomic of each type. -/
theorem witness_LinksAndPod_requests : (regionOf 0x500040 = .local ∧ populated 0x500040 = true ∧ populated 0x500047 = true ∧ 0x500040 % 8 = 0 ∧
      ∀ ty, ty < 4 → wordBits ty / 8 ∈ [4, 8]) ∧ (populated (128 * 10 ^ 9) = false ∧ regionOf (2 ^ 54) ≠ .local) := by decide +kernel

/-- Context 3 of function 1, with a queue at 0x500000 and posted writes; posted writes of a number of bytes to an address, and of a doorbell
with a number of bytes of record. -/
def hosting (q : Qcb) (l : List Posted) : State :=
  let s := queued1 team q { aux with commit := [], done := [] }
  { s with sched.ctxs := [(3, { ctx0 with func := 1, st := .bound })], host.posted := l }
def posted1 (ctx va : Nat) (relaxed : Bool) : Posted := { func := 1, ctx := ctx, va := va, bytes := [1, 2, 3], relaxed := relaxed, bell := false }
def bell1 (n : Nat) : Posted :=
  { func := 1, ctx := 3, va := 0, bytes := (leBytes 8 0x500000 ++ leBytes 8 0 ++ List.replicate 16 9).take n, relaxed := false, bell := true }
def ingress : Who := agentAt 82 3

/-- An owned context and one that is not; the last place of the ingress and none; a window read that is mapped and one that is not; the first
posted write, a later one and a later relaxed one; doorbells with too few bytes, into a queue malformed, of another kind, with
another record size, full, and with room at its last place. -/
theorem witness_HostAccesses : ownsContext (hosting (block 1 4) []) 1 3 ∧ ¬ownsContext (hosting (block 1 4) []) 1 4 ∧ ¬ownsContext (hosting (block 1 4) []) 2 3 ∧
    (∀ n ∈ [255, 256], ((hosting (block 1 4) (List.replicate n (posted1 3 0x500040 false))).host.posted.filter fun y => y.func == 1).length = n) ∧
    (∀ y ∈ (hosting (block 1 4) []).host.posted, y.func ≠ 1) ∧
    ((hosting (block 1 4) []).hostReach 3 .rd 2 0x500000 4 = .ok () ∧ ∃ e, (hosting (block 1 4) []).hostReach 3 .rd 2 0x40000000 4 = .error e) ∧
    ((hosting (block 1 4) []).hostReach 3 .wr 2 0x500040 3 = .ok () ∧ ∃ e, (hosting (block 1 4) []).hostReach 3 .wr 2 0x40000000 3 = .error e) ∧
    (let s := hosting (block 1 4) [posted1 3 0x500040 false, posted1 3 0x500040 false, posted1 3 0x500040 true]
     ∀ k, k < 3 → ((s.host.posted.filter fun y => y.func == 1)[k]?).map (·.relaxed) = some (k == 2)) ∧
    ((bell1 15).bytes.length < 16 ∧ (bell1 32).bytes.length = 16 + 2 ^ (block 1 4).rsize ∧ (bell1 32).bytes.length ≠ 16 + 2 ^ (block 1 6).rsize ∧
      leNat ((bell1 32).bytes.take 8) = 0x500000) ∧
    (∀ q ∈ [block 4 5, block 1 6, { block 1 4 with resv := 15, tail := 15 }, { block 1 4 with resv := 16, tail := 16 }],
      ((hosting q []).serve ingress 0x500000).1 = some (.dev 0x500000, some 0, q)) ∧
    ((hosting { block 1 4 with rcap := 0 } []).serve ingress 0x500000).1 = none := by
  have e : ∀ {β : Type} {r : Except β Unit}, (match r with | .ok _ => false | .error _ => true) = true → ∃ e, r = .error e := by
    intro β r h
    cases r with
    | ok _ => cases h
    | error x => exact ⟨x, rfl⟩
  refine ⟨by unfold ownsContext; decide +kernel, by unfold ownsContext; decide +kernel, by unfold ownsContext; decide +kernel, by decide +kernel, by decide +kernel,
    ⟨ok_of (by decide +kernel), e (by decide +kernel)⟩, ⟨ok_of (by decide +kernel), e (by decide +kernel)⟩, by decide +kernel, by decide +kernel,
    by decide +kernel, by decide +kernel⟩

/-- The islands of a recalibration in progress; the governor a cycle before its next evaluation and at it. -/
def retrimming (l : List Nat) (withGang : Bool) : State := (lifeOf .running withGang 0 []).withSvc fun z => { z with recal := l }
def measured (n : Nat) : State := { base with now := n }

/-- No command; each service command of the physical function with context 0, of another function and with another context; islands and
cores at their bounds, a die that retrims and one that does not; firmware of the least size; an island with a gang and without. -/
theorem witness_ServiceCommands : noCommand (lifeOf .running true 0 []) 0 ∧
    (∀ v ∈ [16, 17, 18, 19, 20, 21], nextCommand (commandOf v 0 0 7 0x2000 3437 0 [] .running true) 0 v 0 7 0x2000 3437 ∧
      nextCommand (commandOf v 1 0 7 0x2000 3437 0 [] .running true) 1 v 0 7 0x2000 3437 ∧
      nextCommand (commandOf v 0 3 7 0x2000 3437 0 [] .running true) 0 v 3 7 0x2000 3437) ∧
    ((∃ i ∈ (retrimming [448] true).svc.recal, i / 64 = 511 / 64) ∧ ¬∃ i ∈ (retrimming [447] true).svc.recal, i / 64 = 511 / 64) ∧
    (∃ i ∈ (retrimming [123] true).svc.recal, i % 64 ∈ controllerIslands 1) ∧ (∀ i ∈ (retrimming [122] true).svc.recal, i % 64 ∉ controllerIslands 1) ∧
    ((∃ g ∈ (retrimming [0] true).gangs, g.2.held = true ∧ islandOf g.2.cluster = 0 ∧ g.2.cluster < 576) ∧
      ¬∃ g ∈ (retrimming [0] false).gangs, g.2.held = true ∧ islandOf g.2.cluster = 0 ∧ g.2.cluster < 576) ∧
    (((measured 9400).svc.evals.head?.map (·.1)).getD 0 + 9400 ≤ (measured 9400).now ∧ ¬((measured 9399).svc.evals.head?.map (·.1)).getD 0 + 9400 ≤ (measured 9399).now) := by
  refine ⟨none_waits (by decide +kernel), by unfold nextCommand; decide +kernel, by decide +kernel, by decide +kernel, by decide +kernel, by decide +kernel,
    by decide +kernel⟩

/-- A core that a command in progress closes, with its gang standing and without. -/
def closingCore (withGang : Bool) : State := (lifeOf .running withGang 0 []).withSvc fun z => { z with closing := [0] }

/-- A core of a gang that stands and one of none, with a closing of it in progress; an island that waits for its gang and one that is free,
where its recalibration completes; a stall in progress and one that is over. -/
theorem witness_ServiceCommands_cores :
    (∀ b ∈ [true, false], 0 ∈ (closingCore b).svc.closing ∧
      ((∃ g ∈ (closingCore b).gangs, g.2.held = true ∧ ∃ y ∈ g.2.groups, y.core = 0) ↔ b = true)) ∧
    (∀ b ∈ [true, false], 0 ∈ (retrimming [0] b).svc.recal ∧
      ((∃ g ∈ (retrimming [0] b).gangs, g.2.held = true ∧ islandOf g.2.cluster = 0 ∧ g.2.cluster < 576) ↔ b = true) ∧
      ((retrimming [0] b).islandFree 0 = true ↔ b = false)) ∧
    (let s := base.withSvc fun z => { z with stalls := [{ island := 0, since := 0, lifted := none }, { island := 1, since := 0, lifted := some 0 }] }
     s.stalled 0 = true ∧ s.stalled 1 = false) := by
  refine ⟨by decide +kernel, by decide +kernel, by decide +kernel⟩

/-- BAR0 reads at the bounds, of the registers and of a context's page that its function owns and does not. -/
theorem witness_HostAccesses_registers : (∀ x ∈ [(63, 2 ^ 20 - 4096, 4096), (0, 0, 0), (1, 0x80000 + 4096 * 3, 8)],
      x.1 < 64 ∧ x.2.1 + x.2.2 ≤ 2 ^ 20 ∧ x.2.2 ≤ 4096) ∧
    (0x80000 + 4096 * 3 ≤ 0x80000 + 4096 * 3 + 7 ∧ 0x80000 + 4096 * 3 + 7 < 0x80000 + 4096 * 4 ∧ (0x80000 + 4096 * 127 + 4095 : Nat) < 2 ^ 20) ∧
    ownsContext (hosting (block 1 4) []) 1 3 ∧ ¬ownsContext (hosting (block 1 4) []) 1 4 := by
  refine ⟨by decide, by decide, by unfold ownsContext; decide +kernel, by unfold ownsContext; decide +kernel⟩

/-! ## Encodings, the step and the machine at reset (spec/06_kernel_image.md) -/

/-- An MMA's word and the load's are accepted instructions, of the words the encodings give; a word of no instruction. -/
theorem witness_DecodeOfEncode : (Instr.ld hd ldWord).reject = none ∧ product.reject = none ∧
    isOk (decodeWord (BitVec.ofNat 64 loadWord)) (.ld hd ldWord) = true ∧ isOk (decodeWord 0x40008203040440F0)
      (.mma hd { d := 2, a := 8, b := 12, c := 16, m := 0x440 }) = true := by decide +kernel

/-- The states of a step: a team with a word that decodes, and with one that does not; a pipe whose MMA sweeps; an agenda of one input; a
cycle in which the pipe has issued, and one in which a place has been reached. -/
def ready : Team := { team with clause := some (oneWord (BitVec.ofNat 64 loadWord)) }
def wordless : Team := { team with clause := some (oneWord 0) }
def sweepingState : State := (on ready).modCore 0 fun c => { c with sweep := [noOp] }
def withAgenda (l : List Input) (rank : Nat) (pipes : List Nat) : State :=
  { on ready with agenda := l, cyc := { rank := rank, pipes := pipes, bars := [], blocks := [] } }

/-- The first step of a cycle and one that opens the next, by the pipe and by the place of its team; a pipe that waits for a sweep, for an
access under way, with nothing in progress, and with a word to issue; events with no place in the cycle, with one not yet passed
and with one passed; an instruction that is no event, and another input. -/
theorem witness_StepRunsDecoded :
    (∀ x ∈ [([], 0, []), ([], 0, [0]), ([Input.issue 0], 1, [])], ∃ v, inOrder { withAgenda x.1 x.2.1 x.2.2 with turn := 0 } v) ∧
    (¬((withAgenda [] 0 []).turn ∈ (withAgenda [] 0 []).cyc.pipes ∨ ∃ t, (withAgenda [] 0 []).issuing = some t ∧ issuePlace t ≤ (withAgenda [] 0 []).cyc.rank) ∧
      issuePlace ready ≤ (withAgenda [] 1 []).cyc.rank ∧ (withAgenda [] 1 []).issuing = some ready) ∧
    (∀ t ∈ [ready, wordless], (on t).sweeping (on t).turn = false ∧ (on t).issuing = some t ∧ ∀ e ∈ t.pend, e.fly = none) ∧
    (sweepingState.sweeping sweepingState.turn = true ∧ (far 5).issuing = some farTeam ∧ (∃ e ∈ farTeam.pend, e.fly ≠ none) ∧
      State.reset.issuing = none ∧ State.reset.sweeping 0 = false) ∧
    (ready.clause = some (oneWord (BitVec.ofNat 64 loadWord)) ∧ isOk (decodeWord (BitVec.ofNat 64 loadWord)) (.ld hd ldWord) = true ∧
      (oneWord 0).words = 0 :: [] ∧ ∃ e, decodeWord 0 = .error e) ∧
    (let s := withAgenda [.event (.linkFence 3)] 0 []
     s.agenda = .event (.linkFence 3) :: [] ∧ (Instr.linkFence 3).reject = some .event ∧ s.eventRank (.linkFence 3) = 0 ∧
      s.cyc.rank ≤ s.eventRank (.wordOpStart 7) ∧ (Instr.wordOpStart 7).reject = some .event ∧
      s.eventRank (.wordOpStart 7) < (withAgenda [] 8000000 []).cyc.rank) ∧
    ((Instr.ld hd ldWord).reject ≠ some .event ∧ (∀ e, Input.turn 5 ≠ .event e) ∧ ∀ p, Input.turn 5 ≠ .issue p) ∧
    ((on ready).cyc.bars = [] ∧ (on ready).cyc.blocks = [] ∧ (∀ c ∈ (on ready).sched.ctxs, c.2.ticks = []) ∧ (∀ t ∈ (on ready).teams, t.2.skidLeft = 0) ∧
      (on ready).svc.recal = []) := by
  have err : ∃ e, decodeWord 0 = .error e := by
    cases h : decodeWord 0 with
    | error e => exact ⟨e, rfl⟩
    | ok i =>
      have : (match decodeWord 0 with | .ok _ => true | .error _ => false) = false := by decide +kernel
      rw [h] at this; cases this
  have order : ∀ s : State, ∃ v, inOrder s v := fun s => by
    by_cases h : s.turn ∈ s.cyc.pipes ∨ ∃ t, s.issuing = some t ∧ issuePlace t ≤ s.cyc.rank
    · exact ⟨_, fun _ => rfl, fun n => absurd h n⟩
    · exact ⟨_, fun y => absurd y h, fun _ => rfl⟩
  refine ⟨fun x _ => order _, ⟨?_, by decide +kernel⟩, by decide +kernel, by decide +kernel, ⟨rfl, by decide +kernel, rfl, err⟩, by decide +kernel,
    ⟨by decide +kernel, fun _ h => (by cases h), fun _ h => (by cases h)⟩, by decide +kernel⟩
  rintro (h | ⟨t, h1, h2⟩)
  · exact absurd h (by decide +kernel)
  · have : (withAgenda [] 0 []).issuing = some ready := by decide +kernel
    rw [this] at h1
    cases h1
    exact absurd h2 (by decide +kernel)

theorem pipesHold_of {s : State} (h : ∀ x ∈ s.running, ((s.team x.2.1).any fun t => t.st == .ready && t.pipe == x.1 &&
    (t.clause.any fun c => !c.words.isEmpty)) = true) : PipesHold s := by
  intro p r hr
  have := h (p, r) hr
  simp only [Option.any_eq_true, Bool.and_eq_true, beq_iff_eq, Bool.not_eq_true', List.isEmpty_eq_false_iff] at this
  obtain ⟨t, ht, ⟨hs, hp⟩, c, hc, hw⟩ := this
  exact ⟨t, c, ht, hs, hp, hc, hw⟩

/-- A pipe with a clause in progress, and its next step. -/
theorem witness_PipesHoldReadyTeams : PipesHold (on ready) ∧ ((on ready).running ≠ []) ∧ ∃ s', step (on ready) = .next s' := by
  refine ⟨pipesHold_of (by decide +kernel), by decide +kernel, ?_⟩
  cases h : step (on ready) with
  | next s => exact ⟨s, rfl⟩
  | fault f =>
    have : (match step (on ready) with | .next _ => true | _ => false) = true := by decide +kernel
    rw [h] at this; cases this
  | refused f =>
    have : (match step (on ready) with | .next _ => true | _ => false) = true := by decide +kernel
    rw [h] at this; cases this

/-- Two memories that read alike; a state with bytes in device memory, in a group's scratchpad and in a team's private store. -/
theorem witness_MemoryKeepsForm : Memory.wf [(3, 1), (7, 2)] = true ∧ Formed (queueIn team 5) ∧ (queueIn team 5).mem.dev ≠ [] := by
  have g : (queueIn team 5).gangs.all (fun x => x.2.groups.all fun y => Memory.wf y.bytes && Memory.wf y.share) = true := by decide +kernel
  have t : (queueIn team 5).teams.all (fun x => Memory.wf x.2.store) = true := by decide +kernel
  simp only [List.all_eq_true, Bool.and_eq_true] at g t
  exact ⟨by decide +kernel, ⟨by decide +kernel, by decide +kernel, by decide +kernel, fun h y hy => g (h, y) hy, fun k y hy => t (k, y) hy⟩, by decide +kernel⟩

end Sys2Proof.Tests
end

