-- ==== Sys2Proof/Tests/Steps.lean ====
section
/-! SUPPORT. Single steps of the instructions that wait, synchronise, move rows and stage work, on the states of the witnesses. Each expected
value is worked out from the rule named. -/

namespace Sys2Proof.Tests

open Sys2Proof.Machine Sys2Proof.Demo Sys2Proof.Claim

set_option Elab.async false

/-- The team after an instruction in a state, and a scalar of it. -/
def onward (i : Instr) (s : State) : State := match exec i s with | .next s' => s' | _ => s
def scalarOf (i : Instr) (s : State) (r : Nat) : Option (Nat × Tag) := ((onward i s).team 256).map fun u => ((u.sreg r).bits.toNat, (u.sreg r).tag)
def errOfTeam (i : Instr) (s : State) : Option Nat := ((onward i s).team 256).map (·.err)

-- R228, R230: the word is 0x30201; the condition is "not equal"
theorem test_waita_met : scalarOf (.waita hd wait) (wordIn (waiter 5 7)) 6 = some (0, 2) := by decide +kernel
theorem test_waita_timeout : scalarOf (.waita hd wait) (wordIn (waiter 0x30201 0)) 6 = some (2, 2) := by decide +kernel
theorem test_wake_of_nobody : scalarOf (.wake hd (atm 9 4 0 8 0 0 0 0 false true)) (wordIn (devLoader.setS 8 0 10)) 9 = some (0, 2) := by decide +kernel

-- R184: lanes of both masks are exchanged, both get DONE; a channel in state 2 gives BADCHAN
theorem test_xcl_exchanges : (let s := onward (.xcl hd shuttle) (meets devLoader 1 32)
    (s.team 256).map (fun u => (u.lane 8 1, u.vtag 8 0)) = ((meets devLoader 1 32).team 257).map (fun u => (u.lane 20 1, u.vtag 20 0))) := by decide +kernel
theorem test_xcl_bad_channel : scalarOf (.xcl hd shuttle) (chanIn devLoader 2) 9 = some (3, 2) := by decide +kernel

-- R236 to R246: phase 5 of two signallers
def barAfter (i : Instr) (s : State) : Nat × Nat × Nat × Int × Nat := let b := (onward i s).bar obj; (b.phase, b.arrived, b.next, b.pend, b.waiters)
theorem test_binit : ((onward (.binit hd (onBar 0)) (barIn (member 3 []) { bar0 with state := 0 })).bar obj) =
    { bar0 with phase := 0, expect := 3, next := 3, gen := 2 } := by decide +kernel
theorem test_barr : scalarOf (.barr hd (onBar 0)) (barIn (member 0 [entry true false 4]) bar0) 9 = some (5, 2) ∧
    barAfter (.barr hd (onBar 0)) (barIn (member 0 [entry true false 4]) bar0) = (5, 1, 2, 0, 0) := by decide +kernel
theorem test_barrd_leaves : barAfter (.barrd hd (onBar 0)) (barIn (member 0 [entry true false 4]) bar0) = (5, 1, 1, 0, 0) ∧
    ((onward (.barrd hd (onBar 0)) (barIn (member 0 [entry true false 4]) bar0)).team 256).map (·.bars) = some [] := by decide +kernel
theorem test_breg_of_a_later_phase : barAfter (.breg hd (onBar 3)) (barIn (member 0 []) bar0) = (5, 0, 3, 0, 0) ∧
    ((onward (.breg hd (onBar 3)) (barIn (member 0 []) bar0)).team 256).map (·.bars) = some [entry true true 5] := by decide +kernel
theorem test_bexp : barAfter (.bexp hd (onBar 0)) (barIn (member (-7) [entry false true 5]) bar0) = (5, 0, 2, -7, 0) := by decide +kernel
theorem test_bwait_of_the_last_phase : scalarOf (.bwait hd (onBar 0)) (barIn (member 4 [entry false true 5]) { bar0 with last := 2, lastDetail := 3 }) 9 =
    some (1 + 2 * 4 + 3 * 2 ^ 16, 2) := by decide +kernel
theorem test_btest_of_an_older_phase : scalarOf (.btest hd (onBar 0)) (barIn (member 3 []) { bar0 with last := 2 }) 9 = some (3, 2) := by decide +kernel

-- R249 to R257, R282, R286
theorem test_crd : ((onward (.crd hd (onAcc 1 16)) (on (heaped (twoColumns 0) 3))).team 256).map (fun u => (u.lane 16 0, u.lane 17 0, u.vtag 16 0)) =
    some (0x3F800000, 0x40000000, 3) := by decide +kernel
theorem test_rkins : ((onward (.rkins hd (onAcc 2 30)) (on (ranker 0))).team 256).map (fun u => (FMap.look u.acc.elems 65536, FMap.look u.acc.elems 65537)) =
    some (some 0x940000000, some 0x73F800000) := by decide +kernel
theorem test_rkfloor_of_a_list_not_full : ((onward (.rkfloor hd (onAcc 2 20)) (on (ranker 0))).team 256).map (fun u => (u.lane 20 0, u.vtag 20 0)) =
    some (0xFF800000, 3) := by decide +kernel
theorem test_mma_adds_its_word_ops : ((onward product (tiles tiler bar0)).bar obj).pend = 1 ∧ ((onward product (tiles tiler bar0)).core 0).queue.length = 1 := by
  decide +kernel

-- R327 to R332: a queue of kind 1 with RESV 3, TAIL 2
def q14 : State := queued1 (producer 1 1) (block 1 4) aux
theorem test_qapp : scalarOf (.qapp hd (onQueue 5)) q14 9 = some (3, 10) := by decide +kernel
theorem test_qclaim : scalarOf (.qclaim hd (onQueue 7)) (queued1 (producer 1 5) (block 1 4) aux) 9 = some (0, 10) ∧
    scalarOf (.qclaim hd (onQueue 7)) (queued1 (producer 1 5) (block 1 4) aux) 10 = some (2, 2) := by decide +kernel
theorem test_qdone_outside : scalarOf (.qdone hd (onQueue 7)) q14 9 = some (5 * 2 ^ 60, 10) := by decide +kernel
theorem test_qstat : scalarOf (.qstat hd (onQueue 0)) q14 9 = some (2 + 2 ^ 32 + 2 ^ 56, 10) := by decide +kernel
theorem test_qflush_without_a_stage : scalarOf (.qflush hd (onQueue 0)) q14 9 = some (4 * 2 ^ 60, 10) := by decide +kernel
theorem test_xchain_of_a_record_queue : scalarOf (.xchain hd (onQueue 5)) q14 9 = some (4 * 2 ^ 60, 10) := by decide +kernel
theorem test_xcopy : scalarOf (.xcopy hd (onEngine 0)) (world (mover 64 0) 0x501000 [1]) 11 = some (1, 10) := by decide +kernel

-- R292, R293, R307 to R309: epoch 5
theorem test_rsec_enter : ((onward (.rsecEnter hd slot2) (versioned (retirer 64 0x500100) (retq 3) [])).team 256).map (·.reader 2) = some ⟨1, 5⟩ := by
  decide +kernel
theorem test_gpseq : scalarOf (.gpseq hd slot2) (versioned (retirer 64 0x500100) (retq 3) []) 9 = some (5, 10) := by decide +kernel
theorem test_retire : scalarOf (.retire hd (retireOf 2 0)) (versioned (retirer 64 0x500100) (retq 3) []) 9 = some (5, 10) ∧
    scalarOf (.retire hd (retireOf 2 0)) (versioned (retirer 64 0x500100) (retq 16) []) 9 = some (2 ^ 32, 10) := by decide +kernel
theorem test_gpwait_times_out : scalarOf (.gpwait hd (gpw 0)) (gracing (graced 6 0) [5] id) 11 = some (2, 2) := by decide +kernel

-- R359, R377, R380: a running context 3 of function 1
theorem test_trap_parks : ((onward (.trap hd trap2) (asked sq)).team 256).map (·.st.code) = some 4 := by decide +kernel
theorem test_ctxq_state : scalarOf (.ctxq hd (sys 11 20 0 0)) (asking (asksCtx 1 1 7)) 11 = some ((2 + 3 * 256 + 65536) * 256, 10) := by decide +kernel

-- R393 to R396: CONS 8, CSEQ 10, frames stamped 500 and 1000
theorem test_wclaim : scalarOf (.wclaim hd (onWindow 0)) (opened (inside (armer 999 10000 0 0))) 11 = some (9 + 2 ^ 32, 10) := by decide +kernel
theorem test_wclaim_outside_a_section : errOfTeam (.wclaim hd (onWindow 0)) (opened (armer 999 10000 0 0)) = some 8 := by decide +kernel
theorem test_wrel_past_the_last : scalarOf (.wrel hd (onWindow 0)) (opened (armer 11 10000 0 0)) 11 = some (6 * 2 ^ 60, 10) := by decide +kernel
theorem test_tickarm_at_the_next_tick : ((FMap.look ((onward (.tickarm hd (onWindow 0)) (opened (armer 5000 10000 0 0))).ctx 0).ticks 0).map (·.next)) =
    some 25000 := by decide +kernel

end Sys2Proof.Tests
end

section
/-! PROOFS. The service commands and the power governor (spec/01_part.md R22, spec/21_service.md R413 to R419). -/

namespace Sys2Proof

/-- A map listed from its keys. -/
theorem FMap.lookD_map_pair {α : Type} (g : Nat → α) (d : α) {k : Nat} {l : List Nat} (h : k ∈ l) :
    FMap.lookD (l.map fun c => (c, g c)) k d = g k := by
  induction l with
  | nil => exact absurd h (by simp)
  | cons j l ih =>
    by_cases hj : j = k
    · simp [FMap.lookD, FMap.look_cons, hj]
    · have hk : k ∈ l := (List.mem_cons.mp h).resolve_left (Ne.symm hj)
      simpa [FMap.lookD, FMap.look_cons, hj] using ih hk

end Sys2Proof

namespace Sys2Proof.Machine
open Sys2Proof.Claim

/-! ## The next command of a ring (R377, R408) -/

theorem State.commandPending_eq_false {s : State} {f : Nat} :
    s.commandPending f = false ↔ (∀ i ∈ s.sched.invals, i.func ≠ f) ∧ ∀ i ∈ s.sched.carves, i.func ≠ f := by
  simp [State.commandPending]

theorem State.command_of_nextCommand {s : State} {f v c x y w : Nat} (h : nextCommand s f v c x y w) :
    s.command f = some { func := f, value := v, ctx := c, op0 := x, op1 := y, op2 := w } := by
  obtain ⟨hf, hlo, hhi, hne, hinv, hcarve, rfl, rfl, rfl, rfl, rfl⟩ := h
  have hpend : s.commandPending f = false := State.commandPending_eq_false.mpr ⟨hinv, hcarve⟩
  unfold State.command
  rw [if_pos (by simp [hf, hlo, hhi, hne, hpend])]
  rfl

theorem State.command_of_noCommand {s : State} {f : Nat} (h : noCommand s f) : s.command f = none := by
  unfold State.command
  refine if_neg fun hc => ?_
  simp only [Bool.and_eq_true, decide_eq_true_eq, bne_iff_ne, Bool.not_eq_true'] at hc
  obtain ⟨⟨⟨⟨hf, hlo⟩, hhi⟩, hne⟩, hpend⟩ := hc
  obtain ⟨hinv, hcarve⟩ := State.commandPending_eq_false.mp hpend
  exact h _ _ _ _ _ ⟨hf, hlo, hhi, hne, hinv, hcarve, rfl, rfl, rfl, rfl, rfl⟩

theorem State.finish_eq_answered (u : State) (f status value : Nat) : u.finish f status value = answered u f status value := rfl

/-! ## Who may issue a service command (R413) -/

/-- What every service command answers where it has no effect of its own: nothing without a command or at another one, and DENIED
to a virtual function or with a context. -/
structure ServiceRow (s : State) (f value : Nat) (i : Instr) : Prop where
  idle : s.command f = none → exec i s = .next s
  other : ∀ c, s.command f = some c → value ≠ c.value → exec i s = .next s
  denied : ∀ c, s.command f = some c → value = c.value → f ≠ 0 ∨ c.ctx ≠ 0 → exec i s = .next (answered s f 4 0)

theorem serviceRow_of_runService {s : State} {f value : Nat} {i : Instr} {act : State → Cmd → Answer}
    (hi : exec i s = s.runService f value act) : ServiceRow s f value i where
  idle h := by simp [hi, State.runService, h, stutter]
  other c h hv := by simp [hi, State.runService, h, hv.symm, stutter]
  denied c h hv hd := by
    simp [hi, State.runService, h, hv, hd, State.answer, CStat.denied, State.finish_eq_answered]

theorem serviceRow_of_runFence {s : State} {f value : Nat} {i : Instr} {act : State → Cmd → Option Answer}
    (hi : exec i s = s.runFence f value act) : ServiceRow s f value i where
  idle h := by simp [hi, State.runFence, h, stutter]
  other c h hv := by simp [hi, State.runFence, h, hv.symm, stutter]
  denied c h hv hd := by
    simp [hi, State.runFence, h, hv, hd, State.answer, CStat.denied, State.finish_eq_answered]

/-- The rows of R413's table. -/
theorem serviceRow_of_mem_table (s : State) (f : Nat) :
    ∀ p ∈ [(16, Instr.recal f), (17, .fwload f), (18, .selftest f), (19, .fenceCore f), (20, .unfence f), (21, .attest f)],
      ServiceRow s f p.1 p.2 := by
  simp only [List.forall_mem_cons, List.not_mem_nil, false_imp_iff, implies_true, and_true]
  exact ⟨serviceRow_of_runService rfl, serviceRow_of_runService rfl, serviceRow_of_runFence rfl, serviceRow_of_runFence rfl,
    serviceRow_of_runFence rfl, serviceRow_of_runService rfl⟩

section Physical
variable {s u : State} {f value v : Nat} {c : Cmd} {act : State → Cmd → Answer}
  (h : s.command f = some c) (hv : c.value = value) (hf : f = 0) (hc : c.ctx = 0)
include h hv hf hc

/-- A service command of the physical function with context 0 acts. -/
theorem State.runService_outcome (ha : act s c = u.outcome v) : s.runService f value act = .next (answered u f 0 v) := by
  subst hf
  simp [State.runService, h, hv, hc, ha, State.outcome, CStat.ok, State.finish_eq_answered]

theorem State.runService_answer {st : Nat} (ha : act s c = s.answer st) : s.runService f value act = .next (answered s f st 0) := by
  subst hf
  simp [State.runService, h, hv, hc, ha, State.answer, State.finish_eq_answered]

end Physical

/-! ## Gangs that are asked to leave (R368) -/

theorem State.preemptOn_eq_preempted (s : State) (p : Nat → Bool) (q : Nat → Prop) [DecidablePred q] (h : ∀ c, p c = true ↔ q c) :
    s.preemptOn p = preempted s q := by
  simp [State.preemptOn, preempted, Gang.standsOn, h, and_assoc]

theorem any_standsOn_preempted (s : State) (q : Nat → Prop) [DecidablePred q] (p : Nat → Bool) :
    (preempted s q).gangs.any (fun g => g.2.standsOn p) = s.gangs.any fun g => g.2.standsOn p := by
  unfold preempted
  rw [List.any_map]
  congr 1
  funext g
  dsimp only [Function.comp]
  split <;> rfl

theorem onIsland_iff {island cl : Nat} : onIsland island cl = true ↔ islandOf cl = island ∧ cl < 576 := by
  simp only [onIsland, Bool.and_eq_true, beq_iff_eq, decide_eq_true_eq]
  rfl

/-- An island is free when no gang that holds its cores is on a cluster of it. -/
theorem State.islandFree_iff {s : State} {island : Nat} :
    s.islandFree island = true ↔ ¬∃ g ∈ s.gangs, g.2.held = true ∧ islandOf g.2.cluster = island ∧ g.2.cluster < 576 := by
  simp [State.islandFree, ← onIsland_iff]

/-! ## Recalibration (R414, R415) -/

theorem State.settleRecal_stalls (s : State) : s.settleRecal.svc.stalls =
    s.svc.stalls ++ ((s.svc.recal.filter fun i => !s.stalled i && s.islandFree i).map fun i =>
      { island := i, since := s.now, lifted := none }) := by
  unfold State.settleRecal
  generalize s.svc.recal.filter (fun i => !s.stalled i && s.islandFree i) = starts
  cases starts with
  | nil => simp
  | cons i is => rfl

theorem State.cmdRecal_arg {s : State} {c : Cmd} (h : 512 ≤ c.op0) : s.cmdRecal c = s.answer 3 := by
  simp [State.cmdRecal, h, CStat.arg]

theorem State.cmdRecal_busy {s : State} {c : Cmd} (h : c.op0 < 512) (hb : ∃ i ∈ s.svc.recal, i / 64 = c.op0 / 64) :
    s.cmdRecal c = s.outcome 3 := by
  unfold State.cmdRecal
  rw [if_neg (by omega), if_pos (by simpa using hb)]
  rfl

theorem State.cmdRecal_done {s : State} {c : Cmd} (h : c.op0 < 512) (hb : ¬∃ i ∈ s.svc.recal, i / 64 = c.op0 / 64) :
    s.cmdRecal c = State.outcome (((preempted s fun core => islandOf (core / 8) = c.op0 ∧ core / 8 < 576).withSvc fun z =>
      { z with recal := z.recal ++ [c.op0] }).settleRecal) 0 := by
  unfold State.cmdRecal
  rw [if_neg (by omega), if_neg (by simpa using hb), s.preemptOn_eq_preempted _ _ fun _ => onIsland_iff]
  rfl

theorem execRecalComplete_waits {s : State} {island : Nat} (h : island ∉ s.svc.recal ∨ ¬s.islandFree island = true) :
    execRecalComplete island s = .next s := by
  unfold execRecalComplete
  exact if_pos (by simpa using h)

theorem execRecalComplete_ends {s : State} {island : Nat} (h : island ∈ s.svc.recal) (hf : s.islandFree island = true) :
    execRecalComplete island s = .next (s.withSvc fun z =>
      { z with recal := z.recal.filter (· != island)
               stalls := z.stalls.map fun y => if y.island = island ∧ y.lifted = none then { y with lifted := some s.now } else y }) := by
  simp [execRecalComplete, h, hf]

/-! ## Firmware (R416) -/

/-- The image that FWLOAD copies from host memory carries the vendor's signature and the controller's number. -/
def State.signedImage (s : State) (c : Cmd) : Prop :=
  let image := s.homeRead none (2 ^ 55 + c.op1 % 2 ^ 54) c.op2
  let digest := (image.drop (c.op2 - 3373)).take 64
  (Config.shake256 (image.take (c.op2 - 3373))).take 64 = digest ∧
    Config.mldsaVerify Config.vendorKey digest (image.drop (c.op2 - 3309)) = true ∧ (Config.fwHeader (image.take 64)).1 = c.op0

/-- The security version of that image. -/
def State.imageVersion (s : State) (c : Cmd) : Nat :=
  (Config.fwHeader ((s.homeRead none (2 ^ 55 + c.op1 % 2 ^ 54) c.op2).take 64)).2.toNat

/-- The state with that image's digest and version as the controller's. -/
def State.firmwareLoaded (s : State) (c : Cmd) : State :=
  let digest := ((s.homeRead none (2 ^ 55 + c.op1 % 2 ^ 54) c.op2).drop (c.op2 - 3373)).take 64
  s.withSvc fun z => { z with fw := FMap.put z.fw c.op0 { measure := digest, version := s.imageVersion c } }

/-- The three checks of an image, of which one that fails refuses it. -/
theorem refused_iff (digest found : List Byte) (verified : Bool) (number x : Nat) :
    (digest != found || !verified || number != x) = true ↔ ¬(digest = found ∧ verified = true ∧ number = x) := by
  cases verified with
  | false => simp
  | true => by_cases hd : digest = found <;> simp [hd]

section Fwload
variable {s : State} {c : Cmd}

theorem State.cmdFwload_arg (h : 8 ≤ c.op0 ∨ c.op2 < 3437) : s.cmdFwload c = s.answer 3 := by
  unfold State.cmdFwload
  exact if_pos (by simpa using h)

theorem State.cmdFwload_busy (hx : c.op0 < 8) (hw : 3437 ≤ c.op2) (h : ∃ i ∈ s.svc.recal, i % 64 ∈ controllerIslands c.op0) :
    s.cmdFwload c = s.outcome 3 := by
  unfold State.cmdFwload
  rw [if_neg (by simpa using And.intro hx hw), if_pos (by simpa using h)]
  rfl

/-- FWLOAD of a good descriptor, away from a recalibration: the signature first, then the version (R416 step 2). -/
theorem State.cmdFwload_checks (hx : c.op0 < 8) (hw : 3437 ≤ c.op2) (h : ∀ i ∈ s.svc.recal, i % 64 ∉ controllerIslands c.op0) :
    (¬s.signedImage c → s.cmdFwload c = s.outcome 1) ∧
    (s.signedImage c → s.imageVersion c < (s.firmware c.op0).version → s.cmdFwload c = s.outcome 2) ∧
    (s.signedImage c → (s.firmware c.op0).version ≤ s.imageVersion c → s.cmdFwload c = (s.firmwareLoaded c).outcome 0) := by
  have hsub : c.op2 - 64 - 3309 = c.op2 - 3373 := by omega
  unfold State.cmdFwload
  rw [if_neg (by simpa using And.intro hx hw), if_neg (by simpa using h), hsub]
  exact ⟨fun hs => if_pos ((refused_iff _ _ _ _ _).mpr hs),
    fun hs hv => (if_neg fun hr => (refused_iff _ _ _ _ _).mp hr hs).trans (if_pos hv),
    fun hs hv => (if_neg fun hr => (refused_iff _ _ _ _ _).mp hr hs).trans (if_neg (Nat.not_lt.mpr hv))⟩

end Fwload

/-! ## Fencing (R22, R418) -/

/-- A gang stands on a core. -/
def State.coreHeld (s : State) (x : Nat) : Prop := ∃ g ∈ s.gangs, g.2.held = true ∧ ∃ y ∈ g.2.groups, y.core = x

/-- The gangs on a core are asked to leave, and it takes no other. -/
def State.coreClosing (s : State) (x : Nat) : State :=
  (preempted s (· = x)).withSvc fun z => { z with closing := joinSet z.closing x }

/-- A core whose gangs are gone is fenced. -/
def State.coreFenced (s : State) (x : Nat) : State :=
  (s.coreClosing x).withSvc fun z => { z with closing := z.closing.filter (· != x), fenced := joinSet z.fenced x }

theorem ite_contains_eq_joinSet (l : List Nat) (x : Nat) : (if l.contains x then l else x :: l) = joinSet l x := by
  simp [joinSet]

theorem State.fence_eq_coreClosing (s : State) (x : Nat) : s.fence x = s.coreClosing x := by
  unfold State.fence State.coreClosing
  rw [s.preemptOn_eq_preempted _ (· = x) fun _ => beq_iff_eq]
  simp only [ite_contains_eq_joinSet]

theorem State.any_standsOn_coreClosing {s : State} {x : Nat} :
    (s.coreClosing x).gangs.any (fun g => g.2.standsOn (· == x)) = true ↔ s.coreHeld x := by
  unfold State.coreClosing State.coreHeld
  rw [State.withSvc_gangs, any_standsOn_preempted]
  simp [Gang.standsOn]

theorem State.fenced_of_coreHeld {s : State} {x : Nat} (v : Nat) (h : s.coreHeld x) : s.fenced x v = none := by
  unfold State.fenced
  rw [fence_eq_coreClosing]
  exact if_pos (State.any_standsOn_coreClosing.mpr h)

theorem State.fenced_of_not_coreHeld {s : State} {x : Nat} (v : Nat) (h : ¬s.coreHeld x) :
    s.fenced x v = some ((s.coreFenced x).outcome v) := by
  unfold State.fenced State.coreFenced
  simp only [fence_eq_coreClosing, ite_contains_eq_joinSet]
  exact if_neg fun hc => h (State.any_standsOn_coreClosing.mp hc)

theorem State.testFails_iff {s : State} {x : Nat} : s.testFails x = true ↔ x ∈ Config.failedCores s.fresh ∨ x ∈ s.svc.closing := by
  simp [State.testFails, or_comm]

section PhysicalFence
variable {s : State} {f value : Nat} {c : Cmd} {act : State → Cmd → Option Answer}
  (h : s.command f = some c) (hv : c.value = value) (hf : f = 0) (hc : c.ctx = 0)
include h hv hf hc

theorem State.runFence_arg (hx : 4608 ≤ c.op0) : s.runFence f value act = .next (answered s f 3 0) := by
  subst hf
  have : Config.cores ≤ c.op0 := hx
  simp [State.runFence, h, hv, hc, this, State.answer, CStat.arg, State.finish_eq_answered]

theorem State.runFence_outcome {u : State} {v : Nat} (hx : c.op0 < 4608) (ha : act s c = some (u.outcome v)) :
    s.runFence f value act = .next (answered u f 0 v) := by
  subst hf
  have : ¬Config.cores ≤ c.op0 := Nat.not_le.mpr hx
  simp [State.runFence, h, hv, hc, this, ha, State.outcome, CStat.ok, State.finish_eq_answered]

/-- A command that fences its core waits while a gang stands on it, and completes once none does. -/
theorem State.runFence_fenced {out : Nat} (hx : c.op0 < 4608) (ha : act s c = s.fenced c.op0 out) :
    (s.coreHeld c.op0 → s.runFence f value act = .next (s.coreClosing c.op0)) ∧
    (¬s.coreHeld c.op0 → s.runFence f value act = .next (answered (s.coreFenced c.op0) f 0 out)) := by
  refine ⟨fun hg => ?_, fun hg => State.runFence_outcome h hv hf hc hx (ha.trans (State.fenced_of_not_coreHeld out hg))⟩
  subst hf
  have hcore : ¬Config.cores ≤ c.op0 := Nat.not_le.mpr hx
  simp [State.runFence, h, hv, hc, hcore, ha, State.fenced_of_coreHeld out hg, State.fence_eq_coreClosing]

end PhysicalFence

theorem State.cmdSelftest_fails {s : State} {c : Cmd} (h : s.testFails c.op0 = true) : s.cmdSelftest c = s.fenced c.op0 4 := by
  simp [State.cmdSelftest, h, SvcOut.failed]

theorem State.cmdSelftest_passes {s : State} {c : Cmd} (h : ¬s.testFails c.op0 = true) : s.cmdSelftest c = some (s.outcome 0) := by
  simp [State.cmdSelftest, h, SvcOut.done]

theorem State.cmdUnfence_fails {s : State} {c : Cmd} (h : s.testFails c.op0 = true) : s.cmdUnfence c = s.fenced c.op0 4 := by
  simp [State.cmdUnfence, h, SvcOut.failed]

theorem State.cmdUnfence_passes {s : State} {c : Cmd} (h : ¬s.testFails c.op0 = true) :
    s.cmdUnfence c = some ((s.withSvc fun z => { z with fenced := z.fenced.filter (· != c.op0) }).outcome 0) := by
  simp [State.cmdUnfence, h, SvcOut.done]

/-! ## Attestation (R417) -/

theorem leNat_testBit (bs : List Byte) (q r : Nat) (hr : r < 8) : (leNat bs).testBit (8 * q + r) = (bs.getD q 0).getLsbD r := by
  induction bs generalizing q with
  | nil => simp [leNat]
  | cons b bs ih =>
    rw [leNat, Nat.add_comm, show (256 : Nat) = 2 ^ 8 from rfl, Nat.testBit_two_pow_mul_add _ b.isLt]
    cases q with
    | zero => rw [if_pos (by omega), Nat.mul_zero, Nat.zero_add, BitVec.testBit_toNat, List.getD_cons_zero]
    | succ q =>
      rw [if_neg (by omega), show 8 * (q + 1) + r - 8 = 8 * q + r by omega, ih]
      rfl

/-- The number whose bits below k a test gives. -/
theorem testBit_foldl_add_two_pow (p : Nat → Bool) (k : Nat) :
    (List.range k).foldl (fun v j => if p j then v + 2 ^ j else v) 0 < 2 ^ k ∧
    ∀ r, r < k → ((List.range k).foldl (fun v j => if p j then v + 2 ^ j else v) 0).testBit r = p r := by
  induction k with
  | zero => simp
  | succ k ih =>
    obtain ⟨hlt, hbit⟩ := ih
    rw [List.range_succ, List.foldl_append, List.foldl_cons, List.foldl_nil]
    generalize (List.range k).foldl (fun v j => if p j then v + 2 ^ j else v) 0 = v at hlt hbit
    have htop : v.testBit k = false := Nat.testBit_lt_two_pow hlt
    split
    next hk =>
      refine ⟨by omega, fun r hr => ?_⟩
      rw [show v + 2 ^ k = 2 ^ k * 1 + v by omega, Nat.testBit_two_pow_mul_add _ hlt]
      by_cases hrk : r < k
      · rw [if_pos hrk, hbit r hrk]
      · obtain rfl : r = k := by omega
        simp [hk]
    next hk =>
      refine ⟨by omega, fun r hr => ?_⟩
      by_cases hrk : r < k
      · exact hbit r hrk
      · obtain rfl : r = k := by omega
        simp [hk, htop]

@[simp] theorem bitmapBytes_length (n : Nat) (p : Nat → Bool) : (bitmapBytes n p).length = n := by simp [bitmapBytes]

theorem leNat_bitmapBytes_testBit (n : Nat) (p : Nat → Bool) {i : Nat} (hi : i < 8 * n) : (leNat (bitmapBytes n p)).testBit i = p i := by
  have hq : i / 8 < n := by omega
  have hr : i % 8 < 8 := by omega
  obtain ⟨-, hbit⟩ := testBit_foldl_add_two_pow (fun j => p (8 * (i / 8) + j)) 8
  rw [← Nat.div_add_mod i 8, leNat_testBit _ _ _ hr, ← hbit _ hr]
  rw [bitmapBytes, List.getD_eq_getElem?_getD, List.getElem?_map, List.getElem?_range hq]
  simp only [Option.map_some, Option.getD_some, BitVec.getLsbD_ofNat, hr, decide_true, Bool.true_and]

@[simp] theorem State.homeRead_length (s : State) (slot : Option Nat) (pa n : Nat) : (s.homeRead slot pa n).length = n := by
  simp [State.homeRead]

theorem padTo_take_self {n : Nat} {l : List Byte} (h : l.length = n) : padTo n (l.take n) = l := by
  subst h
  simp [padTo]

/-- Bit c set for each fenced core c. -/
def State.fencedBits (s : State) : List Byte := bitmapBytes 576 fun c => s.svc.fenced.contains c

/-- Bit i set for each live context i. -/
def State.liveBits (s : State) : List Byte := bitmapBytes 16 fun c => (s.ctx c).st != .free

/-- The attestation report but its signature, with the nonce at a host address. -/
def State.attested (s : State) (nonceAt : Nat) : List Byte :=
  leBytes 8 (0x0001 + 0x0100 * 2 ^ 16) ++ s.homeRead none (2 ^ 55 + nonceAt % 2 ^ 54) 32 ++ leBytes 8 s.clk.ns ++
    ((List.range 8).flatMap fun i => padTo 64 ((s.firmware i).measure.take 64)) ++
    ((List.range 8).flatMap fun i => leBytes 4 (s.firmware i).version) ++ s.fencedBits ++ s.liveBits ++
    padTo 1952 (Config.identityKey.take 1952)

theorem State.cmdAttest_eq (s : State) (c : Cmd) : s.cmdAttest c =
    (s.homeWrite none (2 ^ 55 + c.op0 % 2 ^ 54)
      (s.attested c.op1 ++ padTo 3309 ((Config.mldsaSign (s.attested c.op1)).take 3309))).outcome 0 := by
  have hbody : s.reportBody (s.homeRead none (hostPa c.op1) 32) = s.attested c.op1 := by
    rw [State.reportBody, padTo_take_self (State.homeRead_length _ _ _ _)]
    rfl
  rw [State.cmdAttest, hbody]
  rfl

/-! ## The governor (R419) -/

/-- The least rate the governor sets. -/
def State.lowestRate (s : State) : Nat :=
  (List.range Config.cores).foldl (fun m core => min m (Config.governorRate s.fresh core).toNat) 255

/-- The evaluations of the last millisecond with one made now. -/
def State.evalsWith (s : State) (watts : Nat) : List (Nat × Nat × Nat) :=
  (s.now, watts, s.lowestRate) :: s.svc.evals.filter fun e => s.now < e.1 + 1000 * oneUs

/-- The machine with the rates of its cores and the governor's registers set. Its fields are compared by `dsimp only`, which leaves the
list of 4,608 cores folded. -/
def State.governed (s : State) (watts : Nat) : State :=
  { s with
    cores := (List.range Config.cores).map fun core => (core, { s.core core with rate := (Config.governorRate s.fresh core).toNat })
    svc := { s.svc with
      evals := s.evalsWith watts, power := mean ((s.evalsWith watts).map (·.2.1))
      ratemin := ((s.evalsWith watts).map (·.2.2)).foldl min 255 } }

theorem execGovernorEval_early {s : State} {watts : Nat} (h : s.now < (s.svc.evals.head?.map (·.1)).getD 0 + 9400) :
    execGovernorEval watts s = .next s := by
  rw [show 9400 = 10 * oneUs from rfl] at h
  exact if_pos h

theorem execGovernorEval_due {s : State} {watts : Nat} (h : (s.svc.evals.head?.map (·.1)).getD 0 + 9400 ≤ s.now) :
    execGovernorEval watts s = .next (s.governed watts) := by
  rw [show 9400 = 10 * oneUs from rfl] at h
  unfold execGovernorEval
  dsimp only
  rw [if_neg (Nat.not_lt.mpr h)]
  unfold State.governed State.evalsWith State.lowestRate State.withSvc
  dsimp only

theorem State.governed_core (s : State) (watts : Nat) {core : Nat} (h : core < 4608) :
    (s.governed watts).core core = { s.core core with rate := (Config.governorRate s.fresh core).toNat } := by
  have hmem : core ∈ List.range Config.cores := List.mem_range.mpr h
  unfold State.governed State.core
  dsimp only
  exact FMap.lookD_map_pair _ _ hmem

theorem State.governed_evals (s : State) (watts : Nat) : (s.governed watts).svc.evals =
    (s.now, watts, (List.range 4608).foldl (fun m core => min m (Config.governorRate s.fresh core).toNat) 255) ::
      s.svc.evals.filter fun e => s.now < e.1 + 940000 := by
  rw [← show 1000 * oneUs = 940000 from rfl]
  unfold State.governed State.evalsWith State.lowestRate Config.cores
  dsimp only

theorem State.governed_power (s : State) (watts : Nat) : (s.governed watts).svc.power =
    ((s.governed watts).svc.evals.map (·.2.1)).foldl (· + ·) 0 / (s.governed watts).svc.evals.length := by
  unfold State.governed State.evalsWith mean
  simp

theorem State.governed_ratemin (s : State) (watts : Nat) : (s.governed watts).svc.ratemin =
    ((s.governed watts).svc.evals.map (·.2.2)).foldl min 255 := by
  unfold State.governed
  dsimp only

theorem State.governed_frame (s : State) (watts : Nat) :
    (s.governed watts).teams = s.teams ∧ (s.governed watts).gangs = s.gangs ∧ (s.governed watts).mem = s.mem := by
  unfold State.governed
  exact ⟨rfl, rfl, rfl⟩

/-- Settles O54: each command of the table goes through `runService` or `runFence`, so who may issue it is said once (`ServiceRow`),
and each effect is the equation of its command under that command's conditions. -/
theorem serviceCommands : Obligations.ServiceCommands := by
  unfold Obligations.ServiceCommands
  intro s f v c x y w island watts table done fails asked fenced standing fences busyDie image body digest sig hdr signed nonce
    occupied due rate
  have hrow := serviceRow_of_mem_table s f
  refine ⟨fun hn p hp => (hrow p hp).idle (State.command_of_noCommand hn), fun hn => ?_, fun h => ?_, fun h ho => ?_,
    s.settleRecal_stalls, State.islandFree_iff, rfl, fun h => ?_, fun h => ?_⟩
  · have hcmd := State.command_of_nextCommand hn
    refine ⟨fun p hp => (hrow p hp).other _ hcmd, fun hd p hp hv => (hrow p hp).denied _ hcmd hv hd, fun hf hc =>
      ⟨fun hv => ?_, fun hv => ?_, fun hx => ?_, fun hx => ?_, fun hv => ?_⟩⟩
    · exact ⟨fun hx => State.runService_answer hcmd hv hf hc (State.cmdRecal_arg hx),
        fun hx hb => State.runService_outcome hcmd hv hf hc (State.cmdRecal_busy hx hb),
        fun hx hb => State.runService_outcome hcmd hv hf hc (State.cmdRecal_done hx hb)⟩
    · refine ⟨fun hx => State.runService_answer hcmd hv hf hc (State.cmdFwload_arg hx), fun hx hw =>
        ⟨fun hb => State.runService_outcome hcmd hv hf hc (State.cmdFwload_busy hx hw hb), fun hb => ?_⟩⟩
      obtain ⟨hbad, hold, hload⟩ := State.cmdFwload_checks (s := s) (c := ⟨f, v, c, x, y, w⟩) hx hw hb
      exact ⟨fun hs => State.runService_outcome hcmd hv hf hc (hbad hs),
        fun hs hver => State.runService_outcome hcmd hv hf hc (hold hs hver),
        fun hs hver => State.runService_outcome hcmd hv hf hc (hload hs hver)⟩
    · exact ⟨fun hv => State.runFence_arg hcmd hv hf hc hx, fun hv => State.runFence_arg hcmd hv hf hc hx,
        fun hv => State.runFence_arg hcmd hv hf hc hx⟩
    · have hfails : s.testFails x = true ↔ fails := State.testFails_iff
      refine ⟨fun hv => ?_, fun hv => State.runFence_fenced hcmd hv hf hc hx rfl, fun hv => ?_⟩
      · exact ⟨fun ht => State.runFence_fenced hcmd hv hf hc hx (State.cmdSelftest_fails (hfails.mpr ht)),
          fun ht => State.runFence_outcome hcmd hv hf hc hx (State.cmdSelftest_passes (ht ∘ hfails.mp))⟩
      · exact ⟨fun ht => State.runFence_fenced hcmd hv hf hc hx (State.cmdUnfence_fails (hfails.mpr ht)),
          fun ht => State.runFence_outcome hcmd hv hf hc hx (State.cmdUnfence_passes (ht ∘ hfails.mp))⟩
    · refine ⟨s.fencedBits, s.liveBits, _, State.runService_outcome hcmd hv hf hc (s.cmdAttest_eq _), bitmapBytes_length _ _,
        bitmapBytes_length _ _, rfl, fun i hi => ?_, fun i hi => ?_⟩
      · simp [State.fencedBits, leNat_bitmapBytes_testBit 576 _ hi]
      · simp [State.liveBits, leNat_bitmapBytes_testBit 16 _ hi]
  · exact execRecalComplete_waits (h.imp_right fun ho hfree => State.islandFree_iff.mp hfree ho)
  · exact execRecalComplete_ends h (State.islandFree_iff.mpr ho)
  · exact execGovernorEval_early (Nat.not_le.mp h)
  · exact ⟨s.governed watts, execGovernorEval_due h, fun core hcore => s.governed_core watts hcore, s.governed_evals watts,
      s.governed_power watts, s.governed_ratemin watts, s.governed_frame watts⟩

end Sys2Proof.Machine
end

section
/-! PROOFS. Accumulators after one of their words is written (spec/12_tile.md R249, R250). -/

namespace Sys2Proof

/-- The entries of a map whose keys pass a test. -/
theorem FMap.look_filter {α : Type} (p : Nat → Bool) (m : FMap α) (k : Nat) :
    FMap.look (m.filter fun e => p e.1) k = if p k then FMap.look m k else none := by
  induction m with
  | nil => simp
  | cons x r ih =>
    obtain ⟨j, v⟩ := x
    by_cases hj : j = k
    · subst hj
      cases hp : p j <;> simp [hp, FMap.look_cons, ih]
    · cases hp : p j <;> simp [hp, FMap.look_cons, hj, ih]

end Sys2Proof

namespace Sys2Proof.Machine
open Sys2Proof.Claim

/-! ## What the accumulators hold, and each operation on them -/

/-- The tag of word w of accumulator c; none is Empty. -/
def Accs.tag (a : Accs) (c w : Nat) : Option AccTag := FMap.look a.tags (c * 32 + w)
/-- Element j of lane l of accumulator c. -/
def Accs.elem (a : Accs) (c l j : Nat) : Word := FMap.lookD a.elems ((c * 1024 + l) * 32 + j) 0
/-- The void bit of lane l of accumulator c. -/
def Accs.voided (a : Accs) (c l : Nat) : Bool := (FMap.lookD a.void c 0).getLsbD l

theorem Team.accTag_eq (t : Team) (c w : Nat) : t.accTag c w = t.acc.tag c w := rfl
theorem Team.accElem_eq (t : Team) (c l j : Nat) : t.accElem c l j = t.acc.elem c l j := rfl
theorem Team.accVoid_eq (t : Team) (c l : Nat) : t.accVoid c l = t.acc.voided c l := rfl

section Retag
variable (a : Accs) {c w : Nat} (tag : AccTag) (hw : w < 32)
include hw

theorem Accs.retag_tag (d : Nat) {x : Nat} (hx : x < 32) :
    (a.retag [w] c tag).tag d x = if d = c ∧ x = w then some tag else a.tag d x := by
  have htags : (a.retag [w] c tag).tags = FMap.put a.tags (c * 32 + w) tag := by
    simp only [Accs.retag, List.foldl_cons, List.foldl_nil]
    cases FMap.look a.tags (c * 32 + w) <;> rfl
  unfold Accs.tag
  rw [htags]
  split
  next h => rw [h.1, h.2, FMap.look_put_same]
  next h => exact FMap.look_put_ne _ _ (by omega)

/-- A word that leaves Empty holds +0 everywhere. -/
theorem Accs.retag_elem (d : Nat) {l j : Nat} (hl : l < 1024) (hj : j < 32) :
    (a.retag [w] c tag).elem d l j = if d = c ∧ l / 32 = w ∧ a.tag c w = none then 0 else a.elem d l j := by
  have hkey : ((d * 1024 + l) * 32 + j) / 1024 = c * 32 + w ↔ d = c ∧ l / 32 = w := by omega
  unfold Accs.elem Accs.tag
  simp only [Accs.retag, List.foldl_cons, List.foldl_nil]
  cases FMap.look a.tags (c * 32 + w) with
  | some x => simp
  | none =>
    dsimp only
    unfold FMap.lookD
    rw [FMap.look_filter (fun k => k / 1024 != c * 32 + w)]
    simp only [bne_iff_ne, ne_eq, hkey]
    by_cases h : d = c ∧ l / 32 = w <;> simp [h]

/-- A word that leaves Empty has its void bits clear. -/
theorem Accs.retag_voided (d : Nat) {l : Nat} (hl : l < 1024) :
    (a.retag [w] c tag).voided d l = if d = c ∧ l / 32 = w ∧ a.tag c w = none then false else a.voided d l := by
  have hbit : ((BitVec.allOnes 32).setWidth 1024 <<< (32 * w)).getLsbD l = (l / 32 == w) := by
    have hall := inWord_getLsbD (BitVec.allOnes 1024) w l hl hw
    rwa [inWord, BitVec.allOnes_and, BitVec.getLsbD_allOnes, decide_eq_true hl, Bool.true_and] at hall
  unfold Accs.voided Accs.tag
  simp only [Accs.retag, List.foldl_cons, List.foldl_nil]
  cases FMap.look a.tags (c * 32 + w) with
  | some x => simp
  | none =>
    dsimp only
    by_cases hd : d = c
    · subst hd
      rw [FMap.lookD_putD_same, BitVec.getLsbD_and, BitVec.getLsbD_not, hbit]
      by_cases h : l / 32 = w <;> simp [h, hl]
    · rw [FMap.lookD_putD_ne _ _ _ _ hd]
      simp [hd]

omit hw in
theorem Accs.retag_rank : (a.retag [w] c tag).rank = a.rank := by
  simp only [Accs.retag, List.foldl_cons, List.foldl_nil]
  cases FMap.look a.tags (c * 32 + w) <;> rfl

end Retag

/-- A row whose 32 elements a function gives. -/
def fullRow (g : Nat → Word) : List (Nat × Word) := (List.range 32).map fun j => (j, g j)

theorem Accs.setRow_elem (a : Accs) (c : Nat) {l : Nat} (g : Nat → Word) (d : Nat) {m j : Nat} (hl : l < 1024) (hm : m < 1024)
    (hj : j < 32) : (a.setRow c l (fullRow g)).elem d m j = if d = c ∧ m = l then g j else a.elem d m j := by
  obtain ⟨hset, hkeep⟩ := FMap.lookD_foldl_putD (List.range 32) (fun j => (c * 1024 + l) * 32 + j) g 0 a.elems
    ((d * 1024 + m) * 32 + j) (fun _ _ _ _ h => Nat.add_left_cancel h)
  unfold Accs.elem Accs.setRow fullRow
  rw [List.foldl_map]
  split
  next h => exact hset j (List.mem_range.mpr hj) (by rw [h.1, h.2])
  next h => exact hkeep fun i hi => by have := List.mem_range.mp hi; omega

section SetRows
variable (a : Accs) (c : Nat) (ls : List Nat)

theorem Accs.setRows_elem (g : Nat → Nat → Word) (d : Nat) {m j : Nat} (hls : ∀ l ∈ ls, l < 1024) (hm : m < 1024) (hj : j < 32) :
    (a.setRows c ls fun l => fullRow (g l)).elem d m j = if d = c ∧ m ∈ ls then g m j else a.elem d m j := by
  induction ls generalizing a with
  | nil => simp [Accs.setRows]
  | cons l ls ih =>
    have hstep : a.setRows c (l :: ls) (fun l => fullRow (g l)) = (a.setRow c l (fullRow (g l))).setRows c ls fun l => fullRow (g l) := rfl
    rw [hstep, ih _ fun x hx => hls x (List.mem_cons_of_mem _ hx), Accs.setRow_elem _ _ _ _ (hls l List.mem_cons_self) hm hj]
    by_cases hd : d = c
    · by_cases hml : m = l
      · subst hml
        simp [hd]
      · simp [hd, hml]
    · simp [hd]

theorem Accs.setRows_eq (f : Nat → List (Nat × Word)) : a.setRows c ls f = { a with elems := (a.setRows c ls f).elems } := by
  induction ls generalizing a with
  | nil => rfl
  | cons l ls ih => exact ih (a.setRow c l (f l))

theorem Accs.setRows_tag (f : Nat → List (Nat × Word)) : (a.setRows c ls f).tag = a.tag := by
  rw [Accs.setRows_eq]
  rfl

theorem Accs.setRows_voided (f : Nat → List (Nat × Word)) : (a.setRows c ls f).voided = a.voided := by
  rw [Accs.setRows_eq]
  rfl

theorem Accs.setRows_rank (f : Nat → List (Nat × Word)) : (a.setRows c ls f).rank = a.rank := by
  rw [Accs.setRows_eq]

end SetRows

theorem Accs.setVoid_voided (a : Accs) (c : Nat) (m : Mask) (v : Bool) (d : Nat) {l : Nat} (hl : l < 1024) :
    (a.setVoid c m v).voided d l =
      if d = c then (if v then a.voided c l || m.getLsbD l else a.voided c l && !m.getLsbD l) else a.voided d l := by
  unfold Accs.voided Accs.setVoid
  by_cases hd : d = c
  · subst hd
    rw [FMap.lookD_putD_same]
    cases v <;> simp [hl]
  · rw [FMap.lookD_putD_ne _ _ _ _ hd]
    simp [hd]

/-! ## A word written in some of its lanes -/

/-- Word w of accumulator c becomes Sum, its lanes of a list take the elements given and its void bits what they are said to be;
what else a word that was Empty holds is +0, and everything else of the team but its sticky flags stays. -/
structure WordWritten (t u : Team) (c w : Nat) (ls : List Nat) (g : Nat → Nat → Word) (void : Nat → Bool) : Prop where
  same : u = { t with acc := u.acc, sticky := u.sticky }
  tag : ∀ d x, x < 32 → u.accTag d x = if d = c ∧ x = w then some .a64 else t.accTag d x
  elem : ∀ d l j, l < 1024 → j < 32 → u.accElem d l j =
    if d = c ∧ l ∈ ls then g l j else if d = c ∧ l / 32 = w ∧ t.accTag c w = none then 0 else t.accElem d l j
  void : ∀ d l, l < 1024 → u.accVoid d l = if d = c then void l else t.accVoid d l
  rank : ∀ d l, u.accRank d l = t.accRank d l

/-- The void bits of a word that is written, before they are set: a word that was Empty has none. -/
def Team.voidKept (t : Team) (c w l : Nat) : Bool := if l / 32 = w ∧ t.accTag c w = none then false else t.accVoid c l

theorem wordWritten_retag_setRows (t : Team) (c : Nat) {w : Nat} (ls : List Nat) (g : Nat → Nat → Word) (f : Sticky) (hw : w < 32)
    (hls : ∀ l ∈ ls, l < 1024) :
    WordWritten t { t with acc := (t.acc.retag [w] c .a64).setRows c ls fun l => fullRow (g l), sticky := f } c w ls g
      (t.voidKept c w) where
  same := rfl
  tag d x hx := by
    simp only [Team.accTag_eq, Accs.setRows_tag]
    exact Accs.retag_tag _ _ hw d hx
  elem d l j hl hj := by
    rw [Team.accElem_eq, Accs.setRows_elem _ _ _ _ _ hls hl hj, Accs.retag_elem _ _ hw d hl hj]
    rfl
  void d l hl := by
    simp only [Team.voidKept, Team.accVoid_eq, Accs.setRows_voided]
    rw [Accs.retag_voided _ _ hw d hl]
    by_cases hd : d = c
    · subst hd
      rw [if_pos rfl]
      simp only [true_and]
      rfl
    · rw [if_neg hd, if_neg fun h => hd h.1]
  rank d l := by simp only [Team.accRank, Accs.setRows_rank, Accs.retag_rank]

/-- Setting or clearing void bits of the accumulator afterwards. -/
theorem WordWritten.setVoid {t u : Team} {c w : Nat} {ls : List Nat} {g : Nat → Nat → Word} {void : Nat → Bool}
    (h : WordWritten t u c w ls g void) (m : Mask) (v : Bool) :
    WordWritten t { u with acc := u.acc.setVoid c m v } c w ls g
      (fun l => if v then void l || m.getLsbD l else void l && !m.getLsbD l) where
  same := by rw [h.same]
  tag := h.tag
  elem := h.elem
  void d l hl := by
    have hvoid := h.void d l hl
    simp only [Team.accVoid_eq] at hvoid ⊢
    rw [Accs.setVoid_voided _ _ _ _ _ hl]
    by_cases hd : d = c
    · subst hd
      rw [if_pos rfl] at hvoid
      simp [hvoid]
    · rw [if_neg hd] at hvoid
      simp [hd, hvoid]
  rank := h.rank

section Written
variable {t u : Team} {c w : Nat} {ls : List Nat} {g : Nat → Nat → Word} {void : Nat → Bool} (h : WordWritten t u c w ls g void)
include h

theorem WordWritten.accFrame : accFrame t u [c] := by
  refine ⟨h.same, fun d hd => ?_⟩
  have hd : d ≠ c := by simpa using hd
  exact ⟨fun x hx => by simp [h.tag d x hx, hd], fun l hl =>
    ⟨fun j hj => by simp [h.elem d l j hl hj, hd], by simp [h.void d l hl, hd], h.rank d l⟩⟩

/-- A word written in its active lanes, as the statements put it. -/
theorem WordWritten.accHolds {act : Mask} {b : Bool} (hls : ∀ l, l ∈ ls ↔ t.live act l) (hlive : t.wordLive act w)
    (hin : ∀ l, act.getLsbD l = true → l / 32 = w) (hset : ∀ l, t.live act l → void l = b)
    (hclear : ∀ l, l / 32 = w → act.getLsbD l = false → t.accTag c w = none → void l = false)
    (hkeep : ∀ l, l < 32 * (t.lanes / 32) → act.getLsbD l = false → l / 32 ≠ w ∨ t.accTag c w ≠ none → void l = t.accVoid c l) :
    accHolds t u act c (fun _ => .a64) (fun l j => some (g l j)) (fun _ => b) (t.accRank c) := by
  have hword : ∀ x, x < t.lanes / 32 → (wordMask act x ≠ 0 ↔ x = w) := fun x hx => by
    refine ⟨fun hne => ?_, fun hxw => hxw ▸ hlive.2⟩
    obtain ⟨-, i, hi, hbit⟩ := wordLive_iff.mp ⟨hx, hne⟩
    have := hin _ hbit
    omega
  refine ⟨fun x hx hx32 => ⟨fun hne => ?_, fun hz => ?_⟩, fun l hl hl1024 => ?_⟩
  · rw [h.tag c x hx32, if_pos ⟨rfl, (hword x hx).mp hne⟩]
  · rw [h.tag c x hx32, if_neg fun hc => (hword x hx).mpr hc.2 hz]
  · have hw := hword (l / 32) (by omega)
    refine ⟨fun ha => ⟨fun j hj => ?_, ?_, h.rank c l⟩, fun ha => ⟨fun j hj => ?_, h.rank c l, fun hne hnone => ?_, fun hor => ?_⟩⟩
    · rw [h.elem c l j hl1024 hj, if_pos ⟨rfl, (hls l).mpr ⟨hl, ha⟩⟩]
      rfl
    · rw [h.void c l hl1024, if_pos rfl, hset l ⟨hl, ha⟩]
    · have hnot : l ∉ ls := fun hmem => by simp [((hls l).mp hmem).2] at ha
      rw [h.elem c l j hl1024 hj, if_neg fun hc => hnot hc.2]
      simp only [true_and, hw]
      by_cases hlw : l / 32 = w
      · simp [hlw]
      · simp [hlw]
    · have hlw := hw.mp hne
      rw [h.void c l hl1024, if_pos rfl, hclear l hlw ha (hlw ▸ hnone)]
    · rw [h.void c l hl1024, if_pos rfl]
      refine hkeep l hl ha ?_
      by_cases hlw : l / 32 = w
      · exact .inr (hlw ▸ hor.resolve_left (hw.mpr hlw))
      · exact .inl hlw

end Written

end Sys2Proof.Machine
end

section
/-! PROOFS. The arithmetic of a chunk (spec/02_formats.md R40, R41; spec/12_tile.md R253, R258, R259). -/

namespace Sys2Proof.Machine
open Sys2Proof.Claim

/-! ## The elements of a chunk -/

theorem Elem.decode_e4m3_byte (b : Byte) : Elem.e4m3.decode false b.toNat = decodeFloat Fmt.e4m3 false b.toNat := by
  simp only [Elem.decode, Elem.fmt, Elem.width, Nat.mod_eq_of_lt b.isLt, Bool.false_and]

theorem Elem.decode_i8_byte (b : Byte) : Elem.i8.decode false b.toNat = NumVal.ofInt (BitVec.ofNat 8 b.toNat).toInt := by
  simp only [Elem.decode, Elem.fmt, Elem.width, Elem.int, Nat.mod_eq_of_lt b.isLt]

theorem Elem.decode_i4_code {code : Nat} (h : code < 16) :
    Elem.i4.decode false code = NumVal.ofInt (if code = 8 then 0 else if 8 < code then (code : Int) - 16 else code) := by
  have hmod : code % 2 ^ 4 % 16 = code := by omega
  simp only [Elem.decode, Elem.fmt, Elem.width, Elem.int, hmod, decodeI4, beq_iff_eq]
  congr 1
  split
  · rfl
  · split <;> rfl

theorem Elem.decode_half {e : Elem} {f : Fmt} (hf : e.fmt = some f) (hw : e.width = 16) {b : Nat} (h : b < 2 ^ 16) :
    e.decode false b = decodeFloat f false b := by
  simp only [Elem.decode, hf, hw, Nat.mod_eq_of_lt h, Bool.false_and]

theorem Elem.decode_f32 (b : Nat) : Elem.f32.decode false b = decodeFloat Fmt.f32 false (b % 2 ^ 32) := rfl

theorem map_eq_map_range {α β : Type} (f : α → β) (l : List α) (d : α) :
    l.map f = (List.range l.length).map fun i => f (l.getD i d) :=
  List.ext_getElem (by simp) fun i hi _ => by
    have : i < l.length := by simpa using hi
    simp [this]

theorem nibbles_eq (l : List Byte) :
    nibbles l = (List.range (2 * l.length)).map fun i => (l.getD (i / 2) 0).toNat / 16 ^ (i % 2) % 16 := by
  induction l with
  | nil => rfl
  | cons b l ih =>
    have hb : b.toNat / 16 < 16 := by have := b.isLt; omega
    have hcons : nibbles (b :: l) = b.toNat % 16 :: b.toNat / 16 :: nibbles l := rfl
    rw [hcons, ih, List.length_cons, Nat.mul_succ, List.range_succ_eq_map, List.range_succ_eq_map]
    have hdiv : ∀ a, (a + 1 + 1) / 2 = a / 2 + 1 := fun a => by omega
    have hmod : ∀ a, (a + 1 + 1) % 2 = a % 2 := fun a => by omega
    simp [Function.comp_def, Nat.mod_eq_of_lt hb, hdiv, hmod]

theorem halfWords_eq (l : List Byte) : halfWords l =
    (List.range (l.length / 2)).map fun i => (l.getD (2 * i) 0).toNat + 256 * (l.getD (2 * i + 1) 0).toNat := by
  induction l using halfWords.induct with
  | case1 a b r ih =>
    have hlen : (a :: b :: r).length / 2 = r.length / 2 + 1 := by simp only [List.length_cons]; omega
    rw [halfWords, ih, hlen, List.range_succ_eq_map]
    simp [Function.comp_def, Nat.mul_add]
  | case2 l hne =>
    match l, hne with
    | [], _ => rfl
    | [a], _ => simp [halfWords]
    | a :: b :: r, hne => exact absurd rfl (hne a b r)

/-- A chunk row or column of 128 bytes has the elements that R252 and R253 give it. -/
theorem chunkElems_eq_chunkOf (form : Nat) {l : List Byte} (h : l.length = 128) : chunkElems form l = chunkOf form l := by
  have hbyte : ∀ b : Byte, b.toNat < 256 := fun b => b.isLt
  match form with
  | 0 =>
    simp only [chunkElems, Elem.decode_e4m3_byte]
    rw [map_eq_map_range _ l 0, h]
    rfl
  | 1 =>
    simp only [chunkElems, Elem.decode_i8_byte]
    rw [map_eq_map_range _ l 0, h]
    rfl
  | 2 =>
    simp only [chunkElems]
    rw [nibbles_eq, h, List.map_map]
    exact List.map_congr_left fun i _ => Elem.decode_i4_code (Nat.mod_lt _ (by decide))
  | 3 =>
    simp only [chunkElems]
    rw [halfWords_eq, h, List.map_map]
    exact List.map_congr_left fun i _ => Elem.decode_half rfl rfl (by
      have := hbyte (l.getD (2 * i) 0); have := hbyte (l.getD (2 * i + 1) 0); omega)
  | n + 4 =>
    simp only [chunkElems]
    rw [halfWords_eq, h, List.map_map]
    exact List.map_congr_left fun i _ => Elem.decode_half rfl rfl (by
      have := hbyte (l.getD (2 * i) 0); have := hbyte (l.getD (2 * i + 1) 0); omega)

/-! ## Sum, scales and merge (R40, R41) -/

theorem chunkSum_eq_sumOf (a b : List NumVal) : chunkSum a b = sumOf a b := rfl

theorem chunkAddend_eq_addedOf (form : Nat) (s sa sb : NumVal) : chunkAddend form s sa sb = addedOf form s sa sb := by
  simp only [chunkAddend, addedOf, bne_iff_ne, Bool.or_eq_true, or_assoc]
  rfl

theorem chunkMerge_eq_rounded (acc x : NumVal) : chunkMerge acc x = rounded Fmt.f64 0 false (NumVal.add false acc x) [acc, x] := by
  simp [chunkMerge, rounded, rne64, Mode.ofField, Bool.and_assoc]

theorem pricked_eq_maskedBy (p : Prick) (base l j : Nat) : pricked (some (p, base)) l j = maskedBy p l (base + j) := by
  unfold pricked maskedBy
  dsimp only
  by_cases hlow : base + j < p.p
  · rw [if_pos hlow, decide_eq_false (Nat.not_le.mpr hlow), Bool.false_and]
  · rw [if_neg hlow, decide_eq_true (Nat.le_of_not_lt hlow), Bool.true_and]
    by_cases htop : base + j < p.p + p.n
    · rw [if_pos htop, decide_eq_true htop, Bool.true_and]
    · rw [if_neg htop, decide_eq_false htop, Bool.false_and, Bool.not_false]

theorem Oper.reserved_eq_holds8 (o : Oper) : o.reserved = holds8 o.bytes := by
  unfold Oper.reserved nibbles holds8
  rw [List.any_flatMap]
  simp

/-! ## A row of the product (R258) -/

theorem WordOp.before_eq (w : WordOp) (t : Team) (fresh l j : Nat) (h : w.first = false → t.accTag w.acc w.word ≠ none) :
    w.before t fresh l j = if w.first then NumVal.fin false 0 0 else decodeFloat Fmt.f64 false (t.accElem w.acc l j).toNat := by
  unfold WordOp.before
  cases hf : w.first with
  | true => rfl
  | false => simp [h hf]

/-- Element j of row l as column o gives it, and its flags: minus infinity where it is masked. -/
def WordOp.cell (w : WordOp) (t : Team) (fresh l j : Nat) (o : Oper) : Word × Sticky :=
  let bytes := fun (m : FMap Oper) => ((FMap.look m l).map (·.bytes)).getD []
  let s := chunkSum (chunkElems w.form (bytes w.a)) (chunkElems w.form o.bytes)
  let x := chunkAddend w.form s.1 (Elem.f32.decode false (leNat (bytes w.scales))) (Elem.f32.decode false w.bscale)
  let m := chunkMerge (w.before t fresh l j) x.1
  let reserved := w.form == 2 && ((FMap.look w.a l).map Oper.reserved).getD false || w.form == 2 && o.reserved
  if pricked w.prick l j then (minusInf, Sticky.none)
  else (BitVec.ofNat 64 m.1, s.2 ||| x.2 ||| m.2 ||| if reserved then Sticky.rsv4 else Sticky.none)

/-- The columns' elements of row l with their numbers. -/
def WordOp.cells (w : WordOp) (t : Team) (fresh l : Nat) : List (Nat × Word × Sticky) :=
  w.b.zipIdx.map fun x => (x.2, w.cell t fresh l x.2 x.1)

theorem WordOp.row_eq_cells (w : WordOp) (t : Team) (fresh l : Nat) : w.row t fresh l =
    ((w.cells t fresh l).map fun c => (c.1, c.2.1), (w.cells t fresh l).foldl (fun f c => f ||| c.2.2) Sticky.none) := by
  unfold WordOp.row WordOp.cells
  dsimp only
  rw [List.map_map, List.map_map, List.foldl_map, List.foldl_map]
  congr 1
  · refine List.map_congr_left fun x _ => ?_
    dsimp only [Function.comp, WordOp.cell]
    split <;> rfl
  · congr 1
    funext f x
    dsimp only [WordOp.cell]
    split <;> rfl

section Product
variable {w : WordOp} {t : Team} {l : Nat} {o : Oper} (fresh : Nat) (hcols : ∀ x ∈ w.b, x.bytes.length = 128)
  (ha : FMap.look w.a l = some o) (hrow : o.bytes.length = 128) (htag : w.first = false → t.accTag w.acc w.word ≠ none)
include hcols ha hrow htag

theorem WordOp.cell_eq_productAt {j : Nat} (hj : j < w.b.length) : w.cell t fresh l j w.b[j] = productAt w t l j := by
  have hmask : pricked w.prick l j = match w.prick with | some (p, base) => maskedBy p l (base + j) | none => false := by
    cases w.prick with
    | none => rfl
    | some p => exact pricked_eq_maskedBy p.1 p.2 l j
  have hres : ((w.form == 2 && holds8 o.bytes || w.form == 2 && holds8 w.b[j].bytes) = true) =
      (w.form = 2 ∧ (holds8 o.bytes = true ∨ holds8 w.b[j].bytes = true)) := by
    simp only [Bool.or_eq_true, Bool.and_eq_true, beq_iff_eq, and_or_left]
  simp only [WordOp.cell, productAt, ha, Option.map_some, Option.getD_some, List.getElem?_eq_getElem hj,
    chunkElems_eq_chunkOf _ hrow, chunkElems_eq_chunkOf _ (hcols _ (List.getElem_mem hj)), chunkSum_eq_sumOf,
    chunkAddend_eq_addedOf, chunkMerge_eq_rounded, WordOp.before_eq w t fresh l j htag, Oper.reserved_eq_holds8, Elem.decode_f32,
    hmask, hres]
  rfl

/-- With 32 columns of full length, a row of full length and an old element, a row of a word-op is the product of R258. -/
theorem WordOp.cells_eq (hb : w.b.length = 32) : w.cells t fresh l = (List.range 32).map fun j => (j, productAt w t l j) :=
  List.ext_getElem (by simp [WordOp.cells, hb]) fun j hj _ => by
    have hj : j < w.b.length := by simpa [WordOp.cells] using hj
    simp [WordOp.cells, WordOp.cell_eq_productAt fresh hcols ha hrow htag hj]

theorem WordOp.row_eq (hb : w.b.length = 32) : w.row t fresh l = (fullRow fun j => (productAt w t l j).1,
    (List.range 32).foldl (fun g j => g ||| (productAt w t l j).2) Sticky.none) := by
  rw [WordOp.row_eq_cells, WordOp.cells_eq fresh hcols ha hrow htag hb, List.map_map, List.foldl_map]
  rfl

end Product

end Sys2Proof.Machine
end

section
/-! PROOFS. The end of a word-op (spec/12_tile.md R250, R258 to R262). -/

namespace Sys2Proof.Machine
open Sys2Proof.Claim

/-! ## Its rows, its operands and their faults (R261) -/

theorem WordOp.liveRows_eq (w : WordOp) (t : Team) : w.liveRows t = rowsOf w t := rfl
theorem WordOp.opers_eq (w : WordOp) (t : Team) : w.opers t = operandsOf w t := rfl

theorem operandFault_eq (w : WordOp) (t : Team) (o : Oper) : operandFault w t o = o.faultOf (w.form == 2 && t.i4trap) := by
  unfold operandFault Oper.faultOf
  cases o.fault with
  | some f => rfl
  | none => simp [Oper.reserved_eq_holds8, and_assoc]

theorem WordOp.fault_eq (w : WordOp) (t : Team) :
    w.fault t = (operandsOf w t).findSome? fun x => (operandFault w t x.2).map fun f => (x.1, x.2, f) := by
  simp only [operandFault_eq, ← WordOp.opers_eq]
  rfl

theorem WordOp.fault_eq_none_iff {w : WordOp} {t : Team} :
    w.fault t = none ↔ ∀ x ∈ operandsOf w t, operandFault w t x.2 = none := by
  simp [WordOp.fault_eq]

/-- The first faulty operand is the word-op's fault. -/
theorem WordOp.fault_of_first {w : WordOp} {t : Team} {before after : List (Nat × Oper)} {k : Nat} {o : Oper} {f : Nat × Nat × Nat}
    (hsplit : operandsOf w t = before ++ (k, o) :: after) (hbefore : ∀ x ∈ before, operandFault w t x.2 = none)
    (hf : operandFault w t o = some f) : w.fault t = some (k, o, f) := by
  have hnone : (before.findSome? fun x => (operandFault w t x.2).map fun f => (x.1, x.2, f)) = none := by simpa using hbefore
  rw [WordOp.fault_eq, hsplit, List.findSome?_append, hnone]
  simp [hf]

/-- A word-op that needs the unit's cycles: not skipped, with rows and without a fault (R258). -/
theorem WordOp.direct_eq_false_iff {w : WordOp} {t : Team} :
    w.direct t = false ↔ w.skip = false ∧ rowsOf w t ≠ [] ∧ ∀ x ∈ operandsOf w t, operandFault w t x.2 = none := by
  rw [← WordOp.fault_eq_none_iff]
  simp [WordOp.direct, WordOp.liveRows_eq, and_assoc]

/-! ## The warning of unwritten words (R83) -/

theorem State.opWarn_congr (s : State) (t : Team) (w : WordOp) {xs ys : List (Nat × Oper)}
    (h : xs.filterMap (·.2.low) = ys.filterMap (·.2.low)) : s.opWarn t w xs = s.opWarn t w ys := by
  simp only [State.opWarn, h]

/-- The operands met before a fault are those before the faulty one, and that one where its bytes were read. -/
theorem State.opWarn_met {w : WordOp} {t : Team} {before after : List (Nat × Oper)} {k cause kind level : Nat} {o : Oper}
    (s : State) (hsplit : operandsOf w t = before ++ (k, o) :: after) (hbefore : ∀ x ∈ before, operandFault w t x.2 = none)
    (hf : operandFault w t o = some (cause, kind, level)) :
    s.opWarn t w (w.met t o cause) = s.opWarn t w (before ++ if cause = 4 then [(k, o)] else []) := by
  have hne : ∀ x ∈ before, (x.2 != o) = true := fun x hx => bne_iff_ne.mpr fun h => by
    have hx := hbefore x hx
    rw [h, hf] at hx
    exact absurd hx (by simp)
  have hmet : w.met t o cause = before ++ if cause == 4 then [(0, o)] else [] := by
    rw [WordOp.met, WordOp.opers_eq, hsplit, List.takeWhile_append_of_pos hne]
    simp
  rw [hmet]
  refine State.opWarn_congr s t w ?_
  by_cases h4 : cause = 4
  · simp [h4, List.filterMap_cons]
  · simp [h4]

/-! ## Writes at a home leave the gangs alone -/

theorem State.rawWrite_gangs (s : State) (pa : Nat) (b : Byte) : (s.rawWrite pa b).gangs = s.gangs := by
  unfold State.rawWrite
  split <;> rfl

theorem State.foldl_rawWrite_gangs (s : State) (l : List Nat) (pa : Nat → Nat) (b : Nat → Byte) :
    (l.foldl (fun u i => u.rawWrite (pa i) (b i)) s).gangs = s.gangs := by
  induction l generalizing s with
  | nil => rfl
  | cons i l ih => exact (ih _).trans (s.rawWrite_gangs _ _)

theorem State.rekey_gangs (s : State) (slot : Option Nat) (pa : Nat) : (s.rekey slot pa).gangs = s.gangs := by
  unfold State.rekey
  dsimp only
  split
  · rfl
  · split
    · rfl
    · rw [State.withMem_gangs, State.foldl_rawWrite_gangs]

theorem State.homeStore_gangs (s : State) (slot : Option Nat) (pa : Nat) (b : Byte) :
    (s.homeStore slot pa b).gangs = s.gangs := by
  unfold State.homeStore
  split
  · rfl
  · rw [State.rawWrite_gangs, State.rekey_gangs]
  · split
    · exact s.rawWrite_gangs _ _
    · rw [State.rawWrite_gangs, State.rekey_gangs]

theorem State.homeWrite_gangs (s : State) (slot : Option Nat) (pa : Nat) (bs : List Byte) :
    (s.homeWrite slot pa bs).gangs = s.gangs := by
  induction bs generalizing s pa with
  | nil => rfl
  | cons b bs ih => exact (ih _ _).trans (s.homeStore_gangs slot pa b)

theorem State.ringWrite_gangs (s : State) (key base cap i : Nat) (bs : List Byte) (n : Nat) :
    (s.ringWrite key base cap i bs n).gangs = s.gangs := by
  induction n generalizing s i bs with
  | zero => rfl
  | succ n ih => exact (ih _ _ _).trans (s.homeWrite_gangs _ _ _)

theorem State.errItem_gangs (s : State) (c kind code core : Nat) (payload : List Byte) :
    (s.errItem c kind code core payload).gangs = s.gangs := by
  unfold State.errItem
  dsimp only
  split
  · rfl
  · split
    · exact s.homeWrite_gangs _ _ _
    · split
      · rw [State.interrupt_gangs, State.homeWrite_gangs, State.ringWrite_gangs]
      · rw [State.homeWrite_gangs, State.ringWrite_gangs]

theorem State.opWarn_ctxOf (s : State) (t : Team) (w : WordOp) (os : List (Nat × Oper)) :
    (s.opWarn t w os).ctxOf t = s.ctxOf t := by
  have hgangs : (s.opWarn t w os).gangs = s.gangs := by
    unfold State.opWarn
    split
    · rfl
    · split
      · rfl
      · exact State.errItem_gangs _ _ _ _ _ _
  unfold State.ctxOf State.gangOf State.gang
  rw [hgangs]

/-! ## How a word-op ends (R258) -/

section Ends
variable {s : State} {t : Team} {w : WordOp}

theorem State.opEnd_skip (h : w.skip = true) : s.opEnd t w = ((s.setTeam (w.skipped t)).dropOp t.core w.id).opArrive t w none :=
  if_pos h

theorem State.opEnd_void (h : w.skip = false) (hr : rowsOf w t = []) : s.opEnd t w = (s.dropOp t.core w.id).opArrive t w none := by
  simp [State.opEnd, h, WordOp.liveRows_eq, hr]

theorem State.opEnd_fault {operand cause kind level : Nat} {o : Oper} (h : w.skip = false) (hr : rowsOf w t ≠ [])
    (hf : w.fault t = some (operand, o, (cause, kind, level))) :
    let s1 := s.opWarn t w (w.met t o cause)
    s.opEnd t w = ((if cause = 0 then s1.errXlate (s.ctxOf t) (w.xrec t o.va kind level) else s1).dropOp t.core w.id).opArrive t w
      (some ((if cause = 0 then kind else 0) + cause * 2 ^ 4 + operand * 2 ^ 8 + w.word * 2 ^ 10)) := by
  simp [State.opEnd, h, WordOp.liveRows_eq, hr, hf, State.opWarn_ctxOf, State.opFault, mxDetail]

theorem State.opEnd_performed (h : w.skip = false) (hr : rowsOf w t ≠ []) (hf : w.fault t = none) :
    let s1 := s.opWarn t w (operandsOf w t)
    s.opEnd t w = ((s1.setTeam (w.perform t s1.fresh)).dropOp t.core w.id).opArrive t w none := by
  simp [State.opEnd, h, WordOp.liveRows_eq, WordOp.opers_eq, hr, hf]

variable {core id : Nat} (hw : (s.core core).queue.find? (·.id == id) = some w) (ht : s.team w.team = some t)
include hw ht

/-- A word-op that needs no cycle of the unit ends once it heads its pipe's queue. -/
theorem execWordOpComplete_direct (hfirst : ∀ x ∈ (s.core core).queue, x.pipe = w.pipe → w.id ≤ x.id) (h : w.direct t = true) :
    exec (.wordOpComplete core id) s = .next (s.opEnd t w) := by
  have hnone : ((s.core core).queue.any fun x => x.pipe == w.pipe && decide (x.id < w.id)) = false := by simpa using hfirst
  show execWordOpComplete core id s = _
  simp [execWordOpComplete, hw, ht, hnone, h]

/-- One that needs the unit ends once the unit works on it. -/
theorem execWordOpComplete_unit (h : w.direct t = false) :
    (w.started = false → exec (.wordOpComplete core id) s = .next s) ∧
    (w.started = true → exec (.wordOpComplete core id) s = .next (s.opEnd t w)) := by
  show (_ → execWordOpComplete core id s = _) ∧ (_ → execWordOpComplete core id s = _)
  simp +contextual [execWordOpComplete, hw, ht, h, stutter]

end Ends

/-! ## What it leaves in the accumulators (R250, R258, R260) -/

theorem Team.wordLive.lt {t : Team} {act : Mask} {w : Nat} (h : t.wordLive act w) : w < 32 :=
  wordsOf_lt act t.lanes w (mem_wordsOf.mpr h)

theorem WordOp.skipped_written {w : WordOp} {t : Team} (h : t.wordLive w.rows w.word) :
    WordWritten t (w.skipped t) w.acc w.word (lanesOf w.rows t.lanes) (fun _ _ => 0)
      (fun l => t.voidKept w.acc w.word l || w.rows.getLsbD l) :=
  (wordWritten_retag_setRows t w.acc _ _ t.sticky h.lt (lanesOf_lt _ _)).setVoid w.rows true

/-- A skipped word-op leaves zeros and void bits in its rows. -/
theorem WordOp.skipped_holds {w : WordOp} {t : Team} (h : t.wordLive w.rows w.word)
    (hin : ∀ l, w.rows.getLsbD l = true → l / 32 = w.word) :
    accHolds t (w.skipped t) w.rows w.acc (fun _ => .a64) (fun _ _ => some 0) (fun _ => true) (t.accRank w.acc) := by
  refine (w.skipped_written h).accHolds (fun l => mem_lanesOf) h hin (fun l hl => ?_) (fun l hlw ha hnone => ?_)
    (fun l hl ha hor => ?_)
  · simp [hl.2]
  · simp [Team.voidKept, hlw, hnone, ha]
  · have hkept : t.voidKept w.acc w.word l = t.accVoid w.acc l := if_neg fun hc => hor.elim (· hc.1) (· hc.2)
    simp [hkept, ha]

theorem mem_rowsOf {w : WordOp} {t : Team} {l : Nat} :
    l ∈ rowsOf w t ↔ t.live w.rows l ∧ (w.first = true ∨ t.accVoid w.acc l = false) := by
  simp [rowsOf, mem_lanesOf]

theorem rowsOf_lt {w : WordOp} {t : Team} : ∀ l ∈ rowsOf w t, l < 1024 := fun l hl =>
  lanesOf_lt w.rows t.lanes l (List.mem_filter.mp hl).1

/-- The flags that a word-op's rows raise. -/
def productFlags (w : WordOp) (t : Team) : Sticky :=
  (rowsOf w t).foldl (fun f l => f ||| (List.range 32).foldl (fun g j => g ||| (productAt w t l j).2) Sticky.none) Sticky.none

/-- The operands of a word-op that is performed are complete: 32 columns and a row for each lane, of 128 bytes. -/
structure WordOp.Complete (w : WordOp) (t : Team) : Prop where
  columns : w.b.length = 32
  lengths : ∀ x ∈ operandsOf w t, x.1 ≠ 1 → x.2.bytes.length = 128
  rows : ∀ l ∈ rowsOf w t, (FMap.look w.a l).isSome = true
  old : w.first = false → t.accTag w.acc w.word ≠ none

section Performed
variable {w : WordOp} {t : Team} (h : w.Complete t)
include h

theorem WordOp.Complete.row_eq (fresh : Nat) : ∀ l ∈ rowsOf w t, w.row t fresh l =
    (fullRow fun j => (productAt w t l j).1, (List.range 32).foldl (fun g j => g ||| (productAt w t l j).2) Sticky.none) := by
  intro l hl
  obtain ⟨o, ho⟩ := Option.isSome_iff_exists.mp (h.rows l hl)
  refine WordOp.row_eq fresh (fun x hx => h.lengths (2, x) ?_ (Nat.succ_ne_self 1)) ho (h.lengths (0, o) ?_ Nat.zero_ne_one) h.old h.columns
  · simp [operandsOf, hx]
  · exact List.mem_append_left _ (List.mem_append_left _ (List.mem_filterMap.mpr ⟨l, hl, by simp [ho]⟩))

theorem WordOp.Complete.perform_eq (fresh : Nat) :
    let a := (t.acc.retag [w.word] w.acc .a64).setRows w.acc (rowsOf w t) fun l => fullRow fun j => (productAt w t l j).1
    w.perform t fresh = { t with acc := if w.first then a.setVoid w.acc w.rows false else a, sticky := t.sticky ||| productFlags w t } := by
  have hrows : (w.liveRows t).map (fun l => (l, w.row t fresh l)) = (rowsOf w t).map fun l => (l, fullRow fun j => (productAt w t l j).1,
      (List.range 32).foldl (fun g j => g ||| (productAt w t l j).2) Sticky.none) :=
    List.map_congr_left fun l hl => by rw [h.row_eq fresh l hl]
  unfold WordOp.perform
  dsimp only
  rw [hrows, List.foldl_map, List.foldl_map]
  rfl

theorem WordOp.Complete.written (fresh : Nat) (hw : w.word < 32) :
    WordWritten t (w.perform t fresh) w.acc w.word (rowsOf w t) (fun l j => (productAt w t l j).1)
      (fun l => if w.first then t.voidKept w.acc w.word l && !w.rows.getLsbD l else t.voidKept w.acc w.word l) := by
  have hrows := wordWritten_retag_setRows t w.acc (rowsOf w t) (fun l j => (productAt w t l j).1) (t.sticky ||| productFlags w t) hw
    rowsOf_lt
  rw [h.perform_eq fresh]
  cases w.first with
  | true => exact hrows.setVoid w.rows false
  | false => exact hrows

/-- A word-op that is performed leaves the product in its rows and clears their void bits. -/
theorem WordOp.Complete.perform_holds {act : Mask} (fresh : Nat) (hact : ∀ l, act.getLsbD l = decide (l ∈ rowsOf w t))
    (hin : ∀ l, w.rows.getLsbD l = true → l / 32 = w.word) (hr : rowsOf w t ≠ []) :
    accFrame t (w.perform t fresh) [w.acc] ∧
    accHolds t (w.perform t fresh) act w.acc (fun _ => .a64) (fun l j => some (productAt w t l j).1) (fun _ => false)
      (t.accRank w.acc) := by
  have hmem : ∀ l, l ∈ rowsOf w t ↔ t.live act l := fun l =>
    ⟨fun hl => ⟨(mem_rowsOf.mp hl).1.1, by simpa [hact] using hl⟩, fun hl => by simpa [hact] using hl.2⟩
  have hactin : ∀ l, act.getLsbD l = true → l / 32 = w.word := fun l hl =>
    hin l (mem_rowsOf.mp (by simpa [hact] using hl)).1.2
  obtain ⟨l₀, hl₀⟩ := List.exists_mem_of_ne_nil _ hr
  have hlive₀ := (hmem l₀).mp hl₀
  have hlive : t.wordLive act w.word := hactin l₀ hlive₀.2 ▸ hlive₀.word
  have hwritten := h.written fresh hlive.lt
  refine ⟨hwritten.accFrame, hwritten.accHolds hmem hlive hactin (fun l hl => ?_) (fun l hlw _ hnone => ?_) (fun l hl ha hor => ?_)⟩
  · obtain ⟨hrow, hvoid⟩ := mem_rowsOf.mp ((hmem l).mpr hl)
    cases hf : w.first with
    | true => simp [hrow.2]
    | false =>
      have hvoid : t.accVoid w.acc l = false := hvoid.resolve_left (by simp [hf])
      simp [Team.voidKept, hvoid]
  · simp [Team.voidKept, hlw, hnone]
  · have hkept : t.voidKept w.acc w.word l = t.accVoid w.acc l := if_neg fun hc => hor.elim (· hc.1) (· hc.2)
    cases hf : w.first with
    | true =>
      have hrow : w.rows.getLsbD l = false := Bool.eq_false_iff.mpr fun hrow => by
        have hl : l ∈ rowsOf w t := mem_rowsOf.mpr ⟨⟨hl, hrow⟩, .inl hf⟩
        simp [hact, hl] at ha
      simp [hkept, hrow]
    | false => simp [hkept]

end Performed

/-- How a word-op ends and what it leaves (R40, R41, R250, R258 to R262). -/
theorem wordOps : Claim.WordOps := by
  unfold Claim.WordOps
  intro s core id w t act c rows done left gone ends flags hw ht hfirst hin
  have hdirect := execWordOpComplete_direct hw ht hfirst
  refine ⟨fun hs => ?_, fun hlive => ⟨(w.skipped_written hlive).accFrame, rfl, w.skipped_holds hlive hin⟩, fun hs hr => ?_,
    fun hs hr => ⟨fun before after k f cause kind level hsplit hbefore hf => ?_, fun hnone => ?_⟩⟩
  · exact (hdirect (by simp [WordOp.direct, hs])).trans (by rw [State.opEnd_skip hs])
  · have hr' : rowsOf w t = [] := hr
    exact (hdirect (by simp [WordOp.direct, WordOp.liveRows_eq, hr'])).trans (by rw [State.opEnd_void hs hr])
  · have hfault := WordOp.fault_of_first hsplit hbefore hf
    refine (hdirect (by simp [WordOp.direct, hfault])).trans ?_
    rw [State.opEnd_fault hs hr hfault, s.opWarn_met hsplit hbefore hf]
  · obtain ⟨hwait, hend⟩ := execWordOpComplete_unit hw ht (WordOp.direct_eq_false_iff.mpr ⟨hs, hr, hnone⟩)
    refine ⟨hwait, fun hstart => (hend hstart).trans ?_, fun hact hcolumns hold hlengths hrows => ?_⟩
    · rw [State.opEnd_performed hs hr (WordOp.fault_eq_none_iff.mpr hnone)]
    · have hcomplete : w.Complete t := ⟨hcolumns, hlengths, hrows, hold⟩
      obtain ⟨hframe, hholds⟩ := hcomplete.perform_holds (s.opWarn t w (operandsOf w t)).fresh hact hin hr
      exact ⟨hframe, by rw [show done = _ from hcomplete.perform_eq _]; rfl, hholds⟩

end Sys2Proof.Machine
end

section
/-! PROOFS. The matrix unit and its arbiter (spec/12_tile.md R255, R261, R264, R265). -/

namespace Sys2Proof.Machine
open Sys2Proof.Claim

/-! ## The heads of the queues and the least of them (R265) -/

/-- A word-op with no other that waits in its pipe before it. -/
def Core.isHead (c : Core) (x : WordOp) : Prop :=
  ∃ p q, c.queue = p ++ x :: q ∧ x.started = false ∧ ∀ y ∈ p, y.started = true ∨ y.pipe ≠ x.pipe

/-- A word-op whose team is there and which takes cycles of the unit. -/
def State.needsUnit (s : State) (x : WordOp) : Prop :=
  ∃ u, s.team x.team = some u ∧ x.skip = false ∧ rowsOf x u ≠ [] ∧ ∀ y ∈ operandsOf x u, operandFault x u y.2 = none

theorem State.needsUnit_iff {s : State} {x : WordOp} :
    s.needsUnit x ↔ ((s.team x.team).map x.direct).getD true = false := by
  unfold State.needsUnit
  cases s.team x.team with
  | none => simp
  | some u => simp only [Option.map_some, Option.getD_some, WordOp.direct_eq_false_iff, Option.some.injEq, exists_eq_left']

theorem eq_of_id_eq {l : List WordOp} (hn : (l.map (·.id)).Nodup) {x y : WordOp} (hx : x ∈ l) (hy : y ∈ l) (h : x.id = y.id) :
    x = y := by
  induction l with
  | nil => exact absurd hx List.not_mem_nil
  | cons a l ih =>
    obtain ⟨hne, hn⟩ := List.nodup_cons.mp hn
    rcases List.mem_cons.mp hx with rfl | hxl
    · rcases List.mem_cons.mp hy with rfl | hyl
      · rfl
      · exact absurd (List.mem_map.mpr ⟨y, hyl, h.symm⟩ : x.id ∈ l.map (·.id)) hne
    · rcases List.mem_cons.mp hy with rfl | hyl
      · exact absurd (List.mem_map.mpr ⟨x, hxl, h⟩ : y.id ∈ l.map (·.id)) hne
      · exact ih hn hxl hyl

theorem find?_id_of_mem {l : List WordOp} (hn : (l.map (·.id)).Nodup) {x : WordOp} (hx : x ∈ l) :
    l.find? (·.id == x.id) = some x := by
  cases hf : l.find? (·.id == x.id) with
  | none => exact absurd (beq_self_eq_true x.id) (List.find?_eq_none.mp hf x hx)
  | some y => rw [eq_of_id_eq hn (List.mem_of_find?_eq_some hf) hx (by simpa using List.find?_some hf)]

theorem Core.mem_heads_iff {c : Core} (hn : (c.queue.map (·.id)).Nodup) {x : WordOp} : x ∈ c.heads ↔ c.isHead x := by
  have hfind : c.isHead x ↔ (c.queue.filter (!·.started)).find? (·.pipe == x.pipe) = some x := by
    rw [List.find?_filter, List.find?_eq_some_iff_append]
    unfold Core.isHead
    have hpass : ∀ y : WordOp, (!decide ((!y.started) = true ∧ (y.pipe == x.pipe) = true)) = true ↔
        y.started = true ∨ y.pipe ≠ x.pipe := fun y => by
      rw [Bool.not_eq_true', decide_eq_false_iff_not, beq_iff_eq]
      cases y.started <;> simp
    constructor
    · rintro ⟨p, q, hq, hx, hp⟩
      exact ⟨by simp [hx], p, q, hq, fun y hy => (hpass y).mpr (hp y hy)⟩
    · rintro ⟨hx, p, q, hq, hp⟩
      exact ⟨p, q, hq, by simpa using hx, fun y hy => (hpass y).mp (hp y hy)⟩
  rw [hfind]
  unfold Core.heads
  dsimp only
  rw [List.mem_filter, beq_iff_eq, Option.map_eq_some_iff]
  constructor
  · rintro ⟨hmem, y, hy, hid⟩
    have hxy := eq_of_id_eq hn (List.mem_filter.mp (List.mem_of_find?_eq_some hy)).1 (List.mem_filter.mp hmem).1 hid
    exact hxy ▸ hy
  · exact fun h => ⟨List.mem_of_find?_eq_some h, x, h, rfl⟩

theorem mem_of_leastBy {f : WordOp → Nat} {l : List WordOp} {x : WordOp} (h : leastBy f l = some x) : x ∈ l := by
  induction l generalizing x with
  | nil => simp [leastBy] at h
  | cons a l ih =>
    rw [leastBy] at h
    split at h
    · simp_all
    · split at h <;> simp_all

/-- A word-op of strictly least measure is the one taken. -/
theorem leastBy_eq_some {f : WordOp → Nat} {l : List WordOp} {w : WordOp} (hw : w ∈ l) (h : ∀ x ∈ l, x = w ∨ f w < f x) :
    leastBy f l = some w := by
  induction l with
  | nil => simp at hw
  | cons a l ih =>
    have htail : ∀ x ∈ l, x = w ∨ f w < f x := fun x hx => h x (List.mem_cons_of_mem _ hx)
    rw [leastBy]
    rcases List.mem_cons.mp hw with rfl | hwl
    · split
      · rfl
      next x hx =>
        rcases htail x (mem_of_leastBy hx) with rfl | hlt
        · simp
        · rw [if_neg (by omega)]
    · rw [ih hwl htail]
      rcases h a List.mem_cons_self with rfl | hlt
      · simp
      · simp [hlt]

/-- The order of the arbiter: the oldest head, or below 2,048 units the cheapest, the lower pipe on a tie (R265). -/
def State.arbiterPrefers (s : State) (c : Core) (w x : WordOp) : Prop :=
  if 2048 ≤ c.level / 16 then w.id < x.id
  else s.opCost w < s.opCost x ∨ s.opCost w = s.opCost x ∧ w.pipe % 4 < x.pipe % 4

theorem State.arbiter_eq_some {s : State} {c : Core} {w : WordOp} (hn : (c.queue.map (·.id)).Nodup) (hh : c.isHead w)
    (hu : s.needsUnit w) (h : ∀ x, c.isHead x → s.needsUnit x → x = w ∨ s.arbiterPrefers c w x) : s.arbiter c = some w := by
  have hmem : ∀ x, x ∈ c.heads.filter (fun w => !((s.team w.team).map w.direct).getD true) ↔ c.isHead x ∧ s.needsUnit x := fun x => by
    rw [List.mem_filter, Core.mem_heads_iff hn, State.needsUnit_iff, Bool.not_eq_true']
  have hother := fun x hx => h x ((hmem x).mp hx).1 ((hmem x).mp hx).2
  unfold State.arbiter
  dsimp only
  unfold State.arbiterPrefers at hother
  split at hother
  next hlevel =>
    rw [if_pos hlevel]
    exact leastBy_eq_some ((hmem w).mpr ⟨hh, hu⟩) hother
  next hlevel =>
    rw [if_neg hlevel]
    exact leastBy_eq_some ((hmem w).mpr ⟨hh, hu⟩) fun x hx => (hother x hx).imp_right fun hlt => by
      rcases hlt with hlt | ⟨heq, hlt⟩ <;> omega

/-! ## The start of a word-op (R265) -/

theorem execWordOpStart_busy {s : State} {core : Nat} (h : ∃ x ∈ (s.core core).queue, x.started = true) :
    exec (.wordOpStart core) s = .next s := by
  show execWordOpStart core s = _
  unfold execWordOpStart
  exact if_pos (List.any_eq_true.mpr h)

/-- The core with a word-op begun, its cost charged and the rest of its pass to come. -/
def State.opBegun (s : State) (core : Nat) (w : WordOp) (pass : List Nat) : State :=
  s.modCore core fun c => Core.refill s.now
    { c with level := c.level - 16 * s.opCost w
             pass := pass
             queue := c.queue.map fun (x : WordOp) => if x.id = w.id then { x with started := true } else x }

/-- The free unit starts the word-op it takes once the level reaches its cost. -/
theorem execWordOpStart_takes {s : State} {core : Nat} {w : WordOp} {pass : List Nat}
    (hfree : ∀ x ∈ (s.core core).queue, x.started = false) (hnext : s.unitNext (s.core core) = some w)
    (hpass : (if (s.core core).pass.contains w.id then (s.core core).pass.filter (· != w.id) else s.passOf (s.core core) w) = pass) :
    ((s.core core).level < 16 * s.opCost w → exec (.wordOpStart core) s = .next s) ∧
    (16 * s.opCost w ≤ (s.core core).level → exec (.wordOpStart core) s = .next (s.opBegun core w pass)) := by
  have hbusy : ((s.core core).queue.any (·.started)) = false := by simpa using hfree
  subst hpass
  show (_ → execWordOpStart core s = _) ∧ (_ → execWordOpStart core s = _)
  unfold execWordOpStart State.opBegun
  simp only [hbusy, hnext, Nat.mul_comm _ 16, beq_iff_eq, Bool.false_eq_true, if_false]
  exact ⟨fun hlt => if_pos hlt, fun hle => if_neg (Nat.not_lt.mpr hle)⟩

theorem State.unitNext_of_noPass {s : State} {c : Core} (h : ∀ x ∈ c.queue, x.id ∉ c.pass) : s.unitNext c = s.arbiter c := by
  have hnone : (c.pass.findSome? fun i => c.queue.find? (·.id == i)) = none := by
    simp only [List.findSome?_eq_none_iff, List.find?_eq_none, beq_iff_eq]
    exact fun i hi x hx hid => h x hx (hid ▸ hi)
  simp [State.unitNext, hnone]

theorem State.unitNext_of_pass {s : State} {c : Core} {w : WordOp} {rest : List Nat} (hn : (c.queue.map (·.id)).Nodup)
    (hw : w ∈ c.queue) (h : c.pass = w.id :: rest) : s.unitNext c = some w := by
  simp [State.unitNext, h, find?_id_of_mem hn hw]

theorem le_opCost (s : State) (w : WordOp) : 32 ≤ s.opCost w := by
  unfold State.opCost
  cases s.team w.team with
  | none => exact Nat.le_refl 32
  | some t => exact Nat.le_add_right 32 _

/-! ## The fused pass (R255) -/

/-- A word-op ahead of another in the queue that writes the same accumulator word (R251). -/
def Core.ahead (c : Core) (x y : WordOp) : Prop :=
  y ∈ c.queue ∧ y.id < x.id ∧ y.team = x.team ∧ y.acc = x.acc ∧ y.word = x.word

theorem Core.unblocked_iff {c : Core} {taken : List Nat} {x : WordOp} :
    c.unblocked taken x = true ↔ ∀ y, c.ahead x y → y.id ∈ taken := by
  simp only [Core.unblocked, Core.ahead, Bool.not_eq_true', List.any_eq_false, Bool.and_eq_true, beq_iff_eq, decide_eq_true_eq,
    not_and, and_imp]
  exact ⟨fun h y hy hlt ht ha hw => by simpa using h y hy ht ha hw hlt,
    fun h y hy ht ha hw hlt => by simpa using h y hy hlt ht ha hw⟩

theorem Core.unblocked_mono {c : Core} {taken more : List Nat} {x : WordOp} (hsub : taken ⊆ more)
    (h : c.unblocked taken x = true) : c.unblocked more x = true :=
  Core.unblocked_iff.mpr fun y hy => hsub (Core.unblocked_iff.mp h y hy)

/-- The candidates of a list that join a pass begun with a word-op, after those that have joined already. -/
def Core.joined (c : Core) (first : Nat) (l : List WordOp) (p : List Nat) : List Nat :=
  l.foldl (fun p x => if c.unblocked (first :: p) x then p ++ [x.id] else p) p

section Joined
variable (c : Core) (first : Nat)

theorem Core.joined_cons (x : WordOp) (l : List WordOp) (p : List Nat) :
    c.joined first (x :: l) p = c.joined first l (if c.unblocked (first :: p) x then p ++ [x.id] else p) := rfl

theorem Core.subset_joined (l : List WordOp) (p : List Nat) : p ⊆ c.joined first l p := by
  induction l generalizing p with
  | nil => exact fun _ h => h
  | cons x l ih =>
    rw [Core.joined_cons]
    refine List.Subset.trans ?_ (ih _)
    split
    · exact List.subset_append_left _ _
    · exact List.Subset.refl _

/-- One that joins is a candidate all of whose forerunners are in the pass. -/
theorem Core.mem_joined {l : List WordOp} {p : List Nat} {i : Nat} (h : i ∈ c.joined first l p) :
    i ∈ p ∨ ∃ x ∈ l, x.id = i ∧ c.unblocked (first :: c.joined first l p) x = true := by
  induction l generalizing p with
  | nil => exact .inl h
  | cons x l ih =>
    have hsub : first :: p ⊆ first :: c.joined first (x :: l) p := List.cons_subset_cons _ (c.subset_joined first _ _)
    rw [Core.joined_cons] at h hsub ⊢
    rcases ih h with hp | ⟨y, hy, hid, hfree⟩
    · split at hp
      next hx =>
        rcases List.mem_append.mp hp with hp | hp
        · exact .inl hp
        · exact .inr ⟨x, List.mem_cons_self, (List.mem_singleton.mp hp).symm, Core.unblocked_mono hsub hx⟩
      next => exact .inl hp
    · exact .inr ⟨y, List.mem_cons_of_mem _ hy, hid, hfree⟩

/-- A candidate that nothing but the first blocks joins. -/
theorem Core.id_mem_joined {l : List WordOp} (p : List Nat) {x : WordOp} (hx : x ∈ l) (hfree : c.unblocked [first] x = true) :
    x.id ∈ c.joined first l p := by
  induction l generalizing p with
  | nil => simp at hx
  | cons a l ih =>
    rcases List.mem_cons.mp hx with rfl | hx
    · have hjoin : c.unblocked (first :: p) x = true := Core.unblocked_mono (by simp) hfree
      rw [Core.joined_cons]
      exact c.subset_joined first l _ (by simp [hjoin])
    · exact ih _ hx

end Joined

/-- The key of two word-ops that run in one pass (R255). -/
def State.sameKey (s : State) (w x : WordOp) : Prop :=
  (s.team x.team).map s.ctxOf = (s.team w.team).map s.ctxOf ∧
    x.b.map (fun o => (o.loc, o.bytes)) = w.b.map (fun o => (o.loc, o.bytes)) ∧ x.form = w.form ∧ x.bscale = w.bscale

/-- The word-ops of a queue that may join the pass of another (R255). -/
def State.mayJoin (s : State) (c : Core) (w x : WordOp) : Prop :=
  x ∈ c.queue ∧ x.id ≠ w.id ∧ x.started = false ∧ s.needsUnit x ∧ s.sameKey w x ∧ w.entered ≤ x.entered ∧ x.entered ≤ w.entered + 64

/-- The candidates for the pass of a word-op, in the order of the queue. -/
def State.candidates (s : State) (c : Core) (w : WordOp) : List WordOp :=
  c.queue.filter fun x => !x.started && x.id != w.id && w.entered ≤ x.entered && x.entered ≤ w.entered + 64 &&
    !(((s.team x.team).map x.direct).getD true) && s.fuseKey x == s.fuseKey w

theorem State.passOf_eq (s : State) (c : Core) (w : WordOp) : s.passOf c w = c.joined w.id (s.candidates c w) [] := rfl

theorem State.fuseKey_eq_iff {s : State} {w x : WordOp} (hw : s.needsUnit w) (hx : s.needsUnit x) :
    s.fuseKey x = s.fuseKey w ↔ s.sameKey w x := by
  obtain ⟨u, hu, -⟩ := hw
  obtain ⟨v, hv, -⟩ := hx
  simp [State.fuseKey, State.sameKey, hu, hv]

theorem State.mem_candidates {s : State} {c : Core} {w x : WordOp} (hw : s.needsUnit w) :
    x ∈ s.candidates c w ↔ s.mayJoin c w x := by
  simp only [State.candidates, State.mayJoin, List.mem_filter, Bool.and_eq_true, beq_iff_eq, bne_iff_ne, decide_eq_true_eq,
    Bool.not_eq_true', ← State.needsUnit_iff]
  constructor
  · rintro ⟨hq, ⟨⟨⟨⟨hs, hne⟩, hlow⟩, hhigh⟩, hx⟩, hkey⟩
    exact ⟨hq, hne, hs, hx, (State.fuseKey_eq_iff hw hx).mp hkey, hlow, hhigh⟩
  · rintro ⟨hq, hne, hs, hx, hkey, hlow, hhigh⟩
    exact ⟨hq, ⟨⟨⟨⟨hs, hne⟩, hlow⟩, hhigh⟩, hx⟩, (State.fuseKey_eq_iff hw hx).mpr hkey⟩

section Pass
variable {s : State} {c : Core} {w : WordOp} (hw : s.needsUnit w)
include hw

theorem State.mem_passOf {i : Nat} (hi : i ∈ s.passOf c w) :
    ∃ x, x.id = i ∧ s.mayJoin c w x ∧ ∀ y, c.ahead x y → y.id = w.id ∨ y.id ∈ s.passOf c w := by
  rw [State.passOf_eq] at hi ⊢
  obtain ⟨x, hx, hid, hfree⟩ := (c.mem_joined w.id hi).resolve_left (by simp)
  exact ⟨x, hid, (State.mem_candidates hw).mp hx, fun y hy => List.mem_cons.mp (Core.unblocked_iff.mp hfree y hy)⟩

theorem State.id_mem_passOf {x : WordOp} (hx : s.mayJoin c w x) (h : ∀ y, c.ahead x y → y = w) : x.id ∈ s.passOf c w := by
  rw [State.passOf_eq]
  exact c.id_mem_joined w.id [] ((State.mem_candidates hw).mpr hx) (Core.unblocked_iff.mpr fun y hy => by simp [h y hy])

end Pass

/-! ## Late operands (R261, R415) -/

/-- An operand that is late faults its word-op with cause 6. -/
theorem execOperandTimeout_unit {s : State} {core id : Nat} {w : WordOp} {t : Team}
    (hw : (s.core core).queue.find? (·.id == id) = some w) (ht : s.team w.team = some t) (hu : w.direct t = false)
    (hs : w.started = false) :
    (s.waited (w.islands t) w.entered < 65536 → exec (.operandTimeout core id) s = .next s) ∧
    (65536 ≤ s.waited (w.islands t) w.entered → exec (.operandTimeout core id) s =
      .next (((s.opWarn t w (operandsOf w t)).dropOp t.core w.id).opArrive t w
        (some (6 * 2 ^ 4 + (Config.lateOperand s.fresh).val * 2 ^ 8 + w.word * 2 ^ 10)))) := by
  show (_ → execOperandTimeout core id s = _) ∧ (_ → execOperandTimeout core id s = _)
  unfold execOperandTimeout
  simp only [hw, ht, hs, hu, Bool.not_false, Bool.true_and, Bool.and_true, decide_eq_true_eq]
  refine ⟨fun hlt => if_neg (by omega), fun hle => (if_pos hle).trans ?_⟩
  simp [State.opFault, mxDetail, WordOp.opers_eq]

theorem State.waited_of_noStall {s : State} {on : List Nat} (since : Nat) (h : ∀ x ∈ s.svc.stalls, x.island ∉ on) :
    s.waited on since = s.now - since := by
  have hnone : (s.svc.stalls.filter fun x => on.contains x.island) = [] := by simpa using h
  rw [State.waited, hnone]
  rfl

/-- What the free matrix unit takes, the pass it begins and an operand that is late (R255, R261, R265). -/
theorem matrixUnit : Claim.MatrixUnit := by
  unfold Claim.MatrixUnit
  intro s core id w t c heads works before takes sameKey joins earlier wait hn
  refine ⟨execWordOpStart_busy, fun hfree hpass hh hu hbefore => ?_, fun rest hfree hw hpass hrest => ?_, ⟨rfl, le_opCost s w⟩,
    fun hu _ => ⟨fun i => State.mem_passOf hu, fun x => State.id_mem_passOf hu⟩, fun hw ht hu hs => ?_, State.waited_of_noStall _⟩
  · have hw : w ∈ c.queue := by
      obtain ⟨p, q, hq, -⟩ := hh
      simp [hq]
    refine execWordOpStart_takes hfree ((State.unitNext_of_noPass hpass).trans (State.arbiter_eq_some hn hh hu hbefore)) (if_neg ?_)
    simpa using hpass w hw
  · refine execWordOpStart_takes hfree (State.unitNext_of_pass hn hw hpass) ?_
    have hpass : (s.core core).pass = w.id :: rest := hpass
    have hrest : rest.filter (· != w.id) = rest := List.filter_eq_self.mpr fun i hi => bne_iff_ne.mpr fun h => hrest (h ▸ hi)
    simp [hpass, hrest]
  · obtain ⟨u, hteam, hneeds⟩ := hu
    obtain rfl : u = t := Option.some.inj (hteam.symm.trans ht)
    obtain ⟨hearly, hlate⟩ := execOperandTimeout_unit hw ht (WordOp.direct_eq_false_iff.mpr hneeds) hs
    exact ⟨hearly, fun hle => ⟨_, hlate hle⟩⟩

/-- Settles O30: how a word-op ends follows its first faulty operand and the word it writes (`WordWritten`), and the unit's choice is
the strictly least head (`leastBy_eq_some`) or the next of a pass, whose members are found by a fold over the queue (`Core.joined`). -/
theorem wordOpsAndUnit : Obligations.WordOpsAndUnit := ⟨wordOps, matrixUnit⟩

end Sys2Proof.Machine
end

section
/-! PROOFS. The operands of memory instructions, and stores to any memory (spec/09_page.md R207, R209, R210; spec/05_ordering.md
R91, R98). -/

namespace Sys2Proof.Machine
open Sys2Proof.Claim

/-! ## Addresses (R125, R207) -/

theorem memSize_eq_accessBytes (ty : Nat) : memSize ty = accessBytes ty := by simp [memSize, accessBytes]

theorem storeTags_eq (ty : Nat) : storeTags ty = if 1 ≤ ty ∧ ty ≤ 11 then [ty, 12] else Tag.any := by
  simp [storeTags, Tag.raw]

theorem SReg.addr_eq_baseOf (r : SReg) : r.addr = baseOf r := by simp [SReg.addr, baseOf, Tag.n32]

theorem Team.addr_of_tag {t : Team} {r : Nat} (h : (t.sreg r).tag ∈ [10, 2, 12]) : t.addr r = .ok (baseOf (t.sreg r)) := by
  have h : addrTags.contains (t.sreg r).tag = true := List.contains_iff_mem.mpr h
  rw [Team.addr, if_pos h, SReg.addr_eq_baseOf]

theorem Team.scalar_of_tag {t : Team} {r : Nat} {set : List Tag} (h : (t.sreg r).tag ∈ set) :
    t.scalar r set = .ok (t.sreg r).bits := if_pos (List.contains_iff_mem.mpr h)

/-- The operand of a memory instruction without a lane offset. -/
theorem Team.memOperand_noOff {t : Team} {act : Mask} {a b : BitVec 8} (h : (t.sreg a.toNat).tag ∈ [10, 2, 12]) :
    t.memOperand act a b true = .ok (baseOf (t.sreg a.toNat), none) := by
  simp [Team.memOperand, Team.addr_of_tag h, bind, Except.bind, pure, Except.pure]

theorem Team.memOperand_of_addressed {t : Team} {act : Mask} {o : Mem} {b : Nat} (h : addressed t act o b) :
    t.memOperand act o.a o.b o.noOff = .ok (baseOf (t.sreg o.a.toNat), if o.noOff then none else some b) := by
  obtain ⟨hbase, hoff⟩ := h
  cases hn : o.noOff with
  | true => exact Team.memOperand_noOff hbase
  | false =>
    obtain ⟨hname, htag⟩ := hoff hn
    have htag : t.checkTag act b [Tag.i32, Tag.n32] = .ok () := Team.checkTag_of_tagged htag
    simp [Team.memOperand, Team.vreg_of_names hname, Team.addr_of_tag hbase, htag, bind, Except.bind, pure, Except.pure, Except.map]

theorem Team.laneAddr_eq_laneVa (t : Team) (o : Mem) (b l : Nat) :
    t.laneAddr (baseOf (t.sreg o.a.toNat), if o.noOff then none else some b) o.imm.toInt (accessBytes o.ty.toNat) l = laneVa t o b l := by
  unfold Team.laneAddr laneVa
  cases o.noOff <;> rfl

theorem Team.laneAddr_eq_scalarVa (t : Team) (o : Mem) (l : Nat) :
    t.laneAddr (baseOf (t.sreg o.a.toNat), none) o.imm.toInt (accessBytes o.ty.toNat) l = scalarVa t o := by
  simp [Team.laneAddr, scalarVa]

/-! ## Issue of an instruction that may access other packages (R114, R400) -/

theorem issueFar_next {s s' : State} {t : Team} {fb : Bool} {acts : Team → Bool} {vs ss cs : Team → List Nat}
    {f : State → Team → Except Trap Done} (hs : s.issuing = some t) (hr : t.flagRoom fb = true) (hf : f s t = .ok (.next s')) :
    issueFar s fb acts vs ss cs f = .next ((farCounted s t (acts t) fb (vs t) (ss t) s' (cs t)).retire t) := by
  unfold issueFar
  rw [issue_next hs]
  simp [hr, hf, farCounted]

/-! ## ST and STS (R209) -/

theorem putOf_eq (rel : Prop) [Decidable rel] (nol1 : Bool) (scope : BitVec 3) :
    putOf (decide rel) nol1 scope = if nol1 then .direct else if rel ∧ 4 ≤ scope.toNat then .through else .plain := by
  simp [putOf, wideScope]

/-- The lanes' places, bytes and taint as ST lists them. -/
theorem storeItems_eq (t : Team) (n d k : Nat) (ls : List Nat) (place : Nat → Place) (hk : (if n = 8 then 2 else 1) = k) :
    ((ls.map place).zip ls).map (fun x => (x.1, leBytes n (if k = 2 then (t.lane64 d x.2).toNat else (t.lane d x.2).toNat),
      (regList d k).any fun v => t.vtaint v x.2)) =
    ls.map fun l => (place l, leBytes n (if n = 8 then (t.lane64 d l).toNat else (t.lane d l).toNat), tainted t d k l) := by
  have hpair : k = 2 ↔ n = 8 := by subst hk; split <;> simp_all
  have hzip : (ls.map place).zip ls = ls.map fun l => (place l, l) := by simpa using List.zip_map' (f := place) (g := id) (l := ls)
  simp [hzip, regList, tainted, List.any_map, Function.comp_def, hpair]

/-- ST where every operand and every active lane's address passes its checks. -/
theorem storeOp_next {s : State} {t : Team} {h : Hd} {o : Mem} {d b n k : Nat} {place : Nat → Place} (hn : memSize o.ty.toNat = n)
    (hk : (if n = 8 then 2 else 1) = k) (hd : t.names h.ixD o.d k (n == 8) d)
    (hset : t.tagged (t.active h) d k (storeTags o.ty.toNat)) (hb : addressed t (t.active h) o b)
    (hp : ∀ l, t.live (t.active h) l → placed s t .wr n (some l) (laneVa t o b l) (place l)) :
    let ls := lanesOf (t.active h) t.lanes
    let releases := o.ord = 2 ∧ t.active h ≠ 0
    let how := if o.nol1 then Put.direct else if releases ∧ 4 ≤ o.scope.toNat then .through else .plain
    let s1 := s.usePlaces t .wr (ls.map place)
    let s2 := (if releases then s1.release t o.scope.toNat else s1).writePlaces t how o.ret.toNat
      (ls.map fun l => (place l, leBytes n (if n = 8 then (t.lane64 d l).toNat else (t.lane d l).toNat), tainted t d k l))
    storeOp h o s t = .ok (.next (if releases ∧ ¬4 ≤ o.scope.toNat then s2.noticeAll t (ls.map place) else s2)) := by
  intro ls releases how s1 s2
  have hlanes : t.laneAddrs (t.active h) (baseOf (t.sreg o.a.toNat), if o.noOff then none else some b) o.imm.toInt n =
      (lanesOf (t.active h) t.lanes).map fun l => (some l, laneVa t o b l) := by
    rw [← hn, memSize_eq_accessBytes]
    simp only [Team.laneAddrs, Team.laneAddr_eq_laneVa]
  have hplaces : s.resolveLanes t .wr n n ((lanesOf (t.active h) t.lanes).map fun l => (some l, laneVa t o b l)) =
      .ok ((lanesOf (t.active h) t.lanes).map place) :=
    State.resolveLanes_ok fun l hl => hp l (mem_lanesOf.mp hl)
  have hrel : (o.ord == 2 && t.active h != 0) = decide releases :=
    Bool.eq_iff_iff.mpr (by simp only [releases, Bool.and_eq_true, beq_iff_eq, bne_iff_ne, decide_eq_true_eq])
  unfold storeOp
  simp only [hn, beq_iff_eq, hk, Team.vreg_of_names hd, Team.memOperand_of_addressed hb, Team.checkTags_of_tagged hset, hlanes, hplaces,
    bind, Except.bind, pure, Except.pure, hrel, storeItems_eq t n d k _ place hk]
  simp [wideScope, putOf_eq, s2, s1, how, ls]

/-- STS where its operands and its address pass their checks. -/
theorem stsOp_next {s : State} {t : Team} {o : Mem} {n : Nat} {q : Place} (hn : memSize o.ty.toNat = n)
    (hb : (t.sreg o.a.toNat).tag ∈ [10, 2, 12]) (hset : (t.sreg o.d.toNat).tag ∈ storeTags o.ty.toNat)
    (hq : placed s t .wr n none (scalarVa t o) q) :
    stsOp o s t = .ok (.next ((s.usePlaces t .wr [q]).writePlaces t (if o.nol1 then .direct else .plain) o.ret.toNat
      [(q, leBytes n (t.sreg o.d.toNat).bits.toNat, false)])) := by
  have hva : t.laneAddr (baseOf (t.sreg o.a.toNat), none) o.imm.toInt n 0 = scalarVa t o := by
    rw [← hn, memSize_eq_accessBytes, Team.laneAddr_eq_scalarVa]
  unfold stsOp
  simp only [hn, Team.memOperand_noOff hb, Team.scalar_of_tag hset, hva, State.resolveLanes_one hq, bind, Except.bind, pure, Except.pure]
  simp [putOf]

/-- Settles O16: the operands and addresses pass their checks (`Team.memOperand_of_addressed`, `State.resolveLanes_ok`), so ST and STS
do nothing but use the translations, release, write and leave notices; what a scope and `.nol1` make of the write is `putOf`. -/
theorem storesToAnyMemory : Obligations.StoresToAnyMemory := by
  unfold Obligations.StoresToAnyMemory
  intro s t h o d b place q n k act ls ps set wide releases how data hs hr
  have hn : memSize o.ty.toNat = n := memSize_eq_accessBytes _
  have hset : storeTags o.ty.toNat = set := storeTags_eq _
  exact ⟨fun hd htag hb hp => issueFar_next hs hr (storeOp_next hn rfl hd (hset.symm ▸ htag) hb hp),
    fun hb htag hq => issueFar_next hs hr (stsOp_next hn hb (hset.symm ▸ htag) hq)⟩

end Sys2Proof.Machine
end

section
/-! PROOFS. A prefetch with a bypass hint (spec/09_page.md R213; spec/04_memory_spaces.md R79). -/

namespace Sys2Proof.Machine
open Sys2Proof.Claim

/-- A readable page of 4 KiB at address 0, which lies at physical address 0, as a cache holds it. -/
def pageZero : Xlat where
  leaf := { base := 0, size := 0, rd := true, wr := false, ex := false, pin := false, dirty := false, key := 0, grain := 0, ret := 0,
            place := false, hdie := 0 }
  entry := 0x200000
  vbase := 0
  cached := true

/-- The lines that the slices hold, line 1 the most recently used. -/
def twoLines : List SliceLine := [{ line := 1, slice := 1, hint := 1 }, { line := 0, slice := 0, hint := 1 }]

/-- Core 0 holds the translation of the page for context 0, and home slices hold its lines 0 and 1. -/
def sliced : State := State.reset.withMem fun m =>
  { m with tlb := [{ agent := 0, ctx := 0, vbase := 0, leaf := pageZero.leaf, entry := pageZero.entry }], slice := twoLines }

/-- A team on core 0. -/
def prefetcher : Team := Team.launch probeCand 1 0 0 0 0 0 0

/-- PREF.nol1 of words with the bypass hint. -/
def bypassSlice : Mem where
  d := 0
  a := 0
  b := 0
  imm := 0
  prom := false
  noOff := true
  ty := 1
  ord := 0
  scope := 0
  ret := 4
  nol1 := true

theorem sliced_resolve : sliced.resolve (prefetcher.who (sliced.ctxOf prefetcher) (some 0)) .rd 4 4 0 = .ok (.dev pageZero 0) := rfl

/-- The prefetch hits line 0, which becomes the most recently used and keeps its hint (R79). -/
theorem sliced_prefetch : (sliced.prefetch prefetcher bypassSlice (some 0, 0)).mem.slice = twoLines.reverse := rfl

/-- The claim has a bypass prefetch that leaves the L1 alone change nothing of the slices, their order of use included. -/
theorem not_prefetchEffects : ¬ PrefetchEffects := by
  unfold PrefetchEffects
  intro h
  obtain ⟨-, hdev⟩ := h sliced prefetcher bypassSlice 0 0
  obtain ⟨-, hbypass, -⟩ := hdev pageZero 0 sliced_resolve rfl
  have hsame : (sliced.prefetch prefetcher bypassSlice (some 0, 0)).mem.slice = twoLines := (hbypass rfl).2 (by decide)
  exact absurd (sliced_prefetch.symm.trans hsame) (by decide)

/-- Refutes O18: a PREF.nol1 with a bypass hint writes its hint into no line, but a slice line that it hits becomes the most recently
used, so the lines that the slices hold, in their order of use, are not as before (`sliced_prefetch`). -/
theorem not_fencesPrefetchesFlushesProbes : ¬ Obligations.FencesPrefetchesFlushesProbes := by
  unfold Obligations.FencesPrefetchesFlushesProbes
  rintro ⟨⟨-, hpref, -⟩, -⟩
  exact not_prefetchEffects hpref

end Sys2Proof.Machine
end

section
/-! PROOFS. The host's accesses (spec/05_ordering.md R100; spec/20_link.md R399, R408, R409, R412; spec/21_service.md R419). -/

namespace Sys2Proof.Machine
open Sys2Proof.Claim

/-! ## What neither memory nor the links hold, the use of a place keeps -/

section Keeps
variable {α : Type} (g : State → α) (hmem : ∀ s f, g (State.withMem s f) = g s) (hlink : ∀ s f, g (State.withLink s f) = g s)
include hmem

theorem State.rawWrite_keeps (s : State) (pa : Nat) (b : Byte) : g (s.rawWrite pa b) = g s := by
  unfold State.rawWrite
  split <;> exact hmem _ _

theorem State.rekey_keeps (s : State) (slot : Option Nat) (pa : Nat) : g (s.rekey slot pa) = g s := by
  unfold State.rekey
  dsimp only
  split
  · rfl
  · split
    · exact hmem _ _
    · exact (hmem _ _).trans (foldl_keeps g _ (fun _ _ => State.rawWrite_keeps g hmem _ _ _) _ _)

theorem State.touchPage_keeps (s : State) (ret : Nat) (x : Xlat) (pa : Nat) : g (s.touchPage ret x pa) = g s := by
  unfold State.touchPage State.touchLine
  dsimp only
  split
  · rfl
  · split
    · exact hmem _ _
    · split
      · rfl
      · exact hmem _ _

theorem State.touchHome_keeps (s : State) (p : Place) : g (s.touchHome p) = g s := by
  cases p with
  | dev x pa => exact State.touchPage_keeps g hmem s 0 x pa
  | win l => rfl
  | own l o => rfl

include hlink

theorem State.homeStore_keeps (s : State) (slot : Option Nat) (pa : Nat) (b : Byte) : g (s.homeStore slot pa b) = g s := by
  have hput : ∀ slot, g ((s.rekey slot pa).rawWrite pa b) = g s := fun slot =>
    (State.rawWrite_keeps g hmem _ pa b).trans (State.rekey_keeps g hmem s slot pa)
  unfold State.homeStore
  split
  · exact hlink _ _
  · exact hput slot
  · cases slot with
    | none => exact State.rawWrite_keeps g hmem s pa b
    | some k => exact hput (some k)

theorem State.orPte_keeps (s : State) (key entry : Nat) (m : Byte) : g (s.orPte key entry m) = g s := by
  unfold State.orPte
  split
  · exact hlink _ _
  · exact State.homeStore_keeps g hmem hlink _ _ _ _

theorem State.usePlace_keeps (s : State) (w : Who) (a : Access) (p : Place) : g (s.usePlace w a p) = g s := by
  cases p with
  | dev x pa =>
    have hor : ∀ (b : Bool) (u : State) (key : Nat) (m : Byte), g (if b then u.orPte key x.entry m else u) = g u := fun b u key m => by
      cases b with
      | true => exact State.orPte_keeps g hmem hlink u key x.entry m
      | false => rfl
    unfold State.usePlace State.useXlat
    dsimp only
    rw [hmem, hor, hor]
  | win l => rfl
  | own l o => rfl

end Keeps

/-! ## Ownership and the ingress (R408) -/

theorem State.owns_iff {s : State} {f c : Nat} : s.owns f c = true ↔ ownsContext s f c := by
  simp [State.owns, ownsContext, and_assoc]

theorem State.owns_eq_false {s : State} {f c : Nat} (h : ¬ownsContext s f c) : s.owns f c = false :=
  Bool.eq_false_iff.mpr fun ho => h (State.owns_iff.mp ho)

theorem State.hostWho_eq (s : State) (c : Nat) : s.hostWho c = nodeOf s 82 c := by
  simp [State.hostWho, State.nodeWho, State.nodeDie, nodeIsland, ingress, detector, agentWho, engineAgent, nodeOf]

theorem nodeOf_congr {s u : State} (h : u.svc = s.svc) (k c : Nat) : nodeOf u k c = nodeOf s k c := by
  simp [nodeOf, State.stalled, h]

/-- An agent that serves a block leaves the service registers alone. -/
theorem State.serve_svc {s u : State} {w : Who} {va : Nat} {x : Loc × Option Nat × Qcb} (h : s.serve w va = (some x, u)) :
    u.svc = s.svc := by
  unfold State.serve at h
  split at h
  next b key q p _ =>
    obtain ⟨-, rfl⟩ := Prod.mk.inj h
    exact (State.touchHome_keeps State.svc (fun _ _ => rfl) _ p).trans
      (State.usePlace_keeps State.svc (fun _ _ => rfl) (fun _ _ => rfl) s w .rmw p)
  all_goals cases h

/-! ## Writes that enter, and reads (R100, R408) -/

section Enter
variable {s : State} {f c : Nat}

theorem State.post_full {p : Posted} (h : 256 ≤ (s.host.posted.filter fun y => y.func == p.func).length) : s.post p = .next s :=
  if_pos h

theorem State.post_enters {p : Posted} (h : ¬256 ≤ (s.host.posted.filter fun y => y.func == p.func).length) :
    s.post p = .next (s.withHost fun x => { x with posted := x.posted ++ [p] }) :=
  if_neg h

theorem execDoorbell_owned (bytes : List Byte) (h : ownsContext s f c) : execDoorbell f c bytes s =
    s.post { func := f, ctx := c, va := 0, bytes := bytes, relaxed := false, bell := true } := by
  simp [execDoorbell, State.owns_iff.mpr h]

theorem execDoorbell_foreign (bytes : List Byte) (h : ¬ownsContext s f c) : execDoorbell f c bytes s = .next s := by
  simp [execDoorbell, State.owns_eq_false h, stutter]

theorem execBar2Write_owned {off : Nat} {bytes : List Byte} (relaxed : Bool) (h : ownsContext s f c) (hin : off + bytes.length ≤ 2 ^ 29) :
    execBar2Write f c off bytes relaxed s =
      s.post { func := f, ctx := c, va := s.winBaseOf f c + off, bytes := bytes, relaxed := relaxed, bell := false } := by
  have hin : ¬barWindow < off + bytes.length := Nat.not_lt.mpr hin
  simp [execBar2Write, State.owns_iff.mpr h, hin]

theorem execBar2Write_foreign (off : Nat) (bytes : List Byte) (relaxed : Bool) (h : ¬ownsContext s f c) :
    execBar2Write f c off bytes relaxed s = .next s := by
  simp [execBar2Write, State.owns_eq_false h, stutter]

/-- Where a function's posted writes are full, a write of it does not enter, wherever it goes. -/
theorem execBar2Write_full (c off : Nat) (bytes : List Byte) (relaxed : Bool)
    (h : 256 ≤ (s.host.posted.filter fun y => y.func == f).length) : execBar2Write f c off bytes relaxed s = .next s := by
  unfold execBar2Write
  rw [State.post_full h]
  exact ite_self _

theorem State.inFlight_isEmpty {s : State} {f : Nat} : (s.inFlight f).isEmpty = true ↔ ∀ y ∈ s.host.posted, y.func ≠ f := by
  simp [State.inFlight]

theorem execBar2Read_waits (c off n : Nat) (h : ¬∀ y ∈ s.host.posted, y.func ≠ f) : execBar2Read f c off n s = .next s := by
  have h : (s.inFlight f).isEmpty = false := Bool.eq_false_iff.mpr (h ∘ State.inFlight_isEmpty.mp)
  simp [execBar2Read, h, stutter]

section Read
variable {off n : Nat} (hq : ∀ y ∈ s.host.posted, y.func ≠ f) (hoff : off + n ≤ 2 ^ 29) (hn : n ≤ 4096)
include hq hoff hn

theorem execBar2Read_foreign (h : ¬ownsContext s f c) :
    execBar2Read f c off n s = .next (s.reply f (some (List.replicate n 0))) := by
  have hoff : ¬barWindow < off + n := Nat.not_lt.mpr hoff
  simp [execBar2Read, State.inFlight_isEmpty.mpr hq, hoff, Nat.not_lt.mpr hn, State.owns_eq_false h]

theorem execBar2Read_faults {e : TFault} (h : ownsContext s f c)
    (he : s.hostReach c .rd (n / 512 + 2) (s.winBaseOf f c + off) n = .error e) :
    execBar2Read f c off n s = .next ((s.errXlate c e.noTeam).reply f none) := by
  have hoff : ¬barWindow < off + n := Nat.not_lt.mpr hoff
  simp [execBar2Read, State.inFlight_isEmpty.mpr hq, hoff, Nat.not_lt.mpr hn, State.owns_iff.mpr h, he]

theorem execBar2Read_reads (h : ownsContext s f c) (he : s.hostReach c .rd (n / 512 + 2) (s.winBaseOf f c + off) n = .ok ()) :
    let r := s.hostRead c (n / 512 + 2) (s.winBaseOf f c + off) n
    execBar2Read f c off n s = .next (r.2.reply f (some r.1)) := by
  have hoff : ¬barWindow < off + n := Nat.not_lt.mpr hoff
  simp [execBar2Read, State.inFlight_isEmpty.mpr hq, hoff, Nat.not_lt.mpr hn, State.owns_iff.mpr h, he]

end Read
end Enter

/-! ## Posted writes that take effect (R100, R408, R409) -/

/-- The state without a posted write. -/
def State.unposted (s : State) (p : Posted) : State := s.withHost fun h => { h with posted := h.posted.erase p }

section Effect
variable {s : State} {f k : Nat}

theorem execPostedWriteEffect_none (h : (s.host.posted.filter fun y => y.func == f)[k]? = none) :
    execPostedWriteEffect f k s = .next s := by
  have h : (s.inFlight f)[k]? = none := h
  simp [execPostedWriteEffect, h, stutter]

variable {p : Posted} (h : (s.host.posted.filter fun y => y.func == f)[k]? = some p)
include h

theorem execPostedWriteEffect_ordered (hk : k ≠ 0) (hp : p.relaxed = false) : execPostedWriteEffect f k s = .next s := by
  have h : (s.inFlight f)[k]? = some p := h
  simp [execPostedWriteEffect, h, hk, hp, stutter]

theorem execPostedWriteEffect_due (hp : k = 0 ∨ p.relaxed = true) : execPostedWriteEffect f k s = .next ((s.unposted p).effect p) := by
  have h : (s.inFlight f)[k]? = some p := h
  unfold execPostedWriteEffect
  rw [h]
  refine (if_neg ?_).trans rfl
  rcases hp with rfl | hp <;> simp [*]

end Effect

section Takes
variable {s : State} {p : Posted}

theorem State.effect_foreign (h : ¬ownsContext s p.func p.ctx) : s.effect p = s := by
  simp [State.effect, State.owns_eq_false h]

theorem State.effect_store (h : ownsContext s p.func p.ctx) (hb : p.bell = false) : s.effect p = s.hostWrite p := by
  simp [State.effect, State.owns_iff.mpr h, hb]

theorem State.effect_bell (h : ownsContext s p.func p.ctx) (hb : p.bell = true) : s.effect p = s.ringBell p := by
  simp [State.effect, State.owns_iff.mpr h, hb]

theorem State.hostWrite_faults {e : TFault} (h : s.hostReach p.ctx .wr (p.bytes.length / 512 + 2) p.va p.bytes.length = .error e) :
    s.hostWrite p = s.errXlate p.ctx e.noTeam := by
  simp [State.hostWrite, h]

theorem State.hostWrite_lands (h : s.hostReach p.ctx .wr (p.bytes.length / 512 + 2) p.va p.bytes.length = .ok ()) :
    s.hostWrite p = s.winWrite (nodeOf s 82 p.ctx) (p.bytes.length / 512 + 2) p.va p.bytes := by
  simp [State.hostWrite, h, State.hostWho_eq]

/-! ## Doorbells (R409) -/

theorem State.ringBell_short (h : p.bytes.length < 16) : s.ringBell p = s.errBell p 6 := if_pos h

section Served
variable {u : State} (hlen : 16 ≤ p.bytes.length)
include hlen

theorem State.ringBell_unserved (h : s.serve (nodeOf s 82 p.ctx) (leNat (p.bytes.take 8)) = (none, u)) : s.ringBell p = u.errBell p 3 := by
  simp only [State.ringBell, if_neg (Nat.not_lt.mpr hlen), State.hostWho_eq, h, QStatus.badq]

variable {b : Loc} {key : Option Nat} {q : Qcb}
  (h : s.serve (nodeOf s 82 p.ctx) (leNat (p.bytes.take 8)) = (some (b, key, q), u))
include h

theorem State.ringBell_kind (hk : q.kind ∉ bellKinds) : s.ringBell p = u.errBell p 4 := by
  have hk : (!bellKinds.contains q.kind) = true := by simpa using hk
  simp only [State.ringBell, if_neg (Nat.not_lt.mpr hlen), State.hostWho_eq, h, if_pos hk, QStatus.kind]

variable (hk : q.kind ∈ bellKinds)
include hk

theorem State.ringBell_length (hr : p.bytes.length ≠ 16 + 2 ^ q.rsize) : s.ringBell p = u.errBell p 6 := by
  have hk : ¬(!bellKinds.contains q.kind) = true := by simpa using hk
  simp only [State.ringBell, if_neg (Nat.not_lt.mpr hlen), State.hostWho_eq, h, if_neg hk, if_pos (bne_iff_ne.mpr hr), QStatus.badbell]

variable (hr : p.bytes.length = 16 + 2 ^ q.rsize)
include hr

theorem State.ringBell_full (hf : q.head + 2 ^ q.rcap < q.resv + 1) : s.ringBell p = u.errBell p 1 := by
  have hk : ¬(!bellKinds.contains q.kind) = true := by simpa using hk
  have hr : ¬(p.bytes.length != 16 + 2 ^ q.rsize) = true := fun hne => bne_iff_ne.mp hne hr
  simp only [State.ringBell, if_neg (Nat.not_lt.mpr hlen), State.hostWho_eq, h, if_neg hk, if_neg hr, if_pos hf, QStatus.full]

/-- A doorbell that nothing refuses appends its record, as the ingress that served the block. -/
theorem State.ringBell_appends (hf : q.resv + 1 ≤ q.head + 2 ^ q.rcap) :
    let y := (u.qReserve key b q 1 none).addRows (nodeOf s 82 p.ctx).agent p.ctx key b q none q.resv [p.bytes.drop 16]
    s.ringBell p = (y.eng.rows.getLast?).elim y y.writeRow := by
  have hk : ¬(!bellKinds.contains q.kind) = true := by simpa using hk
  have hr : ¬(p.bytes.length != 16 + 2 ^ q.rsize) = true := fun hne => bne_iff_ne.mp hne hr
  have hwho : nodeOf u 82 p.ctx = nodeOf s 82 p.ctx := nodeOf_congr (State.serve_svc h) _ _
  intro y
  have hring : s.ringBell p = u.appendNow (nodeOf s 82 p.ctx).agent p.ctx key b q (p.bytes.drop 16) := by
    simp only [State.ringBell, if_neg (Nat.not_lt.mpr hlen), State.hostWho_eq, h, if_neg hk, if_neg hr, if_neg (Nat.not_lt.mpr hf), hwho]
  rw [hring, State.appendNow]
  cases y.eng.rows.getLast? <;> rfl

end Served
end Takes

/-! ## Registers (R399, R408, R419) -/

theorem State.writePodid_eq (s : State) (f v : Nat) : s.writePodid f v = podidWritten s f v := by
  have hrun : (f != 0 || s.sched.ctxs.any fun c => c.2.st == .running) = true ↔
      ¬(f = 0 ∧ ∀ c ∈ s.sched.ctxs, c.2.st ≠ .running) := by
    simp only [Bool.or_eq_true, bne_iff_ne, List.any_eq_true, beq_iff_eq, ne_eq, Classical.not_and_iff_not_or_not,
      Classical.not_forall, Classical.not_not, exists_prop]
  unfold State.writePodid podidWritten
  by_cases h : f = 0 ∧ ∀ c ∈ s.sched.ctxs, c.2.st ≠ .running
  · rw [if_pos h, if_neg fun hc => hrun.mp hc h]
  · rw [if_neg h, if_pos (hrun.mpr h)]

theorem State.writePlimit_eq (s : State) (f v : Nat) : s.writePlimit f v = limitWritten s f v := by
  by_cases h : f = 0 <;> simp [State.writePlimit, limitWritten, h]

theorem State.writeReg_base (s : State) (f v : Nat) {c : Nat} (h : c < 128) : s.writeReg f (32 + 8 * c) v =
    s.withHost fun h => { h with bases := FMap.put h.bases (f * 128 + c) (v / 2 ^ 29 * 2 ^ 29) } := by
  have hoff : (32 + 8 * c - 0x20) / 8 = c := by omega
  unfold State.writeReg
  rw [if_neg (by simp), if_neg (by simp; omega), if_neg (by simp; omega), if_pos (by simp; omega), hoff]
  rfl

theorem execRegisterWrite_eq {s : State} {f : Nat} (off : Nat) (v : Word) (h : f < 64) :
    execRegisterWrite f off v s = .next (s.writeReg f off v.toNat) := if_neg (Nat.not_le.mpr h)

/-! ## BAR0 reads (R408) -/

theorem State.regValue_base (s : State) (f : Nat) {c : Nat} (h : c < 128) : s.regValue f (32 + 8 * c) = some (s.winBaseOf f c) := by
  have hoff : (32 + 8 * c - 0x20) / 8 = c := by omega
  unfold State.regValue
  dsimp only
  rw [if_neg (by simp), if_neg (by simp; omega), if_neg (by simp; omega), if_neg (by simp; omega), if_pos (by simp; omega), hoff]

/-- The registers that only the physical function has. -/
theorem State.regValue_physical (s : State) : s.regValue 0 0x800 = some s.svc.plimit ∧ s.regValue 0 0x808 = some s.svc.power ∧
    s.regValue 0 0x810 = some s.svc.ratemin ∧ s.regValue 0 0x818 = some s.svc.softlost ∧ s.regValue 0 0x840 = some s.link.podid :=
  ⟨rfl, rfl, rfl, rfl, rfl⟩

theorem State.barByte_register {s : State} {f r x v : Nat} (hv : s.regValue f r = some v) (hr : r < 4096) (hx : x / 8 * 8 = r) :
    s.barByte f x = BitVec.ofNat 8 (v / 256 ^ (x % 8)) := by
  have hlt : x < 4096 := by omega
  simp [State.barByte, hlt, hx, hv]

theorem State.barByte_foreign {s : State} {f c x : Nat} (hlo : 0x80000 + 4096 * c ≤ x) (hhi : x < 0x80000 + 4096 * (c + 1))
    (h : ¬ownsContext s f c) : s.barByte f x = 0 := by
  have hpage : (x - 0x80000) / 4096 = c := by omega
  have hlt : ¬x < 4096 := by omega
  have hle : 0x80000 ≤ x := by omega
  simp [State.barByte, hlt, hle, hpage, State.owns_eq_false h]

theorem State.bar0Read_refused {s : State} {f off n : Nat} (h : 64 ≤ f ∨ 2 ^ 20 < off + n ∨ 4096 < n) : s.bar0Read f off n = s :=
  if_pos (by simpa [or_assoc] using h)

/-- The bytes of a BAR0 read. -/
def State.barBytes (s : State) (f off n : Nat) : List Byte := (List.range n).map fun i => s.barByte f (off + i)

theorem State.bar0Read_answers {s : State} {f off n : Nat} (hf : f < 64) (hoff : off + n ≤ 2 ^ 20) (hn : n ≤ 4096) :
    s.bar0Read f off n = s.reply f (some (s.barBytes f off n)) :=
  if_neg (by simp; omega)

theorem State.barBytes_getD (s : State) (f off : Nat) {n i : Nat} (h : i < n) : (s.barBytes f off n).getD i 0 = s.barByte f (off + i) := by
  simp [State.barBytes, List.getD_eq_getElem?_getD, h]

/-- Bytes of a BAR0 read that lie in a register. -/
theorem State.barBytes_register {s : State} {f r v : Nat} (off n : Nat) (hv : s.regValue f r = some v) (hr : r < 4096) : ∀ i, i < n →
    (off + i) / 8 * 8 = r → (s.barBytes f off n).getD i 0 = BitVec.ofNat 8 (v / 256 ^ ((off + i) % 8)) := fun _ hi hx =>
  (s.barBytes_getD f off hi).trans (State.barByte_register hv hr hx)

/-- Settles O53: each clause is the equation of its access under that clause's conditions. The one fact that is not read off a
definition is that the ingress which appends a doorbell's record is the one that served the block: serving it leaves the service
registers, which name the acting copy of the ingress, alone (`State.serve_svc`). -/
theorem hostAccesses : Obligations.HostAccesses := by
  unfold Obligations.HostAccesses
  intro s f c off n k bytes relaxed v p b key q u e full quiet enters base bell store answers gone takes refused pieces regs func writes
  refine ⟨fun h => ?_, fun ho hfull => ⟨?_, fun hoff => ?_⟩, execBar2Read_waits c off n, fun hq hoff hn => ?_,
    execPostedWriteEffect_none, fun hp => ⟨execPostedWriteEffect_ordered hp, fun hdue => ?_⟩,
    fun h => State.bar0Read_refused h, fun hf hoff hn => ?_, ?_, ?_, fun hf => if_pos hf, fun hf => ?_⟩
  · by_cases ho : ownsContext s f c
    · have hfull := h.resolve_left (not_not_intro ho)
      exact ⟨(execDoorbell_owned bytes ho).trans (State.post_full hfull), execBar2Write_full c off bytes relaxed hfull⟩
    · exact ⟨execDoorbell_foreign bytes ho, execBar2Write_foreign off bytes relaxed ho⟩
  · exact (execDoorbell_owned bytes ho).trans (State.post_enters hfull)
  · exact (execBar2Write_owned relaxed ho hoff).trans (State.post_enters hfull)
  · exact ⟨execBar2Read_foreign hq hoff hn,
      fun ho => ⟨execBar2Read_faults hq hoff hn ho, execBar2Read_reads hq hoff hn ho⟩⟩
  · have htakes : ∀ z, gone.effect p = z → takes z := fun z h => (execPostedWriteEffect_due hp hdue).trans (congrArg _ h)
    refine ⟨fun ho => htakes _ (State.effect_foreign ho), fun ho hb => ?_, fun ho hb => ?_⟩
    · have hstore := State.effect_store (s := gone) ho hb
      exact ⟨fun he => htakes _ (hstore.trans (State.hostWrite_faults he)),
        fun he => htakes _ (hstore.trans (State.hostWrite_lands he))⟩
    · have hbell : ∀ z, gone.ringBell p = z → takes z := fun z h => htakes z ((State.effect_bell (s := gone) ho hb).trans h)
      exact ⟨fun hlen => hbell _ (State.ringBell_short hlen), fun hlen => ⟨fun hserve => hbell _ (State.ringBell_unserved hlen hserve),
        fun hserve => ⟨fun hk => hbell _ (State.ringBell_kind hlen hserve hk),
          fun hk hr => hbell _ (State.ringBell_length hlen hserve hk hr),
          fun hk hr => ⟨fun hf => hbell _ (State.ringBell_full hlen hserve hk hr hf),
            fun hf => hbell _ (State.ringBell_appends hlen hserve hk hr hf)⟩⟩⟩⟩
  · have hreg : ∀ r v, s.regValue f r = some v → r < 4096 → ∀ i, i < n → (off + i) / 8 * 8 = r →
        (s.barBytes f off n).getD i 0 = BitVec.ofNat 8 (v / 256 ^ ((off + i) % 8)) := fun r v => State.barBytes_register off n
    refine ⟨s.barBytes f off n, State.bar0Read_answers hf hoff hn, by simp [State.barBytes], hreg 0 _ rfl (by decide),
      hreg 8 _ rfl (by decide), hreg 16 _ rfl (by decide), hreg 24 _ rfl (by decide),
      fun hc => hreg _ _ (s.regValue_base f hc) (by omega), ?_, fun i hi hlo hhi ho => ?_⟩
    · rintro rfl
      obtain ⟨hlimit, hpower, hrate, hlost, hpod⟩ := s.regValue_physical
      exact ⟨hreg _ _ hlimit (by decide), hreg _ _ hpower (by decide), hreg _ _ hrate (by decide), hreg _ _ hlost (by decide),
        hreg _ _ hpod (by decide)⟩
    · exact (s.barBytes_getD f off hi).trans (State.barByte_foreign hlo hhi ho)
  · exact congrArg _ (s.writePodid_eq f v.toNat)
  · exact congrArg _ (s.writePlimit_eq f v.toNat)
  · have hwrite : ∀ o z, s.writeReg f o v.toNat = z → writes o z := fun o z h => (execRegisterWrite_eq o v hf).trans (congrArg _ h)
    refine ⟨hwrite 0 _ rfl, hwrite 8 _ rfl, hwrite 16 _ rfl, hwrite 24 _ ?_, fun hc => hwrite _ _ (s.writeReg_base f v.toNat hc),
      hwrite 0x840 _ (s.writePodid_eq f v.toNat), hwrite 0x800 _ (s.writePlimit_eq f v.toNat)⟩
    simp [State.writeReg, udpOffset]

end Sys2Proof.Machine
end

section
/-! PROOFS. Commands on gangs and contexts, from a function's ring and from CTXQ (spec/09_page.md R201; spec/17_group.md R365, R366,
R368; spec/18_context.md R377, R380, R383, R384). -/

namespace Sys2Proof.Machine
open Sys2Proof.Claim

/-! ## What neither memory nor the links hold, a release keeps (R91) -/

section Keeps
variable {α : Type} (g : State → α) (hmem : ∀ s f, g (State.withMem s f) = g s) (hlink : ∀ s f, g (State.withLink s f) = g s)
include hmem

theorem State.touchLine_keeps (s : State) (slice hint pa : Nat) : g (s.touchLine slice hint pa) = g s := by
  unfold State.touchLine
  dsimp only
  split
  · rfl
  · split
    · exact hmem _ _
    · split
      · rfl
      · exact hmem _ _

include hlink

theorem State.writeBackBytes_keeps (s : State) (l : L1Line) : g (s.writeBackBytes l) = g s := by
  have hbyte : ∀ (u : State) (i : Nat),
      g (if l.dirty.getLsbD i then u.homeStore (some l.slot) (l.line * 512 + i) (l.byte i) else u) = g u := fun u i => by
    split
    · exact State.homeStore_keeps g hmem hlink u _ _ _
    · rfl
  unfold State.writeBackBytes
  split
  · rfl
  · rw [State.touchLine_keeps g hmem, foldl_keeps g _ hbyte]

theorem State.writeBackAll_keeps (s : State) (cl : Nat) : g (s.writeBackAll cl) = g s := by
  unfold State.writeBackAll State.setL1
  rw [hmem, foldl_keeps g _ (State.writeBackBytes_keeps g hmem hlink)]

theorem State.release_keeps (s : State) (t : Team) (scope : Nat) : g (s.release t scope) = g s := by
  unfold State.release
  split
  · exact State.writeBackAll_keeps g hmem hlink s t.cluster
  · rfl

end Keeps

theorem State.release_ctxOf (s : State) (t u : Team) (scope : Nat) : (s.release t scope).ctxOf u = s.ctxOf u :=
  State.release_keeps (State.ctxOf · u) (fun _ _ => rfl) (fun _ _ => rfl) s t scope

/-! ## Contexts, gangs and teams that commands name (R377) -/

theorem State.denies_iff {s : State} {f c : Nat} : s.denies f c = true ↔ mayNot s f c := by
  simp [State.denies, mayNot]

theorem State.live_iff {s : State} {c : Nat} : (s.ctx c).live = true ↔ isLive s c := by
  simp [Ctx.live, isLive, or_assoc]

theorem State.denies_eq_false {s : State} {f c : Nat} (h : ¬mayNot s f c) : s.denies f c = false :=
  Bool.eq_false_iff.mpr (mt State.denies_iff.mp h)

theorem State.live_eq_false {s : State} {c : Nat} (h : ¬isLive s c) : (s.ctx c).live = false :=
  Bool.eq_false_iff.mpr (mt State.live_iff.mp h)

theorem Gang.dying_iff {g : Gang} : g.dying = true ↔ g.st = .killed ∨ g.kill = true := by simp [Gang.dying]

theorem Team.standing_eq (t : Team) : t.standing = if t.st = .saved then t.back else t.st := by simp [Team.standing]

theorem TeamState.resumable_iff {st : TeamState} : st.resumable = true ↔ st.code ∈ [4, 5] := by
  cases st <;> simp [TeamState.resumable, TeamState.code]

/-- The team that an operand of RESUMET selects: its index in bits 4 to 0, its group in bits 10 to 8. -/
theorem bitsOf_index (y : Nat) : bitsOf y 4 0 = y % 32 := by simp [bitsOf]
theorem bitsOf_group (y : Nat) : bitsOf y 10 8 = y / 256 % 8 := rfl

theorem invalLength_iff {n : Nat} : invalLength n = true ↔ n % 4096 = 0 ∧ n ≠ 0 ∧ n ≤ 2 ^ 57 := by
  simp only [invalLength, Bool.and_eq_true, beq_iff_eq, decide_eq_true_eq]
  omega

theorem State.onGang_dead {s : State} {c h : Nat} (f : Gang → Answer) (hl : ¬isLive s c) : s.onGang c h f = s.answer CStat.state := by
  simp [State.onGang, State.live_eq_false hl]

theorem State.onGang_none {s : State} {c h : Nat} (f : Gang → Answer) (hl : isLive s c) (hn : ∀ g, s.gang h = some g → g.src.ctx ≠ c) :
    s.onGang c h f = s.answer CStat.handle := by
  have hnamed : s.named c h = none := by simpa [State.named] using hn
  simp [State.onGang, State.live_iff.mpr hl, hnamed]

theorem State.onGang_named {s : State} {c h : Nat} {g : Gang} (f : Gang → Answer) (hl : isLive s c) (hg : s.gang h = some g)
    (hc : g.src.ctx = c) : s.onGang c h f = f g := by
  have hnamed : s.named c h = some g := by simp [State.named, hg, hc]
  simp [State.onGang, State.live_iff.mpr hl, hnamed]

/-! ## What a context's words read (R380, R383) -/

theorem foldl_add_filter_map (l : List Nat) (p : Nat → Bool) (f : Nat → Nat) :
    ((l.filter p).map f).foldl (· + ·) 0 = (l.map fun a => if p a then f a else 0).foldl (· + ·) 0 := by
  rw [← List.sum_eq_foldl, ← List.sum_eq_foldl]
  induction l with
  | nil => rfl
  | cons a l ih => by_cases h : p a <;> simp [h, ih]

theorem State.stateWord_eq (s : State) (c : Nat) : s.stateWord c = stateWordOf s c := by
  unfold State.stateWord stateWordOf
  dsimp only
  rw [foldl_add_filter_map]
  cases (s.ctx c).st <;> rfl

theorem State.errStat_eq (s : State) (c : Nat) : s.errStat c = errCounts s c := rfl

/-! ## Each command's answer (R201, R365, R366, R368, R380, R383) -/

/-- PREEMPT of a context's gang (R368). -/
def State.cmdPreempt (s : State) (c h : Nat) : Answer :=
  s.onGang c h fun g =>
    if g.st != .resident then s.answer CStat.state
    else { status := CStat.ok, value := 0, state := s.modGang g.handle fun y => { y with preempt := true } }

/-- The model's answer to the command of a value of R377, for the values 0 to 5 and 11. -/
def State.gangCommand (s : State) (own : Option Nat) (c v x y w : Nat) : Answer :=
  match v with
  | 0 => { status := CStat.ok, value := s.stateWord c, state := s }
  | 1 => s.cmdResumeTeam c x y w
  | 2 => s.cmdResumeGroup c x y
  | 3 => s.cmdKill own c x
  | 4 => s.cmdInval c x y
  | 5 => s.cmdErrStat c
  | _ => s.cmdPreempt c x

theorem State.gangCommand_dead {s : State} {own : Option Nat} {c v x y w : Nat} (hv : v ∈ [1, 2, 3, 4, 5, 11]) (hl : ¬isLive s c) :
    s.gangCommand own c v x y w = s.answer CStat.state := by
  simp only [List.mem_cons, List.not_mem_nil, or_false] at hv
  rcases hv with rfl | rfl | rfl | rfl | rfl | rfl
  · exact State.onGang_dead _ hl
  · exact State.onGang_dead _ hl
  · exact State.onGang_dead _ hl
  · simp [State.gangCommand, State.cmdInval, State.live_eq_false hl]
  · simp [State.gangCommand, State.cmdErrStat, State.live_eq_false hl]
  · exact State.onGang_dead _ hl

section Live
variable {s : State} {own : Option Nat} {c v x y w : Nat} (hl : isLive s c)
include hl

theorem State.gangCommand_none (hv : v ∈ [1, 2, 3, 11]) (hn : ∀ g, s.gang x = some g → g.src.ctx ≠ c) :
    s.gangCommand own c v x y w = s.answer CStat.handle := by
  simp only [List.mem_cons, List.not_mem_nil, or_false] at hv
  rcases hv with rfl | rfl | rfl | rfl <;> exact State.onGang_none _ hl hn

theorem State.cmdErrStat_live : s.cmdErrStat c = { status := CStat.ok, value := errCounts s c, state := s } := by
  simp [State.cmdErrStat, State.live_iff.mpr hl, State.errStat_eq]

theorem State.cmdInval_length (hy : ¬(y % 4096 = 0 ∧ y ≠ 0 ∧ y ≤ 2 ^ 57)) : s.cmdInval c x y = s.answer CStat.arg := by
  simp only [State.cmdInval, State.live_iff.mpr hl, Bool.eq_false_iff.mpr (mt invalLength_iff.mp hy)]
  rfl

theorem State.cmdInval_done (hy : y % 4096 = 0 ∧ y ≠ 0 ∧ y ≤ 2 ^ 57) :
    s.cmdInval c x y = { status := CStat.ok, value := 0, state := s.invalidate c x y } := by
  simp only [State.cmdInval, State.live_iff.mpr hl, invalLength_iff.mpr hy]
  rfl

variable {g : Gang} (hg : s.gang x = some g) (hc : g.src.ctx = c)
include hg hc

theorem State.cmdResumeTeam_operand
    (h : y ≠ y % 32 + y / 256 % 8 * 256 ∨ g.groups.length ≤ y / 256 % 8 ∨ g.src.hdr.teams ≤ y % 32) :
    s.cmdResumeTeam c x y w = s.answer CStat.arg := by
  refine (State.onGang_named _ hl hg hc).trans (if_pos ?_)
  simp only [Bool.or_eq_true, bne_iff_ne, decide_eq_true_eq, or_assoc]
  rwa [bitsOf_index, bitsOf_group]

theorem State.cmdResumeTeam_found {t : Team} (hy : y = y % 32 + y / 256 % 8 * 256) (hgroup : y / 256 % 8 < g.groups.length)
    (hindex : y % 32 < g.src.hdr.teams) (ht : (s.teamsOfGroup x (y / 256 % 8)).find? (·.index == y % 32) = some t) :
    s.cmdResumeTeam c x y w = if g.dying = false ∧ t.standing.code ∈ [4, 5] then
      { status := CStat.ok, value := 0, state := s.resume t (BitVec.ofNat 64 w) } else s.answer CStat.state := by
  refine (State.onGang_named _ hl hg hc).trans ((if_neg ?_).trans ?_)
  · simp only [Bool.or_eq_true, bne_iff_ne, decide_eq_true_eq]
    rw [bitsOf_index, bitsOf_group]
    omega
  · simp [bitsOf_index, bitsOf_group, ht, TeamState.resumable_iff]

theorem State.cmdResumeGroup_operand (h : g.groups.length ≤ y) : s.cmdResumeGroup c x y = s.answer CStat.arg :=
  (State.onGang_named _ hl hg hc).trans (if_pos h)

theorem State.cmdResumeGroup_none (hy : y < g.groups.length)
    (h : g.dying = true ∨ ∀ t ∈ s.teamsOfGroup x y, t.standing ≠ .halted) : s.cmdResumeGroup c x y = s.answer CStat.state := by
  refine (State.onGang_named _ hl hg hc).trans ((if_neg (Nat.not_le.mpr hy)).trans (if_pos ?_))
  simpa using h

theorem State.cmdResumeGroup_halted (hy : y < g.groups.length) (hd : g.dying = false)
    (h : ∃ t ∈ s.teamsOfGroup x y, t.standing = .halted) :
    s.cmdResumeGroup c x y = { status := CStat.ok, value := 0, state :=
      ((s.teamsOfGroup x y).filter fun t => t.standing == .halted).foldl (fun z t => z.resume t 0) s } := by
  refine (State.onGang_named _ hl hg hc).trans ((if_neg (Nat.not_le.mpr hy)).trans (if_neg ?_))
  simpa [hd] using h

theorem State.cmdKill_refused (h : g.dying = true ∨ own = some x) : s.cmdKill own c x = s.answer CStat.state := by
  refine (State.onGang_named _ hl hg hc).trans (if_pos ?_)
  simpa using h

theorem State.cmdKill_accepted (hd : g.dying = false) (hown : own ≠ some x) :
    s.cmdKill own c x = { status := CStat.ok, value := 0, state := s.acceptKill g } := by
  refine (State.onGang_named _ hl hg hc).trans (if_neg ?_)
  simp [hd, hown]

theorem State.cmdPreempt_away (h : g.st ≠ .resident) : s.cmdPreempt c x = s.answer CStat.state :=
  (State.onGang_named _ hl hg hc).trans (if_pos (bne_iff_ne.mpr h))

theorem State.cmdPreempt_resident (h : g.st = .resident) :
    s.cmdPreempt c x = { status := CStat.ok, value := 0, state := s.modGang g.handle fun y => { y with preempt := true } } :=
  (State.onGang_named _ hl hg hc).trans (if_neg (by simp [h]))

end Live

theorem State.acceptKill_eq (s : State) (g : Gang) :
    s.acceptKill g = if g.st = .saving then s.modGang g.handle fun z => { z with kill := true } else s.killGang g := by
  simp [State.acceptKill]

/-- Each case of what a command does is the answer of the model's command. -/
theorem State.gangCommand_of_commandDoes {s z : State} {own : Option Nat} {c v x y w st n : Nat}
    (h : commandDoes s own c v x y w st n z) :
    s.gangCommand own c v x y w = { status := st, value := n, state := z } := by
  rcases h with ⟨rfl, rfl, rfl, rfl⟩ | ⟨hv, hl, rfl, rfl, rfl⟩ | ⟨hl, h⟩
  · simp [State.gangCommand, State.stateWord_eq, CStat.ok]
  · exact State.gangCommand_dead hv hl
  rcases h with ⟨hv, hn, rfl, rfl, rfl⟩ | ⟨rfl, rfl, rfl, rfl⟩ | ⟨rfl, hy, rfl, rfl, rfl⟩ | ⟨rfl, hmod, hpos, hmax, rfl, rfl, rfl⟩ |
    ⟨g, hg, hc, h⟩
  · exact State.gangCommand_none hl hv hn
  · exact State.cmdErrStat_live hl
  · exact State.cmdInval_length hl (by omega)
  · exact State.cmdInval_done hl ⟨hmod, hpos, hmax⟩
  simp only [← Team.standing_eq, ← Gang.dying_iff, ← State.acceptKill_eq] at h
  rcases h with ⟨rfl, hy, rfl, rfl, rfl⟩ | ⟨rfl, hy, hgroup, hindex, t, ht, h⟩ | ⟨rfl, hy, rfl, rfl, rfl⟩ | ⟨rfl, hy, h, rfl, rfl, rfl⟩ |
    ⟨rfl, hy, hd, h, rfl, rfl, rfl⟩ | ⟨rfl, h, rfl, rfl, rfl⟩ | ⟨rfl, hd, hown, rfl, rfl, rfl⟩ | ⟨rfl, h, rfl, rfl, rfl⟩ |
    ⟨rfl, h, rfl, rfl, rfl⟩
  · exact State.cmdResumeTeam_operand hl hg hc hy
  · refine (State.cmdResumeTeam_found hl hg hc hy hgroup hindex ht).trans ?_
    rcases h with ⟨hd, hcode, rfl, rfl, rfl⟩ | ⟨h, rfl, rfl, rfl⟩
    · exact if_pos ⟨Bool.eq_false_iff.mpr hd, hcode⟩
    · exact if_neg fun ⟨hd, hcode⟩ => h.elim (by simp [hd]) (· hcode)
  · exact State.cmdResumeGroup_operand hl hg hc hy
  · exact State.cmdResumeGroup_none hl hg hc hy h
  · exact State.cmdResumeGroup_halted hl hg hc hy (Bool.eq_false_iff.mpr hd) h
  · exact State.cmdKill_refused hl hg hc h
  · exact State.cmdKill_accepted hl hg hc (Bool.eq_false_iff.mpr hd) hown
  · exact State.cmdPreempt_away hl hg hc h
  · exact State.cmdPreempt_resident hl hg hc h

/-! ## Commands of a function's ring (R377) -/

/-- What every command on gangs and contexts answers where it has no effect of its own: nothing without a command or at another
one, and DENIED at a context of another function. -/
structure ContextRow (s : State) (f value : Nat) (i : Instr) : Prop where
  idle : s.command f = none → exec i s = .next s
  other : ∀ c, s.command f = some c → value ≠ c.value → exec i s = .next s
  denied : ∀ c, s.command f = some c → value = c.value → mayNot s f c.ctx → exec i s = .next (answered s f 4 0)

theorem contextRow_of_runCommand {s : State} {f value : Nat} {i : Instr} {act : State → Cmd → Answer}
    (hi : exec i s = s.runCommand f value act) : ContextRow s f value i where
  idle h := by simp [hi, State.runCommand, h, stutter]
  other c h hv := by simp [hi, State.runCommand, h, hv.symm, stutter]
  denied c h hv hd := by
    simp [hi, State.runCommand, h, hv, State.denies_iff.mpr hd, State.answer, CStat.denied, State.finish_eq_answered]

theorem contextRow_inval (s : State) (f : Nat) : ContextRow s f 4 (.inval f) where
  idle h := by simp [exec, execInval, h, stutter]
  other c h hv := by simp [exec, execInval, h, hv.symm, stutter]
  denied c h hv hd := by
    simp [exec, execInval, h, ← hv, State.denies_iff.mpr hd, CStat.denied, State.finish_eq_answered]

/-- The commands of a ring that answer at once, by value (R377). -/
def gangTable (f : Nat) : List (Nat × Instr) :=
  [(0, .state f), (1, .resumet f), (2, .resumeg f), (3, .kill f), (5, .errstat f), (11, .preempt f)]

/-- Each command of the table runs its own operation. -/
theorem exec_of_mem_gangTable {s : State} {f v : Nat} {i : Instr} (h : (v, i) ∈ gangTable f) :
    exec i s = s.runCommand f v fun u c => u.gangCommand none c.ctx v c.op0 c.op1 c.op2 := by
  simp only [gangTable, List.mem_cons, Prod.mk.injEq, List.not_mem_nil, or_false] at h
  rcases h with ⟨rfl, rfl⟩ | ⟨rfl, rfl⟩ | ⟨rfl, rfl⟩ | ⟨rfl, rfl⟩ | ⟨rfl, rfl⟩ | ⟨rfl, rfl⟩ <;> rfl

theorem contextRow_of_mem_table (s : State) (f : Nat) : ∀ p ∈ (4, Instr.inval f) :: gangTable f, ContextRow s f p.1 p.2 :=
  List.forall_mem_cons.mpr ⟨contextRow_inval s f, fun _ hp => contextRow_of_runCommand (exec_of_mem_gangTable hp)⟩

theorem State.runCommand_acts {s u : State} {f value st n : Nat} {c : Cmd} {act : State → Cmd → Answer} (h : s.command f = some c)
    (hv : c.value = value) (hd : ¬mayNot s f c.ctx) (ha : act s c = { status := st, value := n, state := u }) :
    s.runCommand f value act = .next (answered u f st n) := by
  simp [State.runCommand, h, hv, State.denies_eq_false hd, ha, State.finish_eq_answered]

/-! ## INVAL (R201) -/

section Inval
variable {s : State} {f : Nat} {k : Cmd} (h : s.command f = some k) (hv : k.value = 4) (hd : ¬mayNot s f k.ctx)
include h hv hd

theorem execInval_dead (hl : ¬isLive s k.ctx) : exec (.inval f) s = .next (answered s f 1 0) := by
  simp [exec, execInval, h, hv, State.denies_eq_false hd, State.live_eq_false hl, CStat.state, State.finish_eq_answered]

theorem execInval_length (hl : isLive s k.ctx) (hn : ¬(k.op1 % 4096 = 0 ∧ k.op1 ≠ 0 ∧ k.op1 ≤ 2 ^ 57)) :
    exec (.inval f) s = .next (answered s f 3 0) := by
  have hbad : invalLength k.op1 = false := Bool.eq_false_iff.mpr (mt invalLength_iff.mp hn)
  simp [exec, execInval, h, hv, State.denies_eq_false hd, State.live_iff.mpr hl, hbad, CStat.arg, State.finish_eq_answered]

theorem execInval_pends (hl : isLive s k.ctx) (hn : k.op1 % 4096 = 0 ∧ k.op1 ≠ 0 ∧ k.op1 ≤ 2 ^ 57) :
    exec (.inval f) s = .next (s.withSched fun q =>
      { q with invals := q.invals ++ [{ func := f, ctx := k.ctx, va := k.op0, len := k.op1 }] }) := by
  simp [exec, execInval, h, hv, State.denies_eq_false hd, State.live_iff.mpr hl, invalLength_iff.mpr hn]

end Inval

theorem execInvalComplete_none {s : State} {k : Nat} (h : s.sched.invals[k]? = none) : exec (.invalComplete k) s = .next s := by
  simp [exec, execInvalComplete, h, stutter]

theorem execInvalComplete_some {s : State} {k : Nat} {e : Inval} (h : s.sched.invals[k]? = some e) :
    exec (.invalComplete k) s = .next (answered
      ((s.withSched fun q => { q with invals := q.invals.eraseIdx k }).invalidate e.ctx e.va e.len) e.func 0 0) := by
  simp [exec, execInvalComplete, h, CStat.ok, State.finish_eq_answered]

/-- The translations that an invalidation keeps lie outside its range, and so do the table entries. -/
theorem State.mem_invalidate_tlb {s : State} {c va n : Nat} {a : Tlb} (h : a ∈ (s.invalidate c va n).mem.tlb) :
    a.ctx ≠ c ∨ a.vbase + pageSize a.leaf.size ≤ va ∨ va + n ≤ a.vbase := by
  have hkept := (List.mem_filter.mp (show a ∈ s.mem.tlb.filter _ from h)).2
  simp only [Bool.not_eq_true', Bool.and_eq_false_iff, beq_eq_false_iff_ne, decide_eq_false_iff_not] at hkept
  omega

theorem State.mem_invalidate_walks {s : State} {c va n : Nat} {a : Walk} (h : a ∈ (s.invalidate c va n).mem.walks) :
    a.ctx ≠ c ∨ (a.vpre + 1) * 2 ^ levelShift a.level ≤ va ∨ va + n ≤ a.vpre * 2 ^ levelShift a.level := by
  have hkept := (List.mem_filter.mp (show a ∈ s.mem.walks.filter _ from h)).2
  simp only [Bool.not_eq_true', Bool.and_eq_false_iff, beq_eq_false_iff_ne, decide_eq_false_iff_not, Nat.not_lt] at hkept
  rcases hkept with (hc | hlo) | hhi
  · exact .inl hc
  · exact .inr (.inr hlo)
  · exact .inr (.inl hhi)

/-! ## CTXQ (R384) -/

/-- The value a command operand holds: I64 and RAW as they stand, I32 and N32 as the integer they hold. -/
def Team.cmdValue (t : Team) (r : Nat) : Nat :=
  if (t.sreg r).tag = 12 then (t.sreg r).bits.toNat else (scalarInt (t.sreg r).tag (t.sreg r).bits % 2 ^ 64).toNat

theorem SReg.int_eq_scalarInt {r : SReg} (h : r.tag ∈ intTags) : r.int = scalarInt r.tag r.bits := by
  simp only [intTags, Tag.i64, Tag.i32, Tag.n32, List.mem_cons, List.not_mem_nil, or_false] at h
  rcases h with h | h | h <;> simp [SReg.int, scalarInt, Tag.i64, Tag.n32, h]

theorem Team.cmdArg_tagged {t : Team} {r : Nat} (h : (t.sreg r).tag ∈ [10, 1, 2, 12]) : t.cmdArg r = .ok (t.cmdValue r) := by
  unfold Team.cmdArg Team.cmdValue
  by_cases hraw : (t.sreg r).tag = 12
  · simp [Tag.raw, hraw]
  · have hint : (t.sreg r).tag ∈ intTags := by simpa [intTags, Tag.i64, Tag.i32, Tag.n32, hraw] using h
    simp [Tag.raw, hraw, Team.int, hint, SReg.int_eq_scalarInt hint]

theorem Team.cmdArg_untagged {t : Team} {r : Nat} (h : (t.sreg r).tag ∉ [10, 1, 2, 12]) : t.cmdArg r = raise Code.format := by
  have hraw : (t.sreg r).tag ≠ 12 := fun e => h (by simp [e])
  have hint : (t.sreg r).tag ∉ intTags := fun e => h ((by decide : intTags ⊆ [10, 1, 2, 12]) e)
  simp [Team.cmdArg, Tag.raw, hraw, Team.int, hint, raise]

theorem ctxqOperands_eq (v : Nat) : ctxqOperands v = if v = 1 then 3 else if v ∈ [2, 4] then 2 else if v = 3 then 1 else 0 := by
  unfold ctxqOperands
  split <;> simp_all

/-- Operand j of a CTXQ, where its command takes one. -/
def Team.ctxqArg (t : Team) (o : Sys) (j : Nat) : Except Trap Nat :=
  if j < ctxqOperands o.imm.toNat then t.cmdArg (o.a.toNat + j) else .ok 0

theorem ctxqOp_eq (o : Sys) (s : State) (t : Team) : ctxqOp o s t = (do
    let x ← t.ctxqArg o 0
    let y ← t.ctxqArg o 1
    let w ← t.ctxqArg o 2
    let r := (s.release t sysScope).teamCommand t o.imm.toNat x y w
    return .next ((r.state.acquire t sysScope).modTeam t.id fun u => u.setResult o.d.toNat (r.value * 2 ^ 8 + r.status))) := rfl

/-- CTXQ whose operands are integers: its command runs between a release and an acquire. -/
theorem ctxqOp_tagged {o : Sys} {s z : State} {t : Team} {st n : Nat}
    (h : ∀ j, j < ctxqOperands o.imm.toNat → (t.sreg (o.a.toNat + j)).tag ∈ [10, 1, 2, 12])
    (hcmd : let arg := fun j => if j < ctxqOperands o.imm.toNat then t.cmdValue (o.a.toNat + j) else 0
      (s.release t 7).teamCommand t o.imm.toNat (arg 0) (arg 1) (arg 2) = { status := st, value := n, state := z }) :
    ctxqOp o s t = .ok (.next ((z.acquire t 7).modTeam t.id fun u => u.setS o.d.toNat (BitVec.ofNat 64 (n * 2 ^ 8 + st)) 10)) := by
  have harg : ∀ j, t.ctxqArg o j = .ok (if j < ctxqOperands o.imm.toNat then t.cmdValue (o.a.toNat + j) else 0) := fun j => by
    unfold Team.ctxqArg
    split
    · exact Team.cmdArg_tagged (h j ‹_›)
    · rfl
  simp only [ctxqOp_eq, harg, bind, Except.bind, sysScope, hcmd]
  rfl

theorem Team.ctxqArg_cases (t : Team) (o : Sys) (j : Nat) :
    t.ctxqArg o j = raise Code.format ∨ ∃ n, t.ctxqArg o j = .ok n := by
  unfold Team.ctxqArg
  split
  · by_cases h : (t.sreg (o.a.toNat + j)).tag ∈ [10, 1, 2, 12]
    · exact .inr ⟨_, Team.cmdArg_tagged h⟩
    · exact .inl (Team.cmdArg_untagged h)
  · exact .inr ⟨0, rfl⟩

theorem ctxqOperands_le (v : Nat) : ctxqOperands v ≤ 3 := by
  unfold ctxqOperands
  split <;> decide

theorem ctxqOp_untagged {o : Sys} {s : State} {t : Team}
    (h : ∃ j, j < ctxqOperands o.imm.toNat ∧ (t.sreg (o.a.toNat + j)).tag ∉ [10, 1, 2, 12]) :
    ctxqOp o s t = raise Code.format := by
  obtain ⟨j, hj, htag⟩ := h
  have hbad : t.ctxqArg o j = raise Code.format := (if_pos hj).trans (Team.cmdArg_untagged htag)
  have hj3 : j < 3 := Nat.lt_of_lt_of_le hj (ctxqOperands_le _)
  rw [ctxqOp_eq]
  rcases t.ctxqArg_cases o 0 with h0 | ⟨x, h0⟩
  · rw [h0]; rfl
  rcases t.ctxqArg_cases o 1 with h1 | ⟨y, h1⟩
  · rw [h0, h1]; rfl
  have h2 : t.ctxqArg o 2 = raise Code.format := by
    have hcases : j = 0 ∨ j = 1 ∨ j = 2 := by omega
    rcases hcases with rfl | rfl | rfl
    · simp [hbad, raise] at h0
    · simp [hbad, raise] at h1
    · exact hbad
  rw [h0, h1, h2]; rfl

theorem State.teamCommand_eq (s : State) (t : Team) {v : Nat} (hv : v < 6) (x y w : Nat) :
    s.teamCommand t v x y w = s.gangCommand (some t.gang) (s.ctxOf t) v x y w := by
  have hcases : v = 0 ∨ v = 1 ∨ v = 2 ∨ v = 3 ∨ v = 4 ∨ v = 5 := by omega
  rcases hcases with rfl | rfl | rfl | rfl | rfl | rfl <;> rfl

/-- Settles O50: the commands of the table and CTXQ run the same operations (`State.gangCommand`), whose answer is each case of what a
command does, in the order of checks of log entry 41; the ring adds who may issue it (`ContextRow`), CTXQ its operands and a release
that keeps the team's context. -/
theorem commandsOnGangs : Obligations.CommandsOnGangs := by
  unfold Obligations.CommandsOnGangs
  intro s f v c x y w st n k i z t h o e table count reg arg
  have hrow := contextRow_of_mem_table s f
  have hcount : count = ctxqOperands o.imm.toNat := (ctxqOperands_eq _).symm
  refine ⟨fun hn p hp => (hrow p hp).idle (State.command_of_noCommand hn), fun hn => ?_, execInvalComplete_none,
    execInvalComplete_some, fun _ => State.mem_invalidate_tlb, fun _ => State.mem_invalidate_walks, fun hs hr hop => ⟨fun htag => ?_,
    fun htag hdoes => ?_⟩⟩
  · have hcmd := State.command_of_nextCommand hn
    refine ⟨fun p hp => (hrow p hp).other _ hcmd, fun hp => ⟨(hrow _ (.tail _ hp)).denied _ hcmd rfl, fun hd hdoes => ?_⟩, ?_⟩
    · exact (exec_of_mem_gangTable hp).trans (State.runCommand_acts hcmd rfl hd (State.gangCommand_of_commandDoes hdoes))
    · rintro rfl
      exact ⟨(hrow _ (.head _)).denied _ hcmd rfl, execInval_dead hcmd rfl,
        fun hd hl hy => execInval_length hcmd rfl hd hl (by dsimp only; omega),
        fun hd hl hmod hpos hmax => execInval_pends hcmd rfl hd hl ⟨hmod, hpos, hmax⟩⟩
  · exact issueLong_error hs hr (ctxqOp_untagged (hcount ▸ htag))
  · have hrun : (s.release t 7).teamCommand t o.imm.toNat (arg 0) (arg 1) (arg 2) = { status := st, value := n, state := z } := by
      rw [State.teamCommand_eq _ _ hop, State.release_ctxOf]
      exact State.gangCommand_of_commandDoes hdoes
    exact issueLong_next hs hr (ctxqOp_tagged (hcount ▸ htag) (hcount ▸ hrun))

end Sys2Proof.Machine
end
